-- ==== Sys2Proof/Word.lean ====
section
/-!
DEFINITION. The word types of the CLV1600 model and the plainest arithmetic on them (00_scope R1 and
"Pseudocode"; 03 R55). Everything a rule could show wrong stands under Machine/ instead.
-/

namespace Sys2Proof

/-- One byte of memory. -/
abbrev Byte := BitVec 8

/-- One g register (04 R87). -/
abbrev Word := BitVec 32

/-- A 64-bit value: an even-odd pair (R91), an instruction word (R55), an address (R156). -/
abbrev Word64 := BitVec 64

/-- The 128 bits of a capability quad (R149). -/
abbrev Quad := BitVec 128

/-- Names a thread: its launch's serial number, its group's number, its number in the group (R24). -/
structure TId where
  launch : Nat
  group : Nat
  num : Nat
  deriving DecidableEq, Repr

/-- Names a context: its partition and its context id, unique within the partition (R25). -/
structure CtxId where
  part : Nat
  id : Nat
  deriving DecidableEq, Repr

/-- The observers that a write may reach apart from each other (R240, R241, R252): those of the issuing thread's group, the other
observers of the partition on a CU, its command processor, other packages, and everyone. -/
inductive Observer where
  | grp | cu (n : Nat) | cmd | fab | sys
  deriving DecidableEq, Repr

/-- A capability: the 128 bits of a quad and its tag (R149). -/
structure Cap where
  bits : Quad
  tag : Bool
  deriving DecidableEq, Repr

/-- The untagged quad of zeros (R31). -/
def Cap.null : Cap := { bits := 0, tag := false }

end Sys2Proof
end

