-- ==== Sys2Proof/Syntax.lean ====
section
/-!
DEFINITION. The instructions of the CLV1600, whole: one constructor for each row of the opcode table.
A word instruction carries the raw fields of its format (03 R57, R63, R64, R69): by R73 an ill-formed
word whose guard is false has no effect, so an ill-formed field is a value here and a check of its own
in WellFormed. A row without an encoding is an event of the machine or of its surroundings (spec/95);
its constructor carries what the event names.
-/

namespace Sys2Proof

/-- A guard: a predicate number and the negate bit (R57, R63, R69). -/
structure Guard where
  pred : BitVec 4
  neg : Bool
  deriving DecidableEq, Repr

/-- The fields of a format F word but its opcode (R57). -/
structure FWord where
  guard : Guard
  d : BitVec 9
  a : BitVec 10
  b : BitVec 10
  c : BitVec 10
  retain : BitVec 2
  mod : BitVec 8
  deriving DecidableEq, Repr

/-- The fields of a format I word but its opcode (R63). -/
structure IWord where
  guard : Guard
  d : BitVec 9
  a : BitVec 9
  imm : BitVec 32
  deriving DecidableEq, Repr

/-- The fields of a format X word but its opcode (R69). -/
structure XWord where
  guard : Guard
  d : BitVec 9
  a : BitVec 9
  b : BitVec 9
  c : BitVec 9
  mod : BitVec 11
  deriving DecidableEq, Repr

/-- The 25 slot operations of a pair word (R65). -/
inductive SlotOp where
  | nop | add | sub | mul | and | or | xor | shl | shr | sar | mov | min | max | not
  | addi | shli | shri | sari | movi | andi | fadd | fmul | fmin | fmax | fmov
  deriving DecidableEq, Repr

/-- One slot of a pair word (R64). -/
structure PSlot where
  op : SlotOp
  guard : BitVec 2
  d : BitVec 8
  s : BitVec 9
  imm : BitVec 6
  deriving DecidableEq, Repr

/-- What a host or PCIe agent asks of memory through a virtual function (R340, R271, R260). -/
inductive HostOp where
  | read (n : Nat)
  | write (bytes : List Byte)
  | atom (op : BitVec 4) (wide : Bool) (v : Word64)
  deriving DecidableEq, Repr

/-- The address of a host access (R340, R345): a global virtual one, and for a translated request the function that has translated it;
with the PCIe link by which it comes (R418): 0 the internal host port, 1 and 2 the external ports. -/
structure HostAddr where
  link : Nat
  fn : Option Nat
  va : Word64
  deriving DecidableEq, Repr

/-- What a peer packet asks (R379, R380). A read says whether tags are asked for; `desc` is the read of the 128 bytes of a launch descriptor
with their tags, whose page must be tag-capable (R330); a write carries a tag when it is an stc or a
tagged copy, and says whether it is an stc. -/
inductive PeerOp where
  | read (n : Nat) (tagged : Bool)
  | desc
  | write (bytes : List Byte) (tag : Option Bool) (stc : Bool)
  | atom (op : BitVec 4) (wide : Bool) (v : Word64) (reduce : Bool)
  | acas (wide : Bool) (cmp new : Word64)
  | acasc (expected new : Cap)
  deriving DecidableEq, Repr

/-- A request packet as R379 gives its header, with the flow (the source CU and package) and the
sequence number of R261. `home` is the package and partition whose flow it belongs to, where a migrated context sends it again
(R262); none: the sender's own. `port` is the UALink port it arrives by (R419). -/
structure PeerPacket where
  src : Nat
  srcPart : Nat
  cu : Nat
  fabric : BitVec 16
  part : Nat
  gen : BitVec 16
  seq : Nat
  home : Option (Nat × Nat)
  off : Nat
  port : Nat
  op : PeerOp
  deriving DecidableEq, Repr

/-- What the owning package answers (R380, R381): bytes with the tags of the granules they touch. -/
inductive PeerResult where
  | data (bytes : List Byte) (tags : List Bool)
  | ack
  | error (cls : BitVec 8)
  deriving DecidableEq, Repr

/-- A response packet (R381): the owning package, the requester's partition and generation, the flow's CU and home and the number of
the request it answers, and the port it arrives by. -/
structure PeerReply where
  pkg : Nat
  part : Nat
  cu : Nat
  seq : Nat
  home : Option (Nat × Nat)
  gen : BitVec 16
  port : Nat
  result : PeerResult
  deriving DecidableEq, Repr

/-- What firmware names when it creates a partition (R12, R357, R454): slices, tenant, fabric id, own
package index, the frames it takes for translation tables, the size of each slice's write log in frames (R274), and the first page
it maps. -/
structure PartSpec where
  part : Nat
  tenant : Nat
  slices : List Nat
  fabric : BitVec 16
  pkg : BitVec 10
  pool : List Nat
  logFrames : Nat
  bootVa : Word64
  bootFrames : List Nat
  deriving DecidableEq, Repr

/-- What firmware names when it creates a context (R215, R332): slab size, private base, the runs of
frames that back the slabs (first frame and count), priority, and the root capability of each space 0 to 6. -/
structure CtxSpec where
  ctx : CtxId
  slabSize : Nat
  privBase : Nat
  slabRuns : List (Nat × Nat)
  prio : BitVec 2
  roots : List Cap
  deriving DecidableEq, Repr

/-- A merge of two partitions or a split of one (R406); a split names the new partition's slices. -/
inductive Reshape where
  | merge (a b : Nat)
  | split (a b : Nat) (slices : List Nat)
  deriving DecidableEq, Repr

/-- What the steps of a cold start meet (R428): the step that fails, with its code, the stacks that
fail their training, the fabric links' outcome. -/
structure BootResult where
  romOk : Bool
  firmwareOk : Bool
  railsOk : Bool
  linksOk : Bool
  badStacks : BitVec 16
  hostOk : Bool
  deriving DecidableEq, Repr

/-- The items READ_STATE returns (R422). -/
inductive StateItem where
  | regs (lo hi : Nat)
  | preds
  | special (n : Nat)
  | opLog
  deriving DecidableEq, Repr

/-- One constructor for each row of the opcode table. -/
inductive Instr where
  /-- ADD (R101): Adds a and b lane by lane, wrapping. -/
  | add (w : FWord)
  /-- SUB (R101): Subtracts b from a lane by lane, wrapping. -/
  | sub (w : FWord)
  /-- ADDC (R105): Adds with carry-in from a predicate and writes the carry-out to it. -/
  | addc (w : FWord)
  /-- SUBB (R105): Subtracts with borrow-in from a predicate and writes the borrow-out to it. -/
  | subb (w : FWord)
  /-- MUL (R101): Writes the low half of the lane products. -/
  | mul (w : FWord)
  /-- MULHI (R101): Writes the high half of the signed or unsigned lane products. -/
  | mulhi (w : FWord)
  /-- MULW (R102): Writes the full 64-bit product of two 32-bit operands to a pair. -/
  | mulw (w : FWord)
  /-- MAD (R101): Writes x times y plus c per lane. -/
  | mad (w : FWord)
  /-- MADHI (R101): Writes the high half of x times y plus c per lane. -/
  | madhi (w : FWord)
  /-- MIN (R101): Writes the smaller of a and b per lane. -/
  | min (w : FWord)
  /-- MAX (R101): Writes the larger of a and b per lane. -/
  | max (w : FWord)
  /-- ABS (R101): Writes the magnitude per lane, optionally saturated. -/
  | abs (w : FWord)
  /-- NEG (R101): Writes the negation per lane, optionally saturated. -/
  | neg (w : FWord)
  /-- SADD (R101): Adds lane by lane with saturation. -/
  | sadd (w : FWord)
  /-- SSUB (R101): Subtracts lane by lane with saturation. -/
  | ssub (w : FWord)
  /-- AND (R106): Bitwise and. -/
  | and (w : FWord)
  /-- OR (R106): Bitwise or. -/
  | or (w : FWord)
  /-- XOR (R106): Bitwise exclusive or. -/
  | xor (w : FWord)
  /-- ANDN (R106): Bitwise a and not b. -/
  | andn (w : FWord)
  /-- ORN (R106): Bitwise a or not b. -/
  | orn (w : FWord)
  /-- NOT (R106): Bitwise complement. -/
  | not (w : FWord)
  /-- SHL (R107): Shifts each lane left. -/
  | shl (w : FWord)
  /-- SHR (R107): Shifts each lane right with zeros in. -/
  | shr (w : FWord)
  /-- SAR (R107): Shifts each lane right with sign copies in. -/
  | sar (w : FWord)
  /-- ROL (R107): Rotates each lane left. -/
  | rol (w : FWord)
  /-- ROR (R107): Rotates each lane right. -/
  | ror (w : FWord)
  /-- BFX (R109): Extracts a bit field under a field control word. -/
  | bfx (w : FWord)
  /-- BFI (R109): Inserts a bit field into a base under a field control word. -/
  | bfi (w : FWord)
  /-- POPC (R108): Counts 1 bits per lane. -/
  | popc (w : FWord)
  /-- CLZ (R108): Counts leading zeros per lane. -/
  | clz (w : FWord)
  /-- CTZ (R108): Counts trailing zeros per lane. -/
  | ctz (w : FWord)
  /-- BREV (R108): Reverses the bits of each lane. -/
  | brev (w : FWord)
  /-- BPERM (R110): Selects four bytes from eight under a nibble selector. -/
  | bperm (w : FWord)
  /-- SEL (R112): Writes a or b according to a predicate. -/
  | sel (w : FWord)
  /-- MOV (R112): Copies a 32 or 64-bit value. -/
  | mov (w : FWord)
  /-- CLMUL (R111): Writes the low half of a 128-bit carry-less product. -/
  | clmul (w : FWord)
  /-- CLMULHI (R111): Writes the high half of a 128-bit carry-less product. -/
  | clmulhi (w : FWord)
  /-- DOT4 (R103): Sums four byte products into a 32-bit accumulator. -/
  | dot4 (w : FWord)
  /-- ADIFF (R101): Writes the absolute difference per lane. -/
  | adiff (w : FWord)
  /-- CMP (R113): Compares a and b and writes an optionally combined predicate. -/
  | cmp (w : FWord)
  /-- PSET (R114): Writes a predicate from a lookup table of two predicates. -/
  | pset (w : FWord)
  /-- P2G (R114): Writes the predicate mask to a register. -/
  | p2g (w : FWord)
  /-- G2P (R114): Sets predicates from a value under a mask. -/
  | g2p (w : FWord)
  /-- SCADD (R104): Adds a to b shifted left by a constant. -/
  | scadd (w : FWord)
  /-- FADD (R133): Correctly rounded floating-point addition. -/
  | fadd (w : FWord)
  /-- FSUB (R133): Correctly rounded floating-point subtraction. -/
  | fsub (w : FWord)
  /-- FMUL (R133): Correctly rounded floating-point multiplication. -/
  | fmul (w : FWord)
  /-- FFMA (R133): Fused multiply-add with one rounding. -/
  | ffma (w : FWord)
  /-- FMIN (R135): Writes the smaller operand, ordering -0 below +0. -/
  | fmin (w : FWord)
  /-- FMAX (R135): Writes the larger operand, ordering -0 below +0. -/
  | fmax (w : FWord)
  /-- FMOV (R136): Moves a floating-point value bits unchanged. -/
  | fmov (w : FWord)
  /-- FCMP (R137): Compares floating-point values and writes a predicate. -/
  | fcmp (w : FWord)
  /-- FCLASS (R138): Writes a one-hot class mask of a value. -/
  | fclass (w : FWord)
  /-- FDIV (R133): Correctly rounded division. -/
  | fdiv (w : FWord)
  /-- FSQRT (R133): Correctly rounded square root. -/
  | fsqrt (w : FWord)
  /-- FRCP (R139): Approximate reciprocal within 1 ulp. -/
  | frcp (w : FWord)
  /-- FRSQ (R139): Approximate reciprocal square root within 1 ulp. -/
  | frsq (w : FWord)
  /-- FEX2 (R140): Approximate power of two. -/
  | fex2 (w : FWord)
  /-- FLG2 (R140): Approximate base-2 logarithm. -/
  | flg2 (w : FWord)
  /-- FSIN (R140): Approximate sine. -/
  | fsin (w : FWord)
  /-- FCOS (R140): Approximate cosine. -/
  | fcos (w : FWord)
  /-- FCVT (R141): Converts between floating-point types. -/
  | fcvt (w : FWord)
  /-- F2I (R142): Converts a float to a saturated integer. -/
  | f2i (w : FWord)
  /-- I2F (R143): Converts an integer to a float. -/
  | i2f (w : FWord)
  /-- FRND (R144): Rounds each lane to an integral value. -/
  | frnd (w : FWord)
  /-- FSCALE (R145): Multiplies by a power of two with rounding. -/
  | fscale (w : FWord)
  /-- FGEXP (R145): Writes the integer exponent of a value. -/
  | fgexp (w : FWord)
  /-- HADD2 (R133): Packed two-lane 16-bit addition. -/
  | hadd2 (w : FWord)
  /-- HMUL2 (R133): Packed two-lane 16-bit multiplication. -/
  | hmul2 (w : FWord)
  /-- HFMA2 (R133): Packed two-lane fused multiply-add. -/
  | hfma2 (w : FWord)
  /-- FDOT2 (R134): Two-lane dot product plus f32 addend with one rounding. -/
  | fdot2 (w : FWord)
  /-- QDEQ (R146): Dequantises QN4 codes by a scale. -/
  | qdeq (w : FWord)
  /-- ADDI (R115): Adds a 32-bit immediate. -/
  | addi (w : IWord)
  /-- MULI (R115): Multiplies by a 32-bit immediate. -/
  | muli (w : IWord)
  /-- ANDI (R115): Ands with a 32-bit immediate. -/
  | andi (w : IWord)
  /-- ORI (R115): Ors with a 32-bit immediate. -/
  | ori (w : IWord)
  /-- XORI (R115): Exclusive-ors with a 32-bit immediate. -/
  | xori (w : IWord)
  /-- MOVI (R115): Writes a 32-bit immediate. -/
  | movi (w : IWord)
  /-- MOVHI (R115): Writes an immediate into the upper half, keeping the lower half. -/
  | movhi (w : IWord)
  /-- CMPI (R116): Compares with an immediate and writes a predicate. -/
  | cmpi (w : IWord)
  /-- MINI (R115): Signed minimum with an immediate. -/
  | mini (w : IWord)
  /-- MAXI (R115): Signed maximum with an immediate. -/
  | maxi (w : IWord)
  /-- SHLI (R115): Shifts left by an immediate. -/
  | shli (w : IWord)
  /-- SHRI (R115): Shifts right by an immediate with zeros in. -/
  | shri (w : IWord)
  /-- SARI (R115): Shifts right by an immediate with sign in. -/
  | sari (w : IWord)
  /-- FMOVI (R147): Writes a binary32 immediate pattern. -/
  | fmovi (w : IWord)
  /-- FADDI (R147): Adds a binary32 immediate. -/
  | faddi (w : IWord)
  /-- FMULI (R147): Multiplies by a binary32 immediate. -/
  | fmuli (w : IWord)
  /-- BRA (R193): Ends the block and arrives at a target block's platform entry. -/
  | bra (w : IWord)
  /-- BRC (R193): Branches to one of two blocks by a predicate. -/
  | brc (w : IWord)
  /-- CALL (R194): Writes a continuation link and branches to a callee. -/
  | call (w : IWord)
  /-- EXIT_I (R196): Ends the thread with an immediate status. -/
  | exitI (w : IWord)
  /-- TRAP (R197): Raises TRAP with a code. -/
  | trap (w : IWord)
  /-- PAIR_WORD (R66): Executes two guarded slot operations reading before writing. -/
  | pairWord (s0 s1 : PSlot)
  /-- CGET (R163): Writes one field of a capability to a register. -/
  | cget (w : XWord)
  /-- CINC (R164): Adds an offset to a capability's cursor, clearing the tag if unrepresentable. -/
  | cinc (w : XWord)
  /-- CSETC (R164): Replaces a capability's cursor. -/
  | csetc (w : XWord)
  /-- CBND (R165): Narrows a capability's bounds from its cursor. -/
  | cbnd (w : XWord)
  /-- CPERM (R166): Narrows a capability's permissions. -/
  | cperm (w : XWord)
  /-- CVIEW (R166): Replaces a capability's view fields. -/
  | cview (w : XWord)
  /-- CSEAL (R167): Seals a capability with an object type. -/
  | cseal (w : XWord)
  /-- CUNSEAL (R167): Unseals a capability under a seal-space authority. -/
  | cunseal (w : XWord)
  /-- CTAG (R168): Rebuilds a tag against a containing authority. -/
  | ctag (w : XWord)
  /-- CSPC (R169): Reports a capability's space, window, locality and tag. -/
  | cspc (w : XWord)
  /-- CCAST (R170): Renames a capability's bytes in another space. -/
  | ccast (w : XWord)
  /-- CEQ (R171): Compares two capabilities into a predicate. -/
  | ceq (w : XWord)
  /-- CDIF (R171): Writes the cursor difference of two capabilities. -/
  | cdif (w : XWord)
  /-- CCLR (R172): Clears one to eight quads to untagged zero. -/
  | cclr (w : XWord)
  /-- CMOV (R172): Moves a capability with its tag. -/
  | cmov (w : XWord)
  /-- CREP (R173): Reports the length or mask that exact bounds accept. -/
  | crep (w : XWord)
  /-- LD (R206): Loads 1 to 16 bytes through a capability. -/
  | ld (w : XWord)
  /-- LDC (R207): Loads a capability with its tag. -/
  | ldc (w : XWord)
  /-- LDV (R204): Loads one element of a two-dimensional view. -/
  | ldv (w : XWord)
  /-- ST (R222): Stores 1 to 16 bytes through a capability, clearing the granule tag. -/
  | st (w : XWord)
  /-- STC (R223): Stores a capability with its tag. -/
  | stc (w : XWord)
  /-- STV (R222): Stores one element of a two-dimensional view. -/
  | stv (w : XWord)
  /-- ATOM (R228): Read-modify-write returning the old value. -/
  | atom (w : XWord)
  /-- ACAS (R228): Compare-and-swap returning the old value. -/
  | acas (w : XWord)
  /-- RED (R228): Read-modify-write with no result. -/
  | red (w : XWord)
  /-- ACASC (R228): Compare-and-swap of a capability with its tag. -/
  | acasc (w : XWord)
  /-- WADR (R235): Arms a monitor and sleeps while a location holds an expected value. -/
  | wadr (w : XWord)
  /-- WAKE (R237): Wakes threads watching a granule. -/
  | wake (w : XWord)
  /-- PF (R238): Prefetches a line into L1 or L2 without faulting. -/
  | pf (w : XWord)
  /-- FENCE (R254): Orders the thread's accesses by kind and scope. -/
  | fence (w : XWord)
  /-- DRAIN (R256): Holds the thread until engine writes to a memory are performed. -/
  | drain (w : XWord)
  /-- CPY (R293): Enqueues a byte copy. -/
  | cpy (w : XWord)
  /-- CPYV (R293): Enqueues a view-to-view copy, optionally transposed. -/
  | cpyv (w : XWord)
  /-- CPYG (R293): Enqueues a gather copy by an index list. -/
  | cpyg (w : XWord)
  /-- CPYF (R293): Enqueues a fill with a 32-bit pattern. -/
  | cpyf (w : XWord)
  /-- QFEN (R296): Places a join entry in named queues. -/
  | qfen (w : XWord)
  /-- WFILL (R309): Enqueues a weight-slot fill. -/
  | wfill (w : XWord)
  /-- MMO (R310): Enqueues a matrix multiply from a parameter block. -/
  | mmo (w : XWord)
  /-- MST (R311): Enqueues a store of an accumulator tile. -/
  | mst (w : XWord)
  /-- MZRO (R312): Enqueues zeroing of masked tiles. -/
  | mzro (w : XWord)
  /-- MGET (R313): Waits for the matrix queue and reads a tile element or its flags. -/
  | mget (w : XWord)
  /-- OBRES (R314): Reserves an operand-buffer range. -/
  | obres (w : XWord)
  /-- OBREL (R315): Marks a reservation releasing and enqueues its release. -/
  | obrel (w : XWord)
  /-- OBSET (R316): Enqueues a register write into a reservation. -/
  | obset (w : XWord)
  /-- QPUSH (R324): Pushes a word into a ring. -/
  | qpush (w : XWord)
  /-- QPOP (R324): Pops a word from a ring. -/
  | qpop (w : XWord)
  /-- STACQ (R324): Claims a ring slot on the producer or consumer side. -/
  | stacq (w : XWord)
  /-- STREL (R324): Releases a claimed ring slot. -/
  | strel (w : XWord)
  /-- BAR (R327): Group barrier arrival. -/
  | bar (w : XWord)
  /-- HBAR (R328): Team barrier arrival on a handle. -/
  | hbar (w : XWord)
  /-- LAUNCH (R330): Team leader creates a child launch and receives a token. -/
  | launch (w : XWord)
  /-- JOIN (R331): Waits for a child launch and writes its outcome. -/
  | join (w : XWord)
  /-- WAIT (R384): Waits for outstanding-operation counters to fall to a threshold. -/
  | wait (w : XWord)
  /-- CLK (R386): Reads the time count, cycle count or deterministic period. -/
  | clk (w : XWord)
  /-- RDS (R387): Reads a special register. -/
  | rds (w : XWord)
  /-- WRS (R387): Writes s.fps; any other special register faults PRIVILEGE. -/
  | wrs (w : XWord)
  /-- PERFC_RD (R388): Reads a performance counter. -/
  | perfcRd (w : XWord)
  /-- PERFC_SEL (R388): Sets a performance counter's event select and zeroes it. -/
  | perfcSel (w : XWord)
  /-- BRX (R193): Branches to a block held in a register. -/
  | brx (w : XWord)
  /-- CALLX (R194): Calls a block from a register and writes a link. -/
  | callx (w : XWord)
  /-- RET (R193): Returns to a block held in a register. -/
  | ret (w : XWord)
  /-- EXIT_X (R196): Ends the thread with a status from a register. -/
  | exitX (w : XWord)
  /-- NOP (R198): No effect. -/
  | nop (w : XWord)
  /-- BRK (R199): Breakpoint parking the thread under a debug session. -/
  | brk (w : XWord)
  /-- IDLE (R198): Parks the thread for an idle period. -/
  | idle (w : XWord)
  /-- ELECT (R200): Sets a predicate true for the lowest guard-true thread of the train. -/
  | elect (w : XWord)
  /-- SYSC_MAP (R410): Firmware call presenting a mapping request record. -/
  | syscMap (w : XWord)
  /-- SYSC_ALLOC (R364): Firmware call allocating a colour and returning a tagged capability. -/
  | syscAlloc (w : XWord)
  /-- SYSC_REVOKE (R364): Firmware call revoking a colour. -/
  | syscRevoke (w : XWord)
  /-- SYSC_LOWN (R410): Firmware call setting the line-ownership list. -/
  | syscLown (w : XWord)
  /-- RTI (R411): Returns from the handler to a block or exact word. -/
  | rti (w : XWord)
  /-- TRAIN_FORM (R186): Selector forms a train for a free slot from a platform entry or siding position. -/
  | trainForm (cu : Nat)
  /-- LATE_RESULT_PARK (R182): A hold at one word beyond 512 cycles parks the held threads. -/
  | lateResultPark (t : TId)
  /-- IDLE_EXPIRY (R198): The idle period ends and the thread becomes eligible. -/
  | idleExpiry (t : TId)
  /-- WADR_TIMEOUT (R235): A monitor sleeper's time limit expires and it resumes with 3. -/
  | wadrTimeout (t : TId)
  /-- MEMORY_RESPONSE (R360): A load, atomic or ring result returns to the CU and is written. -/
  | memoryResponse (k : Nat)
  /-- STORE_PERFORMED (R254): A thread's store or atomic write becomes performed with respect to the observers of a scope, ending the hold of a fence or release that waits for it. -/
  | storePerformed (k : Nat) (obs : Observer)
  /-- COPY_PERFORM (R293): A copy engine performs a queued copy operation. -/
  | copyPerform (c : CtxId) (cu q : Nat)
  /-- WFILL_PERFORM (R309): Fills a weight slot from its image. -/
  | wfillPerform (c : CtxId) (cu : Nat)
  /-- MMO_PERFORM (R302): The matrix engine computes and writes an accumulator tile. -/
  | mmoPerform (c : CtxId) (cu : Nat)
  /-- FIRST_USE_TRAP (R306): Spills a tile owned by another context and loads the user's content. -/
  | firstUseTrap (c : CtxId) (cu tile : Nat)
  /-- SUBNORMAL_ASSIST (R304): Control core completes a step with a tiny rounding and returns the tile. -/
  | subnormalAssist (c : CtxId) (cu : Nat)
  /-- MST_PERFORM (R311): Stores a tile's elements to memory or the operand buffer. -/
  | mstPerform (c : CtxId) (cu : Nat)
  /-- MZRO_PERFORM (R312): Zeroes masked tiles and their flags. -/
  | mzroPerform (c : CtxId) (cu : Nat)
  /-- OBSET_PERFORM (R316): Writes register data into a reservation. -/
  | obsetPerform (c : CtxId) (cu : Nat)
  /-- OBREL_PERFORM (R315): Zeroes and frees a releasing reservation. -/
  | obrelPerform (c : CtxId) (cu : Nat)
  /-- QFEN_JOIN (R296): A join is performed when every earlier operation of its named queues is performed. -/
  | qfenJoin (c : CtxId) (cu id : Nat)
  /-- KEY_CACHE_FILL (R370): The Curator fills a missing port key-cache entry. -/
  | keyCacheFill (cu slice entry : Nat)
  /-- LAUNCH_START (R332): Command processor checks a descriptor and starts or refuses a launch. -/
  | launchStart (l : Nat)
  /-- TEAM_ADMIT (R27): A team's groups are admitted whole to one cluster when resources fit. -/
  | teamAdmit (l : Nat) (cus : List Nat)
  /-- COMPLETION_RECORD_WRITE (R52): Writes a complete launch's record with the done word last. -/
  | completionRecordWrite (l : Nat)
  /-- CMD_NOP (R334): Queue command with no effect. -/
  | cmdNop (vf q : Nat)
  /-- CMD_LAUNCH (R334): Queue command passing a descriptor to the command processor. -/
  | cmdLaunch (vf q : Nat)
  /-- CMD_HANDLE (R334): Queue command writing a handle-table entry. -/
  | cmdHandle (vf q : Nat)
  /-- QTAIL (R333): Doorbell write making queue entries visible to the command processor. -/
  | qtail (vf q : Nat) (v : BitVec 32)
  /-- QSTAT_RUN (R333): Host sets or clears run of a command queue. -/
  | qstatRun (vf q : Nat) (run : Bool)
  /-- QSTAT_CLEAR_STOPPED (R333): Host clears stopped, skipping or rereading entries by error code. -/
  | qstatClearStopped (vf q : Nat)
  /-- PRREPLY_RESOLVED (R353): Replays every access held on a resolved page. -/
  | prreplyResolved (vf : Nat) (id gen : BitVec 16)
  /-- PRREPLY_INVALID (R353): Fails every access held on a page with PAGE_PERM. -/
  | prreplyInvalid (vf : Nat) (id gen : BitVec 16)
  /-- VF_ERROR_CLEAR (R457): Host clears the VF error register's valid, more and cause. -/
  | vfErrorClear (vf : Nat)
  /-- REGISTER_WRITE (R350): Write to a VF register with no behaviour of its own, retrying a held request entry. -/
  | registerWrite (vf off : Nat) (v : Word64)
  /-- MAP_REQUEST (R347): Maps pages onto consecutive logical frames. -/
  | mapRequest (part : Nat)
  /-- UNMAP_REQUEST (R347): Clears present on every leaf of a range. -/
  | unmapRequest (part : Nat)
  /-- PROTECT_REQUEST (R347): Replaces leaf permissions and kind on a range. -/
  | protectRequest (part : Nat)
  /-- CAT_LOAD (R375): Verifies a manifest and maps a model under the catalogue. -/
  | catLoad (part : Nat)
  /-- CAT_PIN (R376): Sets a resident entry's pinned bit. -/
  | catPin (part : Nat)
  /-- CAT_UNPIN (R376): Clears a resident entry's pinned bit. -/
  | catUnpin (part : Nat)
  /-- DEACCESSION (R376): Unmaps a model and frees its frames, keeping its key slot. -/
  | deaccession (part : Nat)
  /-- HOST_ACCESS (R340): A host or agent access through the VF is translated and performed or refused. -/
  | hostAccess (vf : Nat) (va : HostAddr) (op : HostOp)
  /-- ATS_TRANSLATION_REQUEST (R345): Memory firmware answers an agent's translation request. -/
  | atsTranslationRequest (vf fn : Nat) (va : Word64)
  /-- ATS_INVALIDATION_COMPLETION (R345): An agent's ATS invalidation completion arrives. -/
  | atsInvalidationCompletion (vf fn : Nat)
  /-- ATS_TIMEOUT (R345): After 1 ms without completion, ATS is disabled for the function. -/
  | atsTimeout (vf fn : Nat)
  /-- PEER_REQUEST (R380): A UALink port receives a peer request and accepts or refuses it. -/
  | peerRequest (p : PeerPacket)
  /-- PEER_RESPONSE (R381): A peer response returns and is discarded on a stale generation. -/
  | peerResponse (p : PeerReply)
  /-- GENERATION_UPDATE (R381): A package learns a source partition's new generation. -/
  | generationUpdate (pkg part : Nat) (gen : BitVec 16)
  /-- COLOUR_MARKING (R365): A package marks a colour revoking and acknowledges. -/
  | colourMarking (tenant colour : Nat)
  /-- MARKING_ACK (R365): A package's marking acknowledgement arrives. -/
  | markingAck (tenant colour pkg : Nat)
  /-- REVOCATION_SWEEP (R366): After all acknowledgements, sweeps tags of the colour everywhere. -/
  | revocationSweep (tenant colour : Nat)
  /-- SWEEP_ACK (R366): A package's sweep acknowledgement arrives; the last frees the colour. -/
  | sweepAck (tenant colour pkg : Nat)
  /-- FRAME_GRANT (R344): Memory firmware grants a frame with scrub pending. -/
  | frameGrant (part slice : Nat)
  /-- FRAME_RECLAIM (R344): Memory firmware unmaps, invalidates and frees a granted frame. -/
  | frameReclaim (frame : Nat)
  /-- OWNER_CHANGE_SCRUB (R280): Scrub of granted frames completes with a signed receipt. -/
  | ownerChangeScrub (first count : Nat)
  /-- PATROL_SCRUB (R277): Patrol scrubber reads a granule in its daily sweep. -/
  | patrolScrub (slice : Nat)
  /-- REFRESH_DUE (R276): A row group's refresh falls due and is issued or skipped. -/
  | refreshDue (slice row : Nat)
  /-- CHANNEL_WINDOW (R355): A 4 us arbitration window begins with fresh floors and ceilings. -/
  | channelWindow (slice chan : Nat)
  /-- USE_COUNT_DECAY (R371): Catalogue use counts are halved each second. -/
  | useCountDecay (slice : Nat)
  /-- PARTITION_CREATE (R454): Firmware creates a partition with a fresh generation and map. -/
  | partitionCreate (p : PartSpec)
  /-- PREEMPT (R396): Quiescence stops issue and settles in-flight transactions. -/
  | preempt (c : CtxId)
  /-- CONTEXT_SAVE (R399): Writes the context image after quiescence completes. -/
  | contextSave (c : CtxId)
  /-- CONTEXT_RESTORE (R402): Places groups, writes sections, sets the remap and replays. -/
  | contextRestore (c : CtxId) (place : List (Nat × Nat))
  /-- CONTEXT_EXPORT (R407): Writes and signs an export image. -/
  | contextExport (c : CtxId) (pkg : Nat)
  /-- CONTEXT_IMPORT (R409): Checks and installs an export image on the target. -/
  | contextImport (k part : Nat) (place : List (Nat × Nat))
  /-- CONTEXT_END (R458): Ends a context's launches and frees its state. -/
  | contextEnd (c : CtxId)
  /-- PARTITION_POWER_UP (R416): Slice firmware powers up a gated partition's slices. -/
  | partitionPowerUp (part : Nat)
  /-- PARTITION_REMOVE (R433): Slice firmware removes a partition, ending its contexts and disabling its virtual function. -/
  | partitionRemove (part : Nat)
  /-- PARTITION_MERGE_SPLIT (R406): Merges or splits partitions while every context is saved. -/
  | partitionMergeSplit (m : Reshape)
  /-- SLICE_RESET (R404): Resets one slice, ends the partition's launches and increments its generation. -/
  | sliceReset (slice : Nat)
  /-- SLICE_WATCHDOG (R404): A slice-level watchdog expires and requests a reset. -/
  | sliceWatchdog (slice : Nat)
  /-- MONITOR_SAMPLE (R392): Writes the slice monitor record every 100 us. -/
  | monitorSample (slice : Nat)
  /-- POWER_CONTROL_STEP (R431): Each millisecond lowers or raises slice clocks by power and temperature. -/
  | powerControlStep
  /-- STEP (R426): Issues one word for threads parked for debug. -/
  | step (session ctx launch group blk off : Nat)
  /-- STOP_INTERFACE (R417): TDISP stop resetting queues and saving contexts. -/
  | stopInterface (vf : Nat)
  /-- COLD_START (R428): Package cold start runs boot steps 1 to 5. -/
  | coldStart (b : BootResult)
  /-- BOOT_TIMEOUT (R428): Step 5 not ended within 60 s fails the start. -/
  | bootTimeout
  /-- BOOT_REASON_REPORT (R430): In minimal mode the boot reason is reported every second. -/
  | bootReasonReport
  /-- POWER_INPUT_LOSS (R427): Loss of the 54 V input clears retained registers. -/
  | powerInputLoss
  /-- SET_POWER_LIMIT (R431): Management command setting the power limit. -/
  | setPowerLimit (watts : Nat)
  /-- RETRY_BOOT (R430): Management command clearing the count and starting again. -/
  | retryBoot (b : BootResult)
  /-- FIRMWARE_STAGE (R432): Management command storing a firmware image for the next start. -/
  | firmwareStage (kind : Nat) (image : List Byte)
  /-- GET_VERSION (R415): SPDM version request. -/
  | getVersion (vf : Nat)
  /-- GET_CAPABILITIES (R415): SPDM capabilities request. -/
  | getCapabilities (vf : Nat)
  /-- NEGOTIATE_ALGORITHMS (R415): SPDM algorithm negotiation limited to P-384, SHA-384, AES-256-GCM. -/
  | negotiateAlgorithms (vf : Nat) (p384 sha384 gcm : Bool)
  /-- GET_DIGESTS (R415): SPDM certificate digests request. -/
  | getDigests (vf : Nat)
  /-- GET_CERTIFICATE (R415): SPDM certificate chain request ending at the alias key. -/
  | getCertificate (vf slot : Nat)
  /-- CHALLENGE (R415): SPDM challenge signed by the alias key. -/
  | challenge (vf slot : Nat) (nonce : BitVec 256)
  /-- GET_MEASUREMENTS (R416): Returns signed measurement blocks of the VF's partition. -/
  | getMeasurements (vf : Nat) (session : Option Nat) (index : Nat) (nonce : BitVec 256)
  /-- KEY_EXCHANGE (R422): Opens a secure session. -/
  | keyExchange (vf : Nat) (cert : List Byte)
  /-- FINISH (R422): Completes a secure session handshake. -/
  | finish (session : Nat) (mac : List Byte)
  /-- HEARTBEAT (R424): Keeps a secure session alive. -/
  | heartbeat (session : Nat)
  /-- HEARTBEAT_EXPIRY (R424): Session heartbeat expiry acts as DETACH. -/
  | heartbeatExpiry (session : Nat)
  /-- KEY_UPDATE (R418): Refreshes session or link keys. -/
  | keyUpdate (session : Nat)
  /-- END_SESSION (R424): Ends a secure session, detaching its debug. -/
  | endSession (session : Nat)
  /-- RESPOND_IF_READY (R416): Polls for a response that was not ready. -/
  | respondIfReady (vf : Nat)
  /-- EVIDENCE_MODE (R416): Requests live evidence for the next measurement. -/
  | evidenceMode (session : Nat) (live : Bool)
  /-- SET_KEK (R422): Replaces the tenant's key-encryption key. -/
  | setKek (session : Nat) (key : BitVec 256)
  /-- REG_PUB (R422): Registers a publisher key id. -/
  | regPub (session : Nat) (key : List Byte)
  /-- ALLOW_EXPORT (R421): Permits one export of a context to a package. -/
  | allowExport (session ctx pkg : Nat)
  /-- ATTACH (R424): Attaches debug to a context. -/
  | attach (session ctx : Nat)
  /-- DETACH (R424): Detaches debug and resumes parked threads. -/
  | detach (session ctx : Nat)
  /-- SET_WATCH (R425): Sets a watch range of a context. -/
  | setWatch (session ctx index : Nat) (kinds : BitVec 8) (base len : Word64)
  /-- READ_STATE (R422): Returns state of a thread parked for debug. -/
  | readState (session ctx : Nat) (t : TId) (item : StateItem)
  /-- READ_MEM (R423): Reads memory as the named thread would through a quad. -/
  | readMem (session ctx : Nat) (t : TId) (quad : Nat) (off : Word64) (len : Nat)
  /-- RESUME (R426): Resumes debug-parked threads, optionally delivering the fault. -/
  | resume (session ctx launch group : Nat) (thread : Option Nat) (deliver : Bool)
  /-- LOCK_INTERFACE (R417): TDISP lock freezing partition configuration. -/
  | lockInterface (vf : Nat)
  /-- START_INTERFACE (R417): TDISP start moving the interface to RUN. -/
  | startInterface (vf : Nat)
  /-- IDE_STREAM_FAILURE (R418): A Link IDE stream leaves the secure state and traffic is dropped. -/
  | ideStreamFailure (link : Nat)
  /-- UALINK_PORT_AUTH (R419): Curators authenticate a UALink port's peer, enabling or disabling it. -/
  | ualinkPortAuth (port : Nat) (evidence : List Byte)
  /-- TENANT_CREATE (R363): A tenant is created, with its memory and transfer keys generated and its colour table initialised with colour 0 live. -/
  | tenantCreate (tenant : Nat)
  /-- TENANT_END (R413): A tenant ends, freeing colour 0 and destroying its keys. -/
  | tenantEnd (tenant : Nat)
  /-- CONTEXT_CREATE (R215): Slice firmware creates a context, reserving and mapping its private slabs and save area. -/
  | contextCreate (c : CtxSpec)
  /-- QUEUE_BIND (R333): Slice firmware binds a command-queue register set to a context. -/
  | queueBind (vf q ctx : Nat)
  /-- PARTITION_GATE (R358): Slice firmware powers down the slices of a descheduled partition, moving it to state gated. -/
  | partitionGate (part : Nat)
  /-- VF_RESET (R345): A virtual function is reset, re-enabling ATS for its functions after a timeout disabled it. -/
  | vfReset (vf : Nat)
  /-- REACH_TABLE_WRITE (R378): Slice firmware writes an entry of a partition's reach table and its port copies. -/
  | reachTableWrite (part pkg : Nat) (entry : BitVec 32)
  /-- ARBITER_TABLE_WRITE (R355): Slice firmware sets a partition's channel floor and ceiling. -/
  | arbiterTableWrite (slice chan part floor ceiling : Nat)
  /-- WAY_QUOTA_WRITE (R356): Slice firmware changes a partition's L2 way mask at a home slice. -/
  | wayQuotaWrite (slice part : Nat) (mask : BitVec 32)
  /-- FAIRNESS_LIMIT_WRITE (R175): Slice firmware sets a CU's fairness limit between launches. -/
  | fairnessLimitWrite (cu limit : Nat)
  /-- CONTEXT_PRIORITY_WRITE (R187): Slice firmware sets a context's priority, changing its groups' priority. -/
  | contextPriorityWrite (c : CtxId) (prio : BitVec 2)
  /-- IDE_KM_KEY_PROG (R418): An IDE_KM exchange in an SPDM session programs a link's Link IDE stream keys and brings the stream to the secure state. -/
  | ideKmKeyProg (session link dir : Nat) (key : BitVec 256)
  /-- IMPORT_REPORT (R407): The target's report of a completed import reaches the source, which then discards its saved context. -/
  | importReport (c : CtxId) (pkg : Nat)
  deriving DecidableEq, Repr

end Sys2Proof
end

