-- ==== Sys2Proof/WellFormed.lean ====
section
/-!
DEFINITION. Step 4 and step 5 of the decoding order (03 R73) as data: for each opcode, which of a word's
fields names what (R56, R58, R60, R69) and which modifier values are defined (R74). The same operand
list gives the registers that the allocation check (R31) and the pending check (R94) look at.
-/

namespace Sys2Proof

/-- What one field of a word is used for, with the field's value. -/
inductive Operand where
  /-- an unused field: it must be zero (R56) -/
  | unused (v : Nat)
  /-- a 10-bit source field of R58, of one register or of a pair -/
  | src (pair : Bool) (v : Nat)
  /-- `k` consecutive g registers, aligned to a pair or a quad where `k` is 2 or a multiple of 4 -/
  | regs (k : Nat) (v : Nat)
  /-- a predicate index in bits 3:0, the rest zero (R100) -/
  | pred (v : Nat)
  /-- a predicate index with a negate bit in bit 4 (R100) -/
  | predNeg (v : Nat)
  /-- a field with a layout of its own, checked with the modifier -/
  | other
  deriving DecidableEq, Repr

/-- The alignment of `k` consecutive registers (R60, R69). -/
def Operand.align (k : Nat) : Nat := if k = 1 then 1 else if k = 2 then 2 else 4

/-- The registers an operand names. -/
def Operand.regList : Operand → List Nat
  | .src pair v => if v < 512 then (if pair then [v, v + 1] else [v]) else []
  | .regs k v => (List.range k).map (v + ·)
  | .unused _ => []
  | .pred _ => []
  | .predNeg _ => []
  | .other => []

/-- The encoding check of one operand, without the allocation (R56, R58, R60, R69, R100). -/
def Operand.ok : Operand → Bool
  | .unused v => v == 0
  | .src pair v => if v < 512 then !pair || v % 2 == 0 else v < 576
  | .regs k v => v % Operand.align k == 0
  | .pred v => v < 16
  | .predNeg v => v < 32
  | .other => true

/-- What a word's opcode makes of its fields: the operands, and whether every modifier value and every
field with its own layout is defined. -/
structure Shape where
  operands : List Operand
  modOk : Bool
  deriving DecidableEq, Repr

/-- Step 4 of R73 but for the allocation. -/
def Shape.ok (s : Shape) : Bool := s.modOk && s.operands.all Operand.ok

/-- The registers the word names (R94). -/
def Shape.regList (s : Shape) : List Nat := s.operands.flatMap Operand.regList

/-- The allocation check of R31: every named register lies below the thread's count. -/
def Shape.allocated (s : Shape) (n : Nat) : Bool := s.regList.all (· < n)

/-! ## Format F -/

/-- The type code, modifier [7:5] (R62). -/
def FWord.ty (w : FWord) : Nat := w.mod.toNat / 32

/-- Modifier [4:0] (R62). -/
def FWord.lo (w : FWord) : Nat := w.mod.toNat % 32

/-- The 64-bit integer types (R96). -/
def intWide (ty : Nat) : Bool := ty == 2 || ty == 3

def tyAll (_ : Nat) : Bool := true
def ty3264 (ty : Nat) : Bool := ty < 4
def tySigned (ty : Nat) : Bool := ty % 2 == 0
def ty32 (ty : Nat) : Bool := ty < 2
def ty64 (ty : Nat) : Bool := ty == 2 || ty == 3
def tyBytes (ty : Nat) : Bool := ty == 6 || ty == 7
def tyI32 (ty : Nat) : Bool := ty == 0

/-- d, a, b with the type's width (R99). -/
def fDAB (w : FWord) (tys : Nat → Bool) (lo : Bool) : Shape :=
  let p := intWide w.ty
  { operands := [.regs (if p then 2 else 1) w.d.toNat, .src p w.a.toNat, .src p w.b.toNat, .unused w.c.toNat]
    modOk := tys w.ty && lo }

/-- d, a, b, c with the type's width. -/
def fDABC (w : FWord) (tys : Nat → Bool) (lo : Bool) : Shape :=
  let p := intWide w.ty
  { operands := [.regs (if p then 2 else 1) w.d.toNat, .src p w.a.toNat, .src p w.b.toNat, .src p w.c.toNat]
    modOk := tys w.ty && lo }

/-- d, a with the type's width. -/
def fDA (w : FWord) (tys : Nat → Bool) (lo : Bool) : Shape :=
  let p := intWide w.ty
  { operands := [.regs (if p then 2 else 1) w.d.toNat, .src p w.a.toNat, .unused w.b.toNat, .unused w.c.toNat]
    modOk := tys w.ty && lo }

/-- d, a with the type's width and a 32-bit b: shifts and `bfx` (R107, R109). -/
def fDAb (w : FWord) (tys : Nat → Bool) : Shape :=
  let p := intWide w.ty
  { operands := [.regs (if p then 2 else 1) w.d.toNat, .src p w.a.toNat, .src false w.b.toNat, .unused w.c.toNat]
    modOk := tys w.ty && w.lo == 0 }

/-- The F integer words (R99, R100, R113, R114). -/
def intShape (op : Nat) (w : FWord) : Shape :=
  let p := intWide w.ty
  let z := w.lo == 0
  let k := if p then 2 else 1
  match op with
  | 0x01 | 0x02 | 0x05 | 0x06 | 0x0A | 0x0B | 0x0E | 0x0F | 0x10 | 0x11 | 0x12 | 0x13 | 0x14 | 0x27 =>
    fDAB w tyAll z
  | 0x03 | 0x04 => fDAB w ty3264 true
  | 0x07 => { operands := [.regs 2 w.d.toNat, .src false w.a.toNat, .src false w.b.toNat, .unused w.c.toNat]
              modOk := ty32 w.ty && z }
  | 0x08 | 0x09 => fDABC w tyAll z
  | 0x0C | 0x0D => fDA w tySigned (w.lo < 2)
  | 0x15 | 0x1D | 0x1E | 0x1F | 0x20 => fDA w tyAll z
  | 0x16 | 0x17 | 0x18 | 0x19 | 0x1A => fDAb w tyAll
  | 0x1B => fDAb w ty3264
  | 0x1C => { operands := [.regs k w.d.toNat, .src p w.a.toNat, .src p w.b.toNat, .src false w.c.toNat]
              modOk := ty3264 w.ty && z }
  | 0x21 => fDABC w ty32 z
  | 0x22 => { operands := [.regs k w.d.toNat, .src p w.a.toNat, .src p w.b.toNat, .predNeg w.c.toNat]
              modOk := ty3264 w.ty && z }
  | 0x23 => fDA w ty3264 z
  | 0x24 | 0x25 => fDAB w ty64 z
  | 0x26 => fDABC w tyBytes (w.lo < 2)
  | 0x28 => { operands := [.pred w.d.toNat, .src p w.a.toNat, .src p w.b.toNat,
                if w.lo % 4 == 0 then .unused w.c.toNat else .pred w.c.toNat]
              modOk := ty3264 w.ty && w.lo / 4 < 6 && w.lo % 4 < 3 }
  | 0x29 => { operands := [.pred w.d.toNat, .pred w.a.toNat, .pred w.b.toNat, .unused w.c.toNat]
              modOk := tyI32 w.ty && w.lo < 16 }
  | 0x2A => { operands := [.regs 1 w.d.toNat, .unused w.a.toNat, .unused w.b.toNat, .unused w.c.toNat]
              modOk := tyI32 w.ty && z }
  | 0x2B => { operands := [.unused w.d.toNat, .src false w.a.toNat, .src false w.b.toNat, .unused w.c.toNat]
              modOk := tyI32 w.ty && z }
  | 0x2C => fDAB w ty3264 true
  | _ => { operands := [], modOk := false }

/-- The rounding code, modifier [4:3] (R62). -/
def FWord.rnd (w : FWord) : Nat := w.lo / 8

/-- Floating-point types: scalar 0 to 3, packed 4 and 5 (R62, R132). -/
def ftyScalar (ty : Nat) : Bool := ty < 4
def ftyAll (ty : Nat) : Bool := ty < 6
def ftyPacked (ty : Nat) : Bool := ty == 4 || ty == 5
def ftyF32F64 (ty : Nat) : Bool := ty < 2
def ftyQdeq (ty : Nat) : Bool := ty == 0 || ty == 4 || ty == 5

/-- The modifier limits of one row of R132: any rounding, saturate allowed, neg/abs allowed (R131). -/
def floatMod (w : FWord) (tys : Nat → Bool) (rnd sat neg : Bool) : Bool :=
  tys w.ty && (rnd || w.rnd == 0) && (sat || w.lo / 4 % 2 == 0) && (neg || w.lo % 4 == 0)

/-- The source type of `fcvt`, b[2:0] (R141). -/
def FWord.cvtSrc (w : FWord) : Nat := w.b.toNat % 8

/-- The combinations of R141, with the lane select b[3] and b[9:4] zero. -/
def cvtOk (w : FWord) : Bool :=
  let s := w.cvtSrc
  let d := w.ty
  let l := w.b.toNat / 8 % 2
  w.b.toNat < 16 &&
    ((s < 4 && d < 4 && l == 0) || (s == 0 && ftyPacked d && l == 0)
      || (ftyPacked s && ftyF32F64 d) || (s == 4 && d == 5 && l == 0) || (s == 5 && d == 4 && l == 0))

/-- The F floating-point words (R132, R137, R141 to R143). -/
def floatShape (op : Nat) (w : FWord) : Shape :=
  let p := w.ty == 1
  let k := if p then 2 else 1
  let d := Operand.regs k w.d.toNat
  let a := Operand.src p w.a.toNat
  let b := Operand.src p w.b.toNat
  let c := Operand.src p w.c.toNat
  let ub := Operand.unused w.b.toNat
  let uc := Operand.unused w.c.toNat
  match op with
  | 0x40 | 0x41 | 0x42 | 0x49 => { operands := [d, a, b, uc], modOk := floatMod w ftyScalar true true true }
  | 0x43 => { operands := [d, a, b, c], modOk := floatMod w ftyScalar true true true }
  | 0x44 | 0x45 => { operands := [d, a, b, uc], modOk := floatMod w ftyAll false false true }
  | 0x46 => { operands := [d, a, ub, uc], modOk := floatMod w ftyAll false false true }
  | 0x47 =>
    let comb := w.d.toNat / 16 % 4
    { operands := [.other, a, b, if comb == 0 then uc else .pred w.c.toNat]
      modOk := floatMod w ftyScalar false false true && comb < 3 }
  | 0x48 | 0x56 => { operands := [.regs 1 w.d.toNat, a, ub, uc], modOk := floatMod w ftyScalar false false false }
  | 0x4A => { operands := [d, a, ub, uc], modOk := floatMod w ftyScalar true true true }
  | 0x4B | 0x4C | 0x4D | 0x4E | 0x4F | 0x50 =>
    { operands := [d, a, ub, uc], modOk := floatMod w ftyF32F64 false true true }
  | 0x51 =>
    { operands := [d, .src (w.cvtSrc == 1) w.a.toNat, .other,
        if w.cvtSrc == 0 && ftyPacked w.ty then .src false w.c.toNat else uc]
      modOk := floatMod w ftyAll true true true && cvtOk w }
  | 0x52 =>
    { operands := [.regs (if intWide w.b.toNat then 2 else 1) w.d.toNat, a, .other, uc]
      modOk := floatMod w ftyScalar true false true && w.b.toNat < 4 }
  | 0x53 =>
    { operands := [d, .src (intWide w.b.toNat) w.a.toNat, .other, uc]
      modOk := floatMod w ftyScalar true true false && w.b.toNat < 4 }
  | 0x54 => { operands := [d, a, ub, uc], modOk := floatMod w ftyAll true false true }
  | 0x55 => { operands := [d, a, .src false w.b.toNat, uc], modOk := floatMod w ftyScalar true true true }
  | 0x57 | 0x58 => { operands := [d, a, b, uc], modOk := floatMod w ftyPacked true true true }
  | 0x59 | 0x5A => { operands := [d, a, b, c], modOk := floatMod w ftyPacked true true true }
  | 0x5B => { operands := [d, a, b, c], modOk := floatMod w ftyQdeq true true false }
  | _ => { operands := [], modOk := false }

/-- The F words other than the header (R75). -/
def fShape (op : Nat) (w : FWord) : Shape := if op < 0x40 then intShape op w else floatShape op w

/-! ## Format I -/

/-- The I words (R76, R115, R116, R147, R191). -/
def iShape (op : Nat) (w : IWord) : Shape :=
  let d := Operand.regs 1 w.d.toNat
  let a := Operand.regs 1 w.a.toNat
  let ud := Operand.unused w.d.toNat
  let ua := Operand.unused w.a.toNat
  let imm := w.imm.toNat
  match op with
  | 0x01 | 0x02 | 0x03 | 0x04 | 0x05 | 0x09 | 0x0A | 0x0F | 0x10 => { operands := [d, a], modOk := true }
  | 0x06 | 0x0E => { operands := [d, ua], modOk := true }
  | 0x07 => { operands := [d, a], modOk := imm < 65536 }
  | 0x08 => { operands := [.other, a], modOk := w.d.toNat / 16 % 4 == 0 }
  | 0x0B | 0x0C | 0x0D => { operands := [d, a], modOk := imm < 32 }
  | 0x20 => { operands := [ud, ua], modOk := imm < 65536 }
  | 0x21 => { operands := [ud, .predNeg w.a.toNat], modOk := true }
  | 0x22 => { operands := [d, ua], modOk := true }
  | 0x23 => { operands := [ud, ua], modOk := imm < 256 }
  | 0x24 => { operands := [ud, ua], modOk := imm < 65536 }
  | _ => { operands := [], modOk := false }

/-! ## Format X -/

/-- Bits [hi:lo] of the modifier. -/
def XWord.bits (w : XWord) (hi lo : Nat) : Nat := w.mod.toNat / 2 ^ lo % 2 ^ (hi + 1 - lo)

/-- Bit [n] of the modifier. -/
def XWord.bit (w : XWord) (n : Nat) : Bool := w.mod.toNat.testBit n

/-- The scope and order bits of a load or store: scope [8:6] at most 4, zero without bit [5] (R202, R219). -/
def XWord.scopeOk (w : XWord) : Bool := w.bits 8 6 < 5 && (w.bit 5 || w.bits 8 6 == 0)

/-- The optional index of an access, b unless the no-index bit `n` is set. -/
def XWord.index (w : XWord) (n : Nat) : Operand :=
  if w.bit n then .unused w.b.toNat else .regs 1 w.b.toNat

/-- The number of registers of an access of width code W (R202). -/
def widthRegs (wc : Nat) : Nat := if wc < 3 then 1 else if wc == 3 then 2 else 4

/-- Capability words (R162). -/
def capShape (op : Nat) (w : XWord) : Shape :=
  let d := w.d.toNat; let a := w.a.toNat; let b := w.b.toNat; let c := w.c.toNat; let m := w.mod.toNat
  match op with
  | 0x001 => { operands := [.regs (if m < 5 then 2 else 1) d, .regs 4 a, .unused b, .unused c], modOk := m < 14 }
  | 0x002 => { operands := [.regs 4 d, .regs 4 a, .regs (if m == 1 then 1 else 2) b, .unused c], modOk := m < 2 }
  | 0x003 => { operands := [.regs 4 d, .regs 4 a, .regs 2 b, .unused c], modOk := m == 0 }
  | 0x004 => { operands := [.regs 4 d, .regs 4 a, .regs 2 b, .unused c], modOk := m < 2 }
  | 0x005 | 0x006 => { operands := [.regs 4 d, .regs 4 a, .regs 1 b, .unused c], modOk := m == 0 }
  | 0x007 | 0x008 | 0x009 => { operands := [.regs 4 d, .regs 4 a, .regs 4 b, .unused c], modOk := m == 0 }
  | 0x00A => { operands := [.regs 1 d, .regs 4 a, .unused b, .unused c], modOk := m == 0 }
  | 0x00B => { operands := [.regs 4 d, .regs 4 a, .unused b, .unused c], modOk := m < 7 }
  | 0x00C => { operands := [.pred d, .regs 4 a, .regs 4 b, .unused c], modOk := m < 2 }
  | 0x00D => { operands := [.regs 2 d, .regs 4 a, .regs 4 b, .unused c], modOk := m < 2 }
  | 0x00E => { operands := [.regs (4 * (m % 8 + 1)) d, .unused a, .unused b, .unused c], modOk := m < 8 }
  | 0x00F => { operands := [.regs 4 d, .regs 4 a, .unused b, .unused c], modOk := m == 0 }
  | 0x010 => { operands := [.regs 2 d, .regs 2 a, .unused b, .unused c], modOk := m < 2 }
  | _ => { operands := [], modOk := false }

/-- Loads, stores, atomics, monitors, prefetch, fence and drain (R202, R219, R226, R234, R238, R253, R256).
The data register of `ldv` and `stv` is checked at the width the view gives, when the word runs. -/
def memShape (op : Nat) (w : XWord) : Shape :=
  let d := w.d.toNat; let a := w.a.toNat; let b := w.b.toNat; let c := w.c.toNat; let m := w.mod.toNat
  let wc := w.bits 2 0
  let k := if w.bit 1 then 2 else 1
  match op with
  | 0x040 => { operands := [.regs (widthRegs wc) d, .regs 4 a, w.index 9, .unused c]
               modOk := wc < 5 && (!w.bit 3 || wc < 2) && w.scopeOk }
  | 0x041 => { operands := [.regs 4 d, .regs 4 a, w.index 9, .unused c], modOk := w.bits 3 0 == 0 && w.scopeOk }
  | 0x042 => { operands := [.regs 1 d, .regs 4 a, .regs 1 b, .regs 1 c]
               modOk := wc == 0 && !w.bit 4 && !w.bit 9 && w.scopeOk }
  | 0x080 => { operands := [.unused d, .regs 4 a, w.index 9, .regs (widthRegs wc) c]
               modOk := wc < 5 && !w.bit 3 && w.scopeOk }
  | 0x081 => { operands := [.unused d, .regs 4 a, w.index 9, .regs 4 c], modOk := w.bits 3 0 == 0 && w.scopeOk }
  | 0x082 => { operands := [.regs 1 d, .regs 4 a, .regs 1 b, .regs 1 c]
               modOk := w.bits 4 0 == 0 && !w.bit 9 && w.scopeOk }
  | 0x083 => { operands := [.regs k d, .regs 4 a, w.index 0, .regs k c]
               modOk := w.bits 10 8 < 5 && w.bits 5 2 < 14 }
  | 0x084 => { operands := [.regs k d, .regs 4 a, w.index 0, .regs (2 * k) c]
               modOk := w.bits 10 8 < 5 && w.bits 5 2 == 0 }
  | 0x085 => { operands := [.unused d, .regs 4 a, w.index 0, .regs k c]
               modOk := w.bits 10 8 < 5 && w.bits 5 2 < 14 && w.bits 5 2 != 8 && !w.bit 6 }
  | 0x086 => { operands := [.regs 4 d, .regs 4 a, w.index 0, .regs 8 c]
               modOk := w.bits 10 8 < 5 && w.bits 5 1 == 0 }
  | 0x087 => { operands := [.regs 1 d, .regs 4 a, w.index 9, .regs (if w.bit 5 then 2 else 1) c]
               modOk := !w.bit 10 && w.bits 8 6 == 0 }
  | 0x088 => { operands := [.regs 1 d, .regs 4 a, w.index 9, .regs 1 c], modOk := !w.bit 10 && w.bits 8 0 == 0 }
  | 0x089 => { operands := [.unused d, .unused a, .unused b, .unused c]
               modOk := w.bits 10 9 == 0 && w.bits 8 6 < 5 && w.bits 5 3 == 0 && wc < 5 }
  | 0x08A => { operands := [.unused d, .unused a, .unused b, .unused c], modOk := m < 6 }
  | 0x08B => { operands := [.unused d, .regs 4 a, w.index 9, .unused c]
               modOk := !w.bit 10 && w.bits 8 5 == 0 && w.bits 3 2 == 0 && w.bits 1 0 < 2 }
  | _ => { operands := [], modOk := false }

/-- Copy and matrix words (R290, R296, R308). -/
def engineShape (op : Nat) (w : XWord) : Shape :=
  let d := w.d.toNat; let a := w.a.toNat; let b := w.b.toNat; let c := w.c.toNat
  let dst := if w.bit 10 then Operand.regs 1 d else Operand.regs 4 d
  let copyMod := !w.bit 9 && w.bits 7 6 == 0 && w.bits 3 2 == 0
  match op with
  | 0x0C0 => { operands := [dst, .regs 4 a, .regs 1 b, .unused c], modOk := copyMod && !(w.bit 8 && w.bit 10) }
  | 0x0C1 => { operands := [dst, .regs 4 a, .regs 2 b, if w.bit 10 then .regs 1 c else .unused c], modOk := copyMod }
  | 0x0C2 => { operands := [.regs 4 d, .regs 4 a, .regs 4 b, .regs 1 c], modOk := copyMod && !w.bit 10 && !w.bit 8 }
  | 0x0C3 => { operands := [dst, .regs 1 a, .regs 1 b, .unused c], modOk := copyMod && !w.bit 8 }
  | 0x0C4 => { operands := [.unused d, .regs 1 a, .unused b, .unused c], modOk := w.bits 10 6 == 0 && w.bits 3 0 == 0 }
  | 0x0C5 => { operands := [.regs 1 d, .regs 4 a, w.index 9, .regs 1 c], modOk := w.bits 8 6 == 0 && w.bits 3 0 == 0 }
  | 0x0C8 => { operands := [.unused d, .regs 4 a, w.index 9, .unused c]
               modOk := !w.bit 10 && w.bits 8 6 == 0 && w.bits 3 0 == 0 }
  | 0x0C9 =>
    { operands := if w.bit 10 then [.unused d, .regs 1 a, .regs 1 b, .unused c]
                  else [.unused d, .regs 4 a, w.index 9, .unused c]
      modOk := w.bits 8 6 < 5 && (w.bits 8 6 != 3 || w.bits 3 0 % 2 == 0) && !(w.bit 10 && w.bit 9) }
  | 0x0CA => { operands := [.unused d, .regs 1 a, .unused b, .unused c], modOk := w.bits 10 6 == 0 && w.bits 3 0 == 0 }
  | 0x0CB => { operands := [.regs (if w.bits 7 6 == 1 then 2 else 1) d, .regs 1 a, .unused b, .unused c]
               modOk := w.bits 10 8 == 0 && w.bits 7 6 < 3 && w.bits 5 4 == 0 && (w.bits 7 6 != 1 || w.bits 3 0 % 2 == 0) }
  | 0x0CC => { operands := [.regs 1 d, .regs 1 a, .regs 1 b, .unused c], modOk := w.mod == 0 }
  | 0x0CD => { operands := [.unused d, .regs 1 a, .unused b, .unused c], modOk := w.bits 10 6 == 0 && w.bits 3 0 == 0 }
  | 0x0CE => { operands := [.unused d, .regs 1 a, .unused b, .regs (widthRegs (w.bits 2 0)) c]
               modOk := w.bits 10 6 == 0 && !w.bit 3 && 2 ≤ w.bits 2 0 && w.bits 2 0 < 5 }
  | _ => { operands := [], modOk := false }

/-- Ring, barrier, launch, counter, control and firmware-call words (R323, R327 to R331, R384 to R388,
R191, R410, R411). -/
def ctrlShape (op : Nat) (w : XWord) : Shape :=
  let d := w.d.toNat; let a := w.a.toNat; let b := w.b.toNat; let c := w.c.toNat; let m := w.mod.toNat
  let ud := Operand.unused d; let ua := Operand.unused a; let ub := Operand.unused b; let uc := Operand.unused c
  match op with
  | 0x100 => { operands := [if w.bit 6 then .pred d else ud, .regs 1 a, ub, uc], modOk := w.bits 10 7 == 0 }
  | 0x101 => { operands := [.regs 1 d, ua, ub, if w.bit 6 then .pred c else uc], modOk := w.bits 10 7 == 0 }
  | 0x102 => { operands := [.regs 1 d, ua, ub, if w.bit 6 then .pred c else uc], modOk := w.bits 10 8 == 0 }
  | 0x103 => { operands := [ud, .regs 1 a, if w.bit 8 then .regs 1 b else ub, uc]
               modOk := w.bits 10 9 == 0 && !w.bit 6 && !(w.bit 8 && w.bit 7) }
  | 0x104 => { operands := [ud, ua, ub, uc], modOk := m == 0 }
  | 0x105 => { operands := [ud, ua, ub, uc], modOk := m < 64 }
  | 0x106 => { operands := [.regs 1 d, .regs 4 a, ub, uc], modOk := m == 0 }
  | 0x107 => { operands := [.regs 1 d, .regs 1 a, ub, uc], modOk := m == 0 }
  | 0x140 => { operands := [ud, ua, ub, uc], modOk := !w.bit 10 || w.bits 9 8 == 0 }
  | 0x141 => { operands := [.regs 2 d, ua, ub, uc], modOk := m < 2 }
  | 0x142 => { operands := [.regs (if m == 0x0A || m == 0x0E then 2 else 1) d, ua, ub, uc], modOk := m < 0x13 }
  | 0x143 => { operands := [ud, .regs 1 a, ub, uc], modOk := m < 0x13 }
  | 0x144 => if w.bit 3 then { operands := [ud, .regs 1 a, ub, uc], modOk := m < 16 }
             else { operands := [.regs 2 d, ua, ub, uc], modOk := m < 16 }
  | 0x180 | 0x182 | 0x183 => { operands := [ud, .regs 1 a, ub, uc], modOk := m == 0 }
  | 0x181 => { operands := [.regs 1 d, .regs 1 a, .regs 1 b, uc], modOk := m == 0 }
  | 0x184 => { operands := [ud, ua, ub, uc], modOk := m == 0 }
  | 0x185 => match w.bits 7 0 with
    | 1 => { operands := [ud, .regs 4 a, ub, uc], modOk := m < 256 }
    | 2 => { operands := [.regs 4 d, .regs 4 a, ub, uc], modOk := m < 256 }
    | 3 => { operands := [.regs 1 d, .regs 4 a, ub, uc], modOk := m < 256 }
    | 4 => { operands := [.regs 1 d, .regs 4 a, .regs 1 b, uc], modOk := m < 256 }
    | _ => { operands := [], modOk := false }
  | 0x186 => { operands := [ud, .regs 1 a, ub, uc], modOk := m < 2 }
  | 0x187 | 0x188 => { operands := [ud, ua, ub, uc], modOk := true }
  | 0x1C0 => { operands := [.pred d, ua, ub, uc], modOk := m == 0 }
  | _ => { operands := [], modOk := false }

/-- The X words (R77). -/
def xShape (op : Nat) (w : XWord) : Shape :=
  if op < 0x040 then capShape op w
  else if op < 0x0C0 then memShape op w
  else if op < 0x100 then engineShape op w
  else ctrlShape op w

/-! ## Format P -/

/-- What a slot's operation reads and writes (R65, R67): `d` and `s` read, `d` written, `imm6` used. -/
structure SlotUse where
  readsD : Bool
  readsS : Bool
  writesD : Bool
  usesImm : Bool
  deriving DecidableEq, Repr

def SlotOp.use : SlotOp → SlotUse
  | .nop => { readsD := false, readsS := false, writesD := false, usesImm := false }
  | .add | .sub | .mul | .and | .or | .xor | .shl | .shr | .sar | .min | .max
  | .fadd | .fmul | .fmin | .fmax => { readsD := true, readsS := true, writesD := true, usesImm := false }
  | .mov | .not | .fmov => { readsD := false, readsS := true, writesD := true, usesImm := false }
  | .addi | .shli | .shri | .sari | .andi => { readsD := true, readsS := false, writesD := true, usesImm := true }
  | .movi => { readsD := false, readsS := false, writesD := true, usesImm := true }

/-- The shifts by an immediate, whose imm6 is 0 to 31 (R65). -/
def SlotOp.isShiftImm : SlotOp → Bool
  | .shli | .shri | .sari => true
  | .nop | .add | .sub | .mul | .and | .or | .xor | .shl | .shr | .sar | .mov | .min | .max | .not
  | .addi | .movi | .andi | .fadd | .fmul | .fmin | .fmax | .fmov => false

/-- The encoding checks of a slot, whatever its guard (R68). -/
def PSlot.ok (s : PSlot) : Bool :=
  let u := s.op.use
  (s.op != .nop || s.guard == 0) && (u.writesD || s.d == 0) && (u.readsS || s.s == 0)
    && (u.usesImm || s.imm == 0) && (!s.op.isShiftImm || s.imm.toNat < 32)

/-- The registers a slot names. -/
def PSlot.regList (s : PSlot) : List Nat :=
  (if s.op.use.writesD then [s.d.toNat] else []) ++ (if s.op.use.readsS then [s.s.toNat] else [])

/-- The registers a slot reads (R67): each field it reads counts, so a register that one slot reads as both d and s counts twice, as
one read by both slots does (DESIGN CHOICE, log entry 84). -/
def PSlot.reads (s : PSlot) : List Nat :=
  (if s.op.use.readsD then [s.d.toNat] else []) ++ (if s.op.use.readsS then [s.s.toNat] else [])

/-- The pair rules (R67): the written registers differ and lie in different banks, and no bank is read
more than twice. -/
def pairOk (s0 s1 : PSlot) : Bool :=
  (!(s0.op.use.writesD && s1.op.use.writesD) || s0.d.toNat % 4 != s1.d.toNat % 4)
    && (List.range 4).all (fun b => ((s0.reads ++ s1.reads).filter (· % 4 == b)).length ≤ 2)

/-! ## Well-formed instructions -/

/-- The place of a word instruction in the opcode map: its format, its opcode, its fields (R75 to R77).
An event of the opcode table has none. -/
inductive Code where
  | f (op : Nat) (w : FWord)
  | i (op : Nat) (w : IWord)
  | x (op : Nat) (w : XWord)
  | p (s0 s1 : PSlot)
  | event
  deriving DecidableEq, Repr

/-- The opcode of each word instruction. -/
def Instr.code : Instr → Code
  | .add w => .f 0x01 w
  | .sub w => .f 0x02 w
  | .addc w => .f 0x03 w
  | .subb w => .f 0x04 w
  | .mul w => .f 0x05 w
  | .mulhi w => .f 0x06 w
  | .mulw w => .f 0x07 w
  | .mad w => .f 0x08 w
  | .madhi w => .f 0x09 w
  | .min w => .f 0x0A w
  | .max w => .f 0x0B w
  | .abs w => .f 0x0C w
  | .neg w => .f 0x0D w
  | .sadd w => .f 0x0E w
  | .ssub w => .f 0x0F w
  | .and w => .f 0x10 w
  | .or w => .f 0x11 w
  | .xor w => .f 0x12 w
  | .andn w => .f 0x13 w
  | .orn w => .f 0x14 w
  | .not w => .f 0x15 w
  | .shl w => .f 0x16 w
  | .shr w => .f 0x17 w
  | .sar w => .f 0x18 w
  | .rol w => .f 0x19 w
  | .ror w => .f 0x1A w
  | .bfx w => .f 0x1B w
  | .bfi w => .f 0x1C w
  | .popc w => .f 0x1D w
  | .clz w => .f 0x1E w
  | .ctz w => .f 0x1F w
  | .brev w => .f 0x20 w
  | .bperm w => .f 0x21 w
  | .sel w => .f 0x22 w
  | .mov w => .f 0x23 w
  | .clmul w => .f 0x24 w
  | .clmulhi w => .f 0x25 w
  | .dot4 w => .f 0x26 w
  | .adiff w => .f 0x27 w
  | .cmp w => .f 0x28 w
  | .pset w => .f 0x29 w
  | .p2g w => .f 0x2A w
  | .g2p w => .f 0x2B w
  | .scadd w => .f 0x2C w
  | .fadd w => .f 0x40 w
  | .fsub w => .f 0x41 w
  | .fmul w => .f 0x42 w
  | .ffma w => .f 0x43 w
  | .fmin w => .f 0x44 w
  | .fmax w => .f 0x45 w
  | .fmov w => .f 0x46 w
  | .fcmp w => .f 0x47 w
  | .fclass w => .f 0x48 w
  | .fdiv w => .f 0x49 w
  | .fsqrt w => .f 0x4A w
  | .frcp w => .f 0x4B w
  | .frsq w => .f 0x4C w
  | .fex2 w => .f 0x4D w
  | .flg2 w => .f 0x4E w
  | .fsin w => .f 0x4F w
  | .fcos w => .f 0x50 w
  | .fcvt w => .f 0x51 w
  | .f2i w => .f 0x52 w
  | .i2f w => .f 0x53 w
  | .frnd w => .f 0x54 w
  | .fscale w => .f 0x55 w
  | .fgexp w => .f 0x56 w
  | .hadd2 w => .f 0x57 w
  | .hmul2 w => .f 0x58 w
  | .hfma2 w => .f 0x59 w
  | .fdot2 w => .f 0x5A w
  | .qdeq w => .f 0x5B w
  | .addi w => .i 0x01 w
  | .muli w => .i 0x02 w
  | .andi w => .i 0x03 w
  | .ori w => .i 0x04 w
  | .xori w => .i 0x05 w
  | .movi w => .i 0x06 w
  | .movhi w => .i 0x07 w
  | .cmpi w => .i 0x08 w
  | .mini w => .i 0x09 w
  | .maxi w => .i 0x0A w
  | .shli w => .i 0x0B w
  | .shri w => .i 0x0C w
  | .sari w => .i 0x0D w
  | .fmovi w => .i 0x0E w
  | .faddi w => .i 0x0F w
  | .fmuli w => .i 0x10 w
  | .bra w => .i 0x20 w
  | .brc w => .i 0x21 w
  | .call w => .i 0x22 w
  | .exitI w => .i 0x23 w
  | .trap w => .i 0x24 w
  | .pairWord s0 s1 => .p s0 s1
  | .cget w => .x 0x001 w
  | .cinc w => .x 0x002 w
  | .csetc w => .x 0x003 w
  | .cbnd w => .x 0x004 w
  | .cperm w => .x 0x005 w
  | .cview w => .x 0x006 w
  | .cseal w => .x 0x007 w
  | .cunseal w => .x 0x008 w
  | .ctag w => .x 0x009 w
  | .cspc w => .x 0x00A w
  | .ccast w => .x 0x00B w
  | .ceq w => .x 0x00C w
  | .cdif w => .x 0x00D w
  | .cclr w => .x 0x00E w
  | .cmov w => .x 0x00F w
  | .crep w => .x 0x010 w
  | .ld w => .x 0x040 w
  | .ldc w => .x 0x041 w
  | .ldv w => .x 0x042 w
  | .st w => .x 0x080 w
  | .stc w => .x 0x081 w
  | .stv w => .x 0x082 w
  | .atom w => .x 0x083 w
  | .acas w => .x 0x084 w
  | .red w => .x 0x085 w
  | .acasc w => .x 0x086 w
  | .wadr w => .x 0x087 w
  | .wake w => .x 0x088 w
  | .pf w => .x 0x08B w
  | .fence w => .x 0x089 w
  | .drain w => .x 0x08A w
  | .cpy w => .x 0x0C0 w
  | .cpyv w => .x 0x0C1 w
  | .cpyg w => .x 0x0C2 w
  | .cpyf w => .x 0x0C3 w
  | .qfen w => .x 0x0C4 w
  | .wfill w => .x 0x0C5 w
  | .mmo w => .x 0x0C8 w
  | .mst w => .x 0x0C9 w
  | .mzro w => .x 0x0CA w
  | .mget w => .x 0x0CB w
  | .obres w => .x 0x0CC w
  | .obrel w => .x 0x0CD w
  | .obset w => .x 0x0CE w
  | .qpush w => .x 0x100 w
  | .qpop w => .x 0x101 w
  | .stacq w => .x 0x102 w
  | .strel w => .x 0x103 w
  | .bar w => .x 0x104 w
  | .hbar w => .x 0x105 w
  | .launch w => .x 0x106 w
  | .join w => .x 0x107 w
  | .wait w => .x 0x140 w
  | .clk w => .x 0x141 w
  | .rds w => .x 0x142 w
  | .wrs w => .x 0x143 w
  | .perfcRd w => .x 0x144 w
  | .perfcSel w => .x 0x144 w
  | .brx w => .x 0x180 w
  | .callx w => .x 0x181 w
  | .ret w => .x 0x182 w
  | .exitX w => .x 0x183 w
  | .nop w => .x 0x184 w
  | .brk w => .x 0x187 w
  | .idle w => .x 0x188 w
  | .elect w => .x 0x1C0 w
  | .syscMap w => .x 0x185 w
  | .syscAlloc w => .x 0x185 w
  | .syscRevoke w => .x 0x185 w
  | .syscLown w => .x 0x185 w
  | .rti w => .x 0x186 w
  | .trainForm _ => .event
  | .lateResultPark _ => .event
  | .idleExpiry _ => .event
  | .wadrTimeout _ => .event
  | .memoryResponse _ => .event
  | .storePerformed _ _ => .event
  | .copyPerform _ _ _ => .event
  | .wfillPerform _ _ => .event
  | .mmoPerform _ _ => .event
  | .firstUseTrap _ _ _ => .event
  | .subnormalAssist _ _ => .event
  | .mstPerform _ _ => .event
  | .mzroPerform _ _ => .event
  | .obsetPerform _ _ => .event
  | .obrelPerform _ _ => .event
  | .qfenJoin _ _ _ => .event
  | .keyCacheFill _ _ _ => .event
  | .launchStart _ => .event
  | .teamAdmit _ _ => .event
  | .completionRecordWrite _ => .event
  | .cmdNop _ _ => .event
  | .cmdLaunch _ _ => .event
  | .cmdHandle _ _ => .event
  | .qtail _ _ _ => .event
  | .qstatRun _ _ _ => .event
  | .qstatClearStopped _ _ => .event
  | .prreplyResolved _ _ _ => .event
  | .prreplyInvalid _ _ _ => .event
  | .vfErrorClear _ => .event
  | .registerWrite _ _ _ => .event
  | .mapRequest _ => .event
  | .unmapRequest _ => .event
  | .protectRequest _ => .event
  | .catLoad _ => .event
  | .catPin _ => .event
  | .catUnpin _ => .event
  | .deaccession _ => .event
  | .hostAccess _ _ _ => .event
  | .atsTranslationRequest _ _ _ => .event
  | .atsInvalidationCompletion _ _ => .event
  | .atsTimeout _ _ => .event
  | .peerRequest _ => .event
  | .peerResponse _ => .event
  | .generationUpdate _ _ _ => .event
  | .colourMarking _ _ => .event
  | .markingAck _ _ _ => .event
  | .revocationSweep _ _ => .event
  | .sweepAck _ _ _ => .event
  | .frameGrant _ _ => .event
  | .ownerChangeScrub _ _ => .event
  | .patrolScrub _ => .event
  | .refreshDue _ _ => .event
  | .channelWindow _ _ => .event
  | .useCountDecay _ => .event
  | .partitionCreate _ => .event
  | .preempt _ => .event
  | .contextSave _ => .event
  | .contextRestore _ _ => .event
  | .contextExport _ _ => .event
  | .contextImport _ _ _ => .event
  | .contextEnd _ => .event
  | .partitionMergeSplit _ => .event
  | .sliceReset _ => .event
  | .sliceWatchdog _ => .event
  | .monitorSample _ => .event
  | .powerControlStep => .event
  | .coldStart _ => .event
  | .bootTimeout => .event
  | .bootReasonReport => .event
  | .powerInputLoss => .event
  | .setPowerLimit _ => .event
  | .retryBoot _ => .event
  | .firmwareStage _ _ => .event
  | .getVersion _ => .event
  | .getCapabilities _ => .event
  | .negotiateAlgorithms _ _ _ _ => .event
  | .getDigests _ => .event
  | .getCertificate _ _ => .event
  | .challenge _ _ _ => .event
  | .getMeasurements _ _ _ _ => .event
  | .keyExchange _ _ => .event
  | .finish _ _ => .event
  | .heartbeat _ => .event
  | .heartbeatExpiry _ => .event
  | .keyUpdate _ => .event
  | .endSession _ => .event
  | .respondIfReady _ => .event
  | .evidenceMode _ _ => .event
  | .setKek _ _ => .event
  | .regPub _ _ => .event
  | .allowExport _ _ _ => .event
  | .attach _ _ => .event
  | .detach _ _ => .event
  | .setWatch _ _ _ _ _ _ => .event
  | .readState _ _ _ _ => .event
  | .readMem _ _ _ _ _ _ => .event
  | .step _ _ _ _ _ _ => .event
  | .resume _ _ _ _ _ _ => .event
  | .lockInterface _ => .event
  | .startInterface _ => .event
  | .stopInterface _ => .event
  | .ideStreamFailure _ => .event
  | .ualinkPortAuth _ _ => .event
  | .partitionRemove _ => .event
  | .frameReclaim _ => .event
  | .tenantCreate _ => .event
  | .tenantEnd _ => .event
  | .contextCreate _ => .event
  | .queueBind _ _ _ => .event
  | .partitionGate _ => .event
  | .partitionPowerUp _ => .event
  | .vfReset _ => .event
  | .reachTableWrite _ _ _ => .event
  | .arbiterTableWrite _ _ _ _ _ => .event
  | .wayQuotaWrite _ _ _ => .event
  | .fairnessLimitWrite _ _ => .event
  | .contextPriorityWrite _ _ => .event
  | .ideKmKeyProg _ _ _ _ => .event
  | .importReport _ _ => .event

/-- The shape of a word of formats F, I and X. -/
def Code.shape : Code → Shape
  | .f op w => fShape op w
  | .i op w => iShape op w
  | .x op w => xShape op w
  | .p _ _ => { operands := [], modOk := true }
  | .event => { operands := [], modOk := true }

/-- The modifier bits that select one of several rows of one opcode (R388, R410). -/
def Instr.selectOk : Instr → Bool
  | .perfcRd w => !w.bit 3
  | .perfcSel w => w.bit 3
  | .syscMap w => w.bits 7 0 == 1
  | .syscAlloc w => w.bits 7 0 == 2
  | .syscRevoke w => w.bits 7 0 == 3
  | .syscLown w => w.bits 7 0 == 4
  | _ => true

/-- Steps 4 and 5 of R73, but for the allocation, which depends on the thread. -/
def Instr.wf (i : Instr) : Bool :=
  i.selectOk && match i.code with
    | .p s0 s1 => s0.ok && s1.ok && pairOk s0 s1
    | c => c.shape.ok

end Sys2Proof
end

