-- ==== Sys2Proof/Decode.lean ====
section
/-!
DEFINITION. The decoder, total on any 64 bits (03 R55, R73 steps 1 and 2, R74 to R77), and after it the
encoder, written from the same field tables (R57, R63, R64, R69). A word that names no instruction is
refused by name.
-/

namespace Sys2Proof

/-- What a 64-bit word is: an instruction, an unassigned encoding (ILLEGAL_INSTRUCTION), a block header
met as an instruction (HEADER_EXECUTED), or a `sysc` whose function value is not defined, which faults
ILLEGAL_OPERAND when its guard is true (R410). -/
inductive Decoded where
  | instr (i : Instr)
  | illegal
  | header
  | badFunction (w : XWord)
  deriving DecidableEq, Repr

/-- The fields of a format F word (R57). -/
def FWord.ofBits (x : Word64) : FWord :=
  { guard := { pred := x.extractLsb' 50 4, neg := x.getLsbD 49 }
    d := x.extractLsb' 40 9
    a := x.extractLsb' 30 10
    b := x.extractLsb' 20 10
    c := x.extractLsb' 10 10
    retain := x.extractLsb' 8 2
    mod := x.extractLsb' 0 8 }

/-- The fields of a format I word (R63). -/
def IWord.ofBits (x : Word64) : IWord :=
  { guard := { pred := x.extractLsb' 51 4, neg := x.getLsbD 50 }
    d := x.extractLsb' 41 9
    a := x.extractLsb' 32 9
    imm := x.extractLsb' 0 32 }

/-- The fields of a format X word (R69). -/
def XWord.ofBits (x : Word64) : XWord :=
  { guard := { pred := x.extractLsb' 48 4, neg := x.getLsbD 47 }
    d := x.extractLsb' 38 9
    a := x.extractLsb' 29 9
    b := x.extractLsb' 20 9
    c := x.extractLsb' 11 9
    mod := x.extractLsb' 0 11 }

/-- The slot operation of an op6 value (R65); 0x0E, 0x0F, 0x16, 0x17 and 0x1D up are unassigned. -/
def slotOf6 (n : Nat) : Option SlotOp :=
  match n with
  | 0x00 => some .nop | 0x01 => some .add | 0x02 => some .sub | 0x03 => some .mul
  | 0x04 => some .and | 0x05 => some .or | 0x06 => some .xor | 0x07 => some .shl
  | 0x08 => some .shr | 0x09 => some .sar | 0x0A => some .mov | 0x0B => some .min
  | 0x0C => some .max | 0x0D => some .not | 0x10 => some .addi | 0x11 => some .shli
  | 0x12 => some .shri | 0x13 => some .sari | 0x14 => some .movi | 0x15 => some .andi
  | 0x18 => some .fadd | 0x19 => some .fmul | 0x1A => some .fmin | 0x1B => some .fmax
  | 0x1C => some .fmov
  | _ => none

/-- One slot, from its 31 bits (R64). -/
def PSlot.ofBits (x : BitVec 31) : Option PSlot :=
  match slotOf6 (x.extractLsb' 25 6).toNat with
  | some op => some { op := op, guard := x.extractLsb' 23 2, d := x.extractLsb' 15 8, s := x.extractLsb' 6 9
                      imm := x.extractLsb' 0 6 }
  | none => none

/-- The rows of format F by opcode; `none` where the map assigns nothing. -/
def fInstr (op : Nat) : Option (FWord → Instr) :=
  match op with
  | 0x01 => some .add
  | 0x02 => some .sub
  | 0x03 => some .addc
  | 0x04 => some .subb
  | 0x05 => some .mul
  | 0x06 => some .mulhi
  | 0x07 => some .mulw
  | 0x08 => some .mad
  | 0x09 => some .madhi
  | 0x0A => some .min
  | 0x0B => some .max
  | 0x0C => some .abs
  | 0x0D => some .neg
  | 0x0E => some .sadd
  | 0x0F => some .ssub
  | 0x10 => some .and
  | 0x11 => some .or
  | 0x12 => some .xor
  | 0x13 => some .andn
  | 0x14 => some .orn
  | 0x15 => some .not
  | 0x16 => some .shl
  | 0x17 => some .shr
  | 0x18 => some .sar
  | 0x19 => some .rol
  | 0x1A => some .ror
  | 0x1B => some .bfx
  | 0x1C => some .bfi
  | 0x1D => some .popc
  | 0x1E => some .clz
  | 0x1F => some .ctz
  | 0x20 => some .brev
  | 0x21 => some .bperm
  | 0x22 => some .sel
  | 0x23 => some .mov
  | 0x24 => some .clmul
  | 0x25 => some .clmulhi
  | 0x26 => some .dot4
  | 0x27 => some .adiff
  | 0x28 => some .cmp
  | 0x29 => some .pset
  | 0x2A => some .p2g
  | 0x2B => some .g2p
  | 0x2C => some .scadd
  | 0x40 => some .fadd
  | 0x41 => some .fsub
  | 0x42 => some .fmul
  | 0x43 => some .ffma
  | 0x44 => some .fmin
  | 0x45 => some .fmax
  | 0x46 => some .fmov
  | 0x47 => some .fcmp
  | 0x48 => some .fclass
  | 0x49 => some .fdiv
  | 0x4A => some .fsqrt
  | 0x4B => some .frcp
  | 0x4C => some .frsq
  | 0x4D => some .fex2
  | 0x4E => some .flg2
  | 0x4F => some .fsin
  | 0x50 => some .fcos
  | 0x51 => some .fcvt
  | 0x52 => some .f2i
  | 0x53 => some .i2f
  | 0x54 => some .frnd
  | 0x55 => some .fscale
  | 0x56 => some .fgexp
  | 0x57 => some .hadd2
  | 0x58 => some .hmul2
  | 0x59 => some .hfma2
  | 0x5A => some .fdot2
  | 0x5B => some .qdeq
  | _ => none

/-- The rows of format I by opcode; `none` where the map assigns nothing. -/
def iInstr (op : Nat) : Option (IWord → Instr) :=
  match op with
  | 0x01 => some .addi
  | 0x02 => some .muli
  | 0x03 => some .andi
  | 0x04 => some .ori
  | 0x05 => some .xori
  | 0x06 => some .movi
  | 0x07 => some .movhi
  | 0x08 => some .cmpi
  | 0x09 => some .mini
  | 0x0A => some .maxi
  | 0x0B => some .shli
  | 0x0C => some .shri
  | 0x0D => some .sari
  | 0x0E => some .fmovi
  | 0x0F => some .faddi
  | 0x10 => some .fmuli
  | 0x20 => some .bra
  | 0x21 => some .brc
  | 0x22 => some .call
  | 0x23 => some .exitI
  | 0x24 => some .trap
  | _ => none

/-- The rows of format X by opcode; `none` where the map assigns nothing. -/
def xInstr (op : Nat) : Option (XWord → Instr) :=
  match op with
  | 0x001 => some .cget
  | 0x002 => some .cinc
  | 0x003 => some .csetc
  | 0x004 => some .cbnd
  | 0x005 => some .cperm
  | 0x006 => some .cview
  | 0x007 => some .cseal
  | 0x008 => some .cunseal
  | 0x009 => some .ctag
  | 0x00A => some .cspc
  | 0x00B => some .ccast
  | 0x00C => some .ceq
  | 0x00D => some .cdif
  | 0x00E => some .cclr
  | 0x00F => some .cmov
  | 0x010 => some .crep
  | 0x040 => some .ld
  | 0x041 => some .ldc
  | 0x042 => some .ldv
  | 0x080 => some .st
  | 0x081 => some .stc
  | 0x082 => some .stv
  | 0x083 => some .atom
  | 0x084 => some .acas
  | 0x085 => some .red
  | 0x086 => some .acasc
  | 0x087 => some .wadr
  | 0x088 => some .wake
  | 0x08B => some .pf
  | 0x089 => some .fence
  | 0x08A => some .drain
  | 0x0C0 => some .cpy
  | 0x0C1 => some .cpyv
  | 0x0C2 => some .cpyg
  | 0x0C3 => some .cpyf
  | 0x0C4 => some .qfen
  | 0x0C5 => some .wfill
  | 0x0C8 => some .mmo
  | 0x0C9 => some .mst
  | 0x0CA => some .mzro
  | 0x0CB => some .mget
  | 0x0CC => some .obres
  | 0x0CD => some .obrel
  | 0x0CE => some .obset
  | 0x100 => some .qpush
  | 0x101 => some .qpop
  | 0x102 => some .stacq
  | 0x103 => some .strel
  | 0x104 => some .bar
  | 0x105 => some .hbar
  | 0x106 => some .launch
  | 0x107 => some .join
  | 0x140 => some .wait
  | 0x141 => some .clk
  | 0x142 => some .rds
  | 0x143 => some .wrs
  | 0x180 => some .brx
  | 0x181 => some .callx
  | 0x182 => some .ret
  | 0x183 => some .exitX
  | 0x184 => some .nop
  | 0x187 => some .brk
  | 0x188 => some .idle
  | 0x1C0 => some .elect
  | 0x186 => some .rti
  | _ => none

/-- Format X 0x144: `perfc.rd` or `perfc.sel` by modifier [3] (R388). -/
def decodePerfc (w : XWord) : Instr := if w.bit 3 then .perfcSel w else .perfcRd w

/-- Format X 0x185: the firmware call modifier [7:0] names (R410). -/
def decodeSysc (w : XWord) : Decoded :=
  match w.bits 7 0 with
  | 1 => .instr (.syscMap w)
  | 2 => .instr (.syscAlloc w)
  | 3 => .instr (.syscRevoke w)
  | 4 => .instr (.syscLown w)
  | _ => .badFunction w

/-- A format F word (R75). -/
def decodeF (x : Word64) : Decoded :=
  let op := (x.extractLsb' 54 8).toNat
  if op = 0 then .header
  else match fInstr op with
    | some k => .instr (k (.ofBits x))
    | none => .illegal

/-- A format P word: both op6 values must be assigned (R73 step 1). -/
def decodeP (x : Word64) : Decoded :=
  match PSlot.ofBits (x.extractLsb' 31 31), PSlot.ofBits (x.extractLsb' 0 31) with
  | some s0, some s1 => .instr (.pairWord s0 s1)
  | _, _ => .illegal

/-- A format I word (R76). -/
def decodeI (x : Word64) : Decoded :=
  match iInstr (x.extractLsb' 55 7).toNat with
  | some k => .instr (k (.ofBits x))
  | none => .illegal

/-- A format X word (R77). -/
def decodeX (x : Word64) : Decoded :=
  let op := (x.extractLsb' 52 10).toNat
  let w := XWord.ofBits x
  if op = 0x144 then .instr (decodePerfc w)
  else if op = 0x185 then decodeSysc w
  else match xInstr op with
    | some k => .instr (k w)
    | none => .illegal

/-- Every 64-bit word decodes (R74): bits [63:62] give the format (R55). -/
def decode (x : Word64) : Decoded :=
  match (x.extractLsb' 62 2).toNat with
  | 0 => decodeF x
  | 1 => decodeP x
  | 2 => decodeI x
  | _ => decodeX x

/-- The little-endian value of a list of bytes (R1). -/
def leNat : List Byte → Nat
  | [] => 0
  | b :: bs => b.toNat + 256 * leNat bs

/-- The little-endian bytes of a value, `n` of them (R1). -/
def leBytes : Nat → Nat → List Byte
  | 0, _ => []
  | n + 1, v => BitVec.ofNat 8 v :: leBytes n (v / 256)

/-- The instruction in the first eight bytes of a list, stored little-endian (R55). -/
def decodeBytes (bs : List Byte) : Decoded := decode (BitVec.ofNat 64 (leNat (bs.take 8)))

/-- The instruction of a word numbered as the opcode table numbers it: one 64-bit word whose bits above
`nbits` are zero, laid out in memory little-endian and given to the decoder. -/
def decodeTableWord (nbits w : Nat) : Option Instr :=
  match decodeBytes (leBytes 8 (w % 2 ^ nbits)) with
  | .instr i => some i
  | .illegal => none
  | .header => none
  | .badFunction _ => none

/-! ## The encoder -/

/-- A format F word (R57). -/
def FWord.toBits (op : BitVec 8) (w : FWord) : Word64 :=
  0b00#2 ++ op ++ w.guard.pred ++ BitVec.ofBool w.guard.neg ++ w.d ++ w.a ++ w.b ++ w.c ++ w.retain ++ w.mod

/-- A format I word (R63). -/
def IWord.toBits (op : BitVec 7) (w : IWord) : Word64 :=
  0b10#2 ++ op ++ w.guard.pred ++ BitVec.ofBool w.guard.neg ++ w.d ++ w.a ++ w.imm

/-- A format X word (R69). -/
def XWord.toBits (op : BitVec 10) (w : XWord) : Word64 :=
  0b11#2 ++ op ++ w.guard.pred ++ BitVec.ofBool w.guard.neg ++ w.d ++ w.a ++ w.b ++ w.c ++ w.mod

/-- The op6 value of a slot operation (R65). -/
def slotTo6 : SlotOp → Nat
  | .nop => 0x00 | .add => 0x01 | .sub => 0x02 | .mul => 0x03 | .and => 0x04 | .or => 0x05
  | .xor => 0x06 | .shl => 0x07 | .shr => 0x08 | .sar => 0x09 | .mov => 0x0A | .min => 0x0B
  | .max => 0x0C | .not => 0x0D | .addi => 0x10 | .shli => 0x11 | .shri => 0x12 | .sari => 0x13
  | .movi => 0x14 | .andi => 0x15 | .fadd => 0x18 | .fmul => 0x19 | .fmin => 0x1A | .fmax => 0x1B
  | .fmov => 0x1C

/-- One slot's 31 bits (R64). -/
def PSlot.toBits (s : PSlot) : BitVec 31 := BitVec.ofNat 6 (slotTo6 s.op) ++ s.guard ++ s.d ++ s.s ++ s.imm

/-- The word of an instruction; an event of the opcode table has none. -/
def encode (i : Instr) : Option Word64 :=
  match i.code with
  | .f op w => some (w.toBits (BitVec.ofNat 8 op))
  | .i op w => some (w.toBits (BitVec.ofNat 7 op))
  | .x op w => some (w.toBits (BitVec.ofNat 10 op))
  | .p s0 s1 => some (0b01#2 ++ s0.toBits ++ s1.toBits)
  | .event => none

end Sys2Proof
end

