-- ==== Sys2Proof/Config.lean ====
section
/-!
DEFINITION. What an implementation fixes or the spec leaves open, as constants without a body: nothing
can prove a value of them, so a claim holds whatever they are. `freeNat` is applied to the counter
`State.free`, which every use advances; the cryptographic primitives of the published standards that
00_scope.md leaves out are functions of their operands.
-/

namespace Sys2Proof.Config

/-- The free values: choice number `n` of a run (log entry 5). -/
opaque freeNat : Nat → Nat

/-- Which of the results R139 and R140 allow an approximated word returns: a number for its opcode, its modifier and its operand's bits,
so that one word with one operand has one result (R42, R264; log entry 57). -/
opaque approx : BitVec 8 → BitVec 8 → Nat → Nat

/-- The order kind of a page of another package at a time is SO (R243, R245): package, offset of the page, time. This package does not
hold that package's tables (log entry 67). -/
opaque peerSo : Nat → Nat → Nat → Bool

/-- AES-256, one 16-byte block (R299; NIST SP 800-38A). -/
opaque aes256 : BitVec 256 → BitVec 128 → BitVec 128

/-- SHA-384 of a byte string (R373, R415). -/
opaque sha384 : List Byte → BitVec 384

/-- ECDSA P-384 verification: public key, digest, signature (R373, R409, R428). -/
opaque ecdsaVerify : List Byte → BitVec 384 → List Byte → Bool

/-- ECDSA P-384 signature by the key a number names (R280, R407). -/
opaque ecdsaSign : Nat → BitVec 384 → List Byte

/-- The number of the alias key, derived at a cold start, by its number, from the identity key and measurement 1 (R413). -/
opaque aliasKey : Nat → BitVec 384 → Nat

/-- The public half of the key of another package's Curator, under which an import's signature is verified (R409). -/
opaque curatorKey : List Byte

/-- The certificate chain of slot 0 (R413, R414). -/
opaque certChain : Nat → List Byte

/-- AES key unwrap (R373, R421): none when the integrity check fails. -/
opaque keyUnwrap : BitVec 256 → List Byte → Option (BitVec 256)

/-- A transfer key wrapped under the session key of two Curators, and unwrapped (R421): none when the integrity check fails. -/
opaque transferWrap : BitVec 256 → BitVec 512 → List Byte
opaque transferUnwrap : BitVec 256 → List Byte → Option (BitVec 512)

/-- The key of a link's stream, or of a port, by a number drawn when the Curator sets it (R418, R419). -/
opaque linkKey : Nat → BitVec 256

/-- Whether a certificate chain verifies to a root (R418). -/
opaque rootsTo : List Byte → List Byte → Bool

/-- Whether a certificate is bound by the operator to a tenant's virtual function (R422). -/
opaque certBound : Nat → List Byte → Bool

/-- Whether SPDM evidence verifies to a root of the trust list (R418, R419). -/
opaque evidenceOk : List Byte → Bool

/-- Whether the verification data of FINISH is right for the session (SPDM 1.3). -/
opaque finishOk : Nat → List Byte → Bool

/-- The key of a number drawn at tenant creation (R413): memory and transfer keys. -/
opaque xtsKey : Nat → BitVec 512

/-- Measurements 1 to 5 after cold start number `n` (R415): the digests of the firmware that runs. -/
opaque firmwareDigest : Nat → Nat → BitVec 384

/-- The channel, bank and row of a byte of a stack, and how many rows a row group has (R267, R276, R355): the spec gives no mapping (log
entry 69). -/
opaque chanOf : Nat → Nat
opaque bankOf : Nat → Nat
opaque rowOf : Nat → Nat
opaque groupOf : Nat → Nat
opaque groupRows : Nat → Nat

/-- The key of a stack's tag carve-out, which belongs to no tenant (R268). -/
opaque carveKey : Nat → BitVec 512

end Sys2Proof.Config
end

