-- ==== Sys2Proof/Machine/State.lean ====
section
/-!
DEFINITION. The state of one CLV1600 package as plain data: every piece of state the spec gives the
machine (INVENTORY.md lists each with its rule), and the model's own fields, which say so. The faults and
refusals of a step. The state after reset.
-/

namespace Sys2Proof.Machine

/-- How a step can stop. -/
inductive Fault where
  /-- raised by a word instruction when no thread issues: the spec gives a word no meaning without its
  thread (R40). Safe: no step of the machine runs a word without a thread. -/
  | noThread
  deriving DecidableEq, Repr

/-- How an instruction can be refused. -/
inductive Refusal where
  /-- raised by the dispatcher alone, for an instruction without a meaning yet. Safe. -/
  | notModelled (mnemonic : String)
  deriving DecidableEq, Repr

/-- The fault classes of R78. -/
inductive FClass where
  | illegalInstruction | illegalOperand | illegalPair | headerExecuted | privilege | illegalTarget
  | tag | bounds | perm | sealed | spaceForeign | window | align | revoked
  | pageAbsent | pagePerm | owner
  | subnormalAssist
  | uncorrectable | checkMismatch
  | trap | breakpoint | watch
  | queue | handle | nestDepth | reserve | role
  deriving DecidableEq, Repr

/-- Bytes by address, in canonical form: addresses strictly rising, no entry equal to zero, which is what
an unlisted address reads as. Used for HBM, data SRAM, operand buffers, weight slots, tiles. -/
abbrev Mem := List Host.Cell

/-! ## Registers and threads -/

/-- Where an access lands once checked and translated: an HBM byte with its page's order kind and
tag-capable bit, a byte of a CU's data SRAM, or a byte of another package (R243, R338). -/
inductive OrderKind where
  | rc | so | un
  deriving DecidableEq, Repr

inductive Loc where
  | hbm (pa : Nat) (kind : OrderKind) (tc : Bool)
  | sram (cu off : Nat)
  | peer (pkg off : Nat)
  deriving DecidableEq, Repr

/-- A release that a reader of its write can synchronise with (R248, R250): the party, the level of its scope, and the
numbers of the pending writes that happen before it. -/
structure Head where
  thread : TId
  ctx : CtxId
  cu : Nat
  level : Nat
  covers : List Nat
  deriving DecidableEq, Repr

/-- The operation of a logged access (R183, R184): its opcode, its modifier and its operands (with the tag
of the quad an `stc` stores), and the outcome of a replay that faulted. `req` numbers it among the thread's accesses
(R247) and `ready` says that its page's reply has come, so that its replay is due: both are the model's own. -/
structure OpLog where
  cap : Cap
  idx : BitVec 32
  col : BitVec 32
  data : BitVec 128
  data2 : BitVec 128
  dataTag : Bool
  blk : BitVec 16
  off : BitVec 10
  op : BitVec 8
  mod : BitVec 11
  dst : BitVec 9
  page : Nat
  failed : Option FClass
  addr : Word64
  req : Nat
  ready : Bool
  deriving DecidableEq, Repr

/-- An engine fault record (R281, R285). -/
structure EngineFault where
  cls : FClass
  addr : Word64
  blk : BitVec 16
  off : BitVec 10
  deriving DecidableEq, Repr

/-- The condition a thread parked with reason "late result" waits for (R182): results in flight, a fence or
release (the scope level and whether UN is covered), a drain or an `mget` (the serial number that later
operations have at least), a `fence` of a kind and level, a first-use trap an `mget` has come to, an engine queue or a counter,
an exit waiting for engine operations, a firmware call, an absent page. -/
inductive LateCond where
  | flight (reqs : List Nat)
  | order (level : Nat) (un : Bool)
  | fence (kind level : Nat)
  | drain (path before : Nat)
  | queue (q : Nat)
  | counter (w : Nat)
  | mget (before : Nat)
  | tile (i before : Nat)
  | ops
  | call
  | page (va : Nat)
  deriving DecidableEq, Repr

/-- What a thread parked at a ring waits to have performed (R322, R324). -/
inductive RingOp where
  | push (w : Word)
  | pop (d : Nat)
  | acqProd (d : Nat)
  | acqCons (d : Nat)
  deriving DecidableEq, Repr

/-- Why a thread is parked (R182). -/
inductive Reason where
  | pending
  | secondFault
  | late (c : LateCond)
  | barrier
  | teamBarrier (h : Nat)
  | ring (h : Nat) (op : RingOp)
  | join (entry : Nat) (d : Nat)
  | monitor (d : Nat) (deadline : Option Nat)
  | wait (all : Bool) (w n : Nat)
  | idle (till : Nat)
  | debug (cls : FClass) (addr : Word64)
  deriving DecidableEq, Repr

/-- A thread held at a word in its train: the cycle since which, and what for (R182). -/
structure Hold where
  since : Int
  cond : LateCond
  deriving DecidableEq, Repr

/-- Where a thread is (R175): at a platform entry, in a train (and perhaps held at its word), parked,
eligible at a siding position since a cycle (passed over so many times, R188), waiting to exit with a status
(R190). A thread that has exited is no longer listed. -/
inductive Run where
  | platform
  | train (held : Option Hold)
  | parked (r : Reason) (since : Int)
  | eligible (since : Int) (passed : Nat)
  | exiting (status : Byte)
  deriving DecidableEq, Repr

/-- One resident thread (R87, R95, R175). `cu` is the physical CU (R11), `slot` the resident slot and `slab`
the private slab index (R215); `blkLen` is the length the header of its block gives (R70) and `start` its
timetable entry (R176); `mark` is the serial number at which its word was first issued (R256, R313), or says that a fence's
condition has been met (R253); `peerFault` is the error answer of a peer write it has issued (R261, R380); `got` holds the releases
that it has read from, `fenced` those that its fences made of its later writes (R248, R249), and `seen` the numbers of other parties' pending
writes that its reads have returned (R242, R254), while they still matter. `issued`,
`steps` and `replayOf` are the model's own: it has issued its word, STEP lets it issue one (R426), and the number of the logged access
that a replay performs (R247). -/
structure Thread where
  id : TId
  ctx : CtxId
  cu : Nat
  slot : Nat
  slab : Nat
  role : BitVec 4
  regs : List Word
  tags : List Bool
  preds : BitVec 16
  fps : BitVec 5
  fcode : Byte
  faddr : Word64
  fblk : BitVec 32
  inHandler : Bool
  debug : Bool
  blk : BitVec 16
  off : BitVec 10
  blkLen : Nat
  start : Nat
  run : Run
  pending : List Nat
  log : Option OpLog
  w0 : Byte
  w1 : Byte
  w2 : Byte
  w3 : Byte
  engFault : Option EngineFault
  pageFail : Option Nat
  watchSkip : Bool
  mark : Option Nat
  peerFault : Option EngineFault
  got : List Head
  fenced : List Head
  seen : List Nat
  replayOf : Option Nat
  steps : Bool
  issued : Bool
  deriving DecidableEq, Repr

/-- A beat's request of a line (R210): the beat, the line, the bytes read in it so far, whether L1 missed some of them (R389), and whether
it went to HBM. -/
structure BeatReq where
  beat : Nat
  line : Nat
  lo : Nat
  hi : Nat
  missed : Bool
  far : Bool
  deriving DecidableEq, Repr

/-- A train (R40, R41): its CU, group and program counter, its threads in lane order, those that have still
to issue the word and those that have, the thread `elect` chose at this word (R200), an absent page its
fetch waits for (R178), whether its block's header is still to be read, and checked because
it starts at the block (R71, R411), the word it has fetched, and
the colours whose marking or sweep it has not taken (R93, R161). `pos` is its order of threads when its word began, which gives
each its beat and lane (R40); `reqs` holds the line requests that the beats of its word have made (R210). The model's own `turned` and
`tried` say, for this nanosecond, that it has issued a word, and which of
its threads have tried it. -/
structure Train where
  cu : Nat
  launch : Nat
  group : Nat
  blk : BitVec 16
  off : BitVec 10
  lanes : List Nat
  todo : List Nat
  done : List Nat
  elected : Option Nat
  since : Nat
  page : Option Nat
  check : Bool
  head : Bool
  word : Option Word64
  old : List Nat
  pos : List Nat
  reqs : List BeatReq
  turned : Bool
  tried : List Nat
  deriving DecidableEq, Repr

/-- A platform entry (R179, R181): threads waiting at offset 1 of a block. `passed` counts the selections
that passed it over (R188). -/
structure Plat where
  cu : Nat
  ctx : CtxId
  launch : Nat
  group : Nat
  blk : BitVec 16
  mask : BitVec 1024
  stamp : Int
  cursor : BitVec 10
  spilled : Bool
  passed : Nat
  deriving DecidableEq, Repr

/-- An operand-buffer reservation (R281, R300). -/
structure Resv where
  live : Bool
  releasing : Bool
  size : Nat
  fmt : Byte
  off : Nat
  deriving DecidableEq, Repr

/-- A resident group (R27, R281, R318). `slots` holds the resident slots of its threads, exited ones included, which stay taken until all
have exited (R27). -/
structure Group where
  launch : Nat
  num : Nat
  ctx : CtxId
  cu : Nat
  stage : Nat
  role : Nat
  threads : Nat
  slots : List Nat
  regsPer : Nat
  obBase : Nat
  obSize : Nat
  resvs : List Resv
  arrived : BitVec 1024
  bonus : Nat
  deriving DecidableEq, Repr

/-- The region of a team in one CU's data SRAM (R216). -/
structure Region where
  cu : Nat
  base : Nat
  size : Nat
  deriving DecidableEq, Repr

/-- An entry of a team's child table (R318, R330, R331): the child's launch, and its outcome once it has
one (0 complete, 0x0A record failed, else the refusal code). -/
structure Child where
  used : Bool
  seq : Byte
  launch : Nat
  result : Option Byte
  deriving DecidableEq, Repr

/-- A thread waiting at a ring, in the order of parking (R322). -/
structure RingWait where
  handle : Nat
  thread : TId
  op : RingOp
  deriving DecidableEq, Repr

/-- Arrivals of one group at one team barrier (R318, R328). -/
structure Arrival where
  handle : Nat
  group : Nat
  mask : BitVec 1024
  deriving DecidableEq, Repr

/-- An admitted team (R27, R33). `cluster` is physical; `place` holds the CU of each of its groups. -/
structure Team where
  launch : Nat
  num : Nat
  cluster : Nat
  place : List Nat
  regions : List Region
  arrivals : List Arrival
  children : List Child
  waits : List RingWait
  deriving DecidableEq, Repr

/-! ## Launches and contexts -/

/-- One entry of the stage table (R36). -/
structure Stage where
  role : Nat
  groups : Nat
  entry : Nat
  regs : Nat
  deriving DecidableEq, Repr

/-- Where a launch came from (R32): a command queue entry of a virtual function, or a team's child table. -/
inductive Origin where
  | queue (vf q index : Nat)
  | child (launch team entry : Nat)
  deriving DecidableEq, Repr

/-- How far a launch has come: read but not started (R332), running (R23), its record still to be written or
held on a page (R52). A launch that is over is listed no more. -/
inductive Phase where
  | waiting
  | running
  | finishing (page : Option Nat)
  deriving DecidableEq, Repr

/-- One held `red` contribution (R233, R263): the thread, the location's global virtual address, width, operation, value. -/
structure HeldRed where
  group : Nat
  thread : Nat
  va : Nat
  wide : Bool
  op : BitVec 4
  v : Word64
  deriving DecidableEq, Repr

/-- A launch (R22, R24, R51, R59, R176, R332). `desc` is the descriptor's 128 bytes and `quads` its eight
capability granules as read; `count`, `nonzero`, `maxStatus`, `orStatus`, `firstGroup` are the reduction of
R51; `teams` is the number of the next team to admit (R29). -/
structure Launch where
  uid : Nat
  ctx : CtxId
  origin : Origin
  depth : Nat
  serial : Bool
  descVa : Word64
  desc : List Byte
  quads : List Cap
  phase : Phase
  page : Option Nat
  groups : Nat
  tpg : Nat
  teamSize : Nat
  flags : BitVec 4
  regsPer : Nat
  spKiB : Nat
  obKiB : Nat
  handler : BitVec 16
  entry : Nat
  stages : List Stage
  ltag : Word64
  code : Cap
  record : Cap
  consts : List Word
  args : List Cap
  blocks : Nat
  codeOff : Nat
  gen : BitVec 16
  period : Word64
  rollbacks : Nat
  canRoll : Bool
  overflowed : Bool
  teams : Nat
  count : Nat
  nonzero : Nat
  maxStatus : Byte
  orStatus : Byte
  firstGroup : Option Nat
  reds : List HeldRed
  deriving DecidableEq, Repr

/-- A destination or source of an engine operation: memory through a capability with the issuing thread's
window on it, or a reservation of the issuing group (R290). -/
inductive Place where
  | mem (c : Cap) (ea : Nat)
  | ob (resv off : Nat)
  deriving DecidableEq, Repr

/-- What an engine queue entry does (R290, R296, R308). -/
inductive EngineOp where
  | cpy (dst src : Place) (n : Nat) (tags : Bool)
  | cpyv (dst src : Place) (rows cols : Nat) (tr : Bool) (stride : Nat)
  | cpyg (dst src idx : Place) (m : Nat)
  | cpyf (dst : Place) (pattern : Word) (n : Nat)
  | join (id : Nat) (mask : Nat)
  | wfill (slot : Nat) (src : Place) (len : Nat) (sparse : Bool)
  | mmo (c : Cap) (ea : Nat) (block : List Byte)
  | mst (dst : Place) (fmt tile stride : Nat)
  | mzro (mask : BitVec 16)
  | obset (resv off : Nat) (bytes : List Byte)
  | obrel (resv : Nat)
  deriving DecidableEq, Repr

/-- A queue entry (R283, R285): the issuing thread, its counter and word, whether it has begun and how far it
is, the absent page it is held on and the address it met it at (R287), whether it waits for an assist (R304), and the bytes it has
overwritten, by place, as they were before it began (R295); `before` numbers the pending writes that happen before its issue, or before a
release that an SO read of its queue read from, which its accesses to SO pages wait for (R245, R257); `replay` says that it was begun when
its context was saved, so that a restore goes on with it before trains form (R396, R402). -/
structure EngineEntry where
  thread : TId
  ctr : Nat
  blk : BitVec 16
  off : BitVec 10
  op : EngineOp
  begun : Bool
  progress : Nat
  page : Option (Nat × Nat)
  assist : Bool
  serial : Nat
  prior : List (Nat × Byte)
  before : List Nat
  replay : Bool
  deriving DecidableEq, Repr

/-- One engine queue of a context on a CU: copy queues 0 to 3, the matrix queue 4 (R281). -/
structure EngineQueue where
  cu : Nat
  q : Nat
  entries : List EngineEntry
  deriving DecidableEq, Repr

/-- A performance counter (R382, R388): 48 bits and its event select, and the occurrences of the last 64
cycles, which a read may leave out. -/
structure PerfCounter where
  val : BitVec 48
  sel : Byte
  recent : List (Int × Nat)
  deriving DecidableEq, Repr

/-- The performance counters of a context on one CU; `moved` is what its copies have moved since the last 256 bytes counted (R389). -/
structure PerfSet where
  cu : Nat
  counters : List PerfCounter
  moved : Nat
  deriving DecidableEq, Repr

/-- A weight-slot allotment on one CU (R282). -/
structure Allot where
  cu : Nat
  first : Nat
  count : Nat
  deriving DecidableEq, Repr

/-- A watch range (R413, R425). -/
structure Watch where
  kinds : BitVec 8
  base : Word64
  len : Word64
  deriving DecidableEq, Repr

/-- A spilled tile: the 4,160-byte record of R449. -/
structure SpilledTile where
  tile : Nat
  data : Mem
  flags : BitVec 5
  deriving DecidableEq, Repr

/-- What a result in flight is for: a late load into registers, a late `ldc`, a peer access its thread
waits for at its word, the acknowledgement of a peer write (R261), a peer access of an engine operation, a peer access number `k` of the command processor for a
launch. -/
inductive FlightKind where
  | load (d : Nat) (sext : Bool)
  | loadCap (d : Nat) (lc : Bool)
  | peer
  | store
  | engine (c : CtxId) (cu q : Nat)
  | cmd (k : Nat)
  deriving DecidableEq, Repr

/-- A result in flight (R209, R360, R379): the issuing thread, its partition's generation, the bytes asked
for, the request number of a peer access, its packet and its answer once it has one. `replay` says that a restore performs it, before
its context runs (R262, R402). `acq` is the level of an acquire's scope
(R249). `unsent` says of a peer read whose beat has not ended that it has no packet yet, and whether it asks for tags (R210). -/
structure Flight where
  req : Nat
  thread : TId
  part : Nat
  gen : BitVec 16
  kind : FlightKind
  loc : Loc
  n : Nat
  blk : BitVec 16
  off : BitVec 10
  packet : Option PeerPacket
  answer : Option PeerResult
  replay : Bool
  acq : Option Nat
  unsent : Option Bool
  deriving DecidableEq, Repr

/-- One compressed TRS section (R400). -/
structure TrsSection where
  launch : Nat
  group : Nat
  regsPer : Nat
  threads : Nat
  bytes : List Byte
  deriving DecidableEq, Repr

/-- A region's saved bytes and granule tags, by its CU and base (R399, kinds 0x05, 0x07). -/
structure SavedBytes where
  cu : Nat
  base : Nat
  size : Nat
  bytes : Mem
  tags : List Nat
  deriving DecidableEq, Repr

/-- A weight slot (R281, R298, R309); `len` is the length of its image. -/
structure WSlot where
  valid : Bool
  sparse : Bool
  cipher : Bool
  addr : Word64
  len : Nat
  bytes : Mem
  deriving DecidableEq, Repr

/-- The compatibility descriptor (R408). -/
structure Compat where
  slices : Nat
  cus : Nat
  threads : Nat
  groups : Nat
  allot : Nat
  trs : Nat
  spKiB : Nat
  obKiB : Nat
  plats : Nat
  replays : Nat
  slab : Nat
  deriving DecidableEq, Repr

/-- One entry of the mapping list of an export (R407). -/
structure MapEntry where
  va : Nat
  len : Nat
  bits : BitVec 64
  frame : Nat
  deriving DecidableEq, Repr

/-- A saved image (R398, R399): what its sections hold that the context's own record does not. `cu` fields are logical CU
numbers, cycle numbers are relative to the save; threads' registers lie in the TRS sections alone; `wslots` holds the allotment of
each logical CU, `homes` its physical CU at the save. -/
structure Image where
  gen : BitVec 16
  time : Nat
  epochs : List (BitVec 16)
  trs : List TrsSection
  threads : List Thread
  groups : List Group
  teams : List Team
  plats : List Plat
  sram : List SavedBytes
  ob : List SavedBytes
  wslots : List (Nat × List WSlot)
  homes : List (Nat × Nat)
  deriving DecidableEq, Repr

/-- Whether a context is on its CUs, stopped, or saved (R395, R396, R399), or ended but for the records of its launches (R458). -/
inductive Life where
  | resident
  | quiet
  | saved
  | exported (pkg : Nat)
  | ending
  deriving DecidableEq, Repr

/-- A context (R281, R318, R361, R382, R394, R413). -/
structure Context where
  id : CtxId
  tenant : Nat
  prio : BitVec 2
  life : Life
  handles : List (BitVec 64)
  slabSize : Nat
  privBase : Nat
  slabFrames : List (Nat × Nat)
  roots : List Cap
  remap : List Nat
  tileMap : BitVec 16
  spilled : List SpilledTile
  replay : List Flight
  lown : List (Nat × Nat)
  session : Option Nat
  watches : List Watch
  perf : List PerfSet
  queues : List EngineQueue
  allots : List Allot
  clkOff : Word64
  lastClk : Word64
  image : Option Image
  deriving DecidableEq, Repr

/-- A colour (R363) and the region `sysc.alloc` recorded for it (R410). -/
structure Colour where
  state : Nat
  epoch : BitVec 16
  lo : Nat
  hi : Nat
  deriving DecidableEq, Repr

/-- An export image (R407): its header and directory (R398), its compatibility descriptor (R408), the saved context, its launches, and
the further sections. `src` is the source package and `key` the transfer key, wrapped under the session key of the two Curators (R421);
`stage` is the partition whose frames an import in progress holds for it (R347). -/
structure Export where
  header : List Byte
  desc : List Byte
  src : Nat
  key : List Byte
  stage : Option Nat
  context : Context
  launches : List Launch
  teams : List Team
  maps : List MapEntry
  granules : List Nat
  colours : List Colour
  clock : Nat
  signature : List Byte
  deriving DecidableEq, Repr

/-! ## Compute units, clusters, slices -/

/-- An accumulator tile (R281): element (r, c) is the word at byte 128r + 4c. -/
structure Tile where
  owner : Option CtxId
  flags : BitVec 5
  data : Mem
  deriving DecidableEq, Repr

/-- A TLB entry (R341): partition, first page, log2 of the page size, the leaf it holds. -/
structure TlbEntry where
  part : Nat
  va : Nat
  size : Nat
  leaf : BitVec 64
  deriving DecidableEq, Repr

/-- A line in a cache: the granules of it that are there, and in an L2 the way that holds it (R210, R213, R356). -/
structure CacheLine where
  line : Nat
  grains : BitVec 8
  way : Nat
  deriving DecidableEq, Repr

/-- A compute unit (R9, R213, R281, R336). `order` lists launches in the order of their first admission to the CU
(R188); `selections` counts the selector's choices. -/
structure Cu where
  sram : Mem
  sramTags : List Nat
  ob : Mem
  wslots : List WSlot
  tiles : List Tile
  tlb : List TlbEntry
  l1 : List CacheLine
  fairness : Nat
  keyCache : List (Nat × Nat)
  lastTenant : Option Nat
  selections : Nat
  order : List Nat
  deriving DecidableEq, Repr

/-- What a monitor entry watches: a granule of data SRAM or of HBM (R235). -/
inductive Granule where
  | sram (cu n : Nat)
  | hbm (n : Nat)
  deriving DecidableEq, Repr

/-- A monitor entry (R235): its granule and its watchers in arming order. -/
structure MonEntry where
  granule : Granule
  watchers : List TId
  deriving DecidableEq, Repr

/-- A catalogue entry (R371). -/
structure CatEntry where
  accession : Word64
  base : Word64
  frames : Nat
  state : Nat
  pinned : Bool
  uses : BitVec 32
  digest : BitVec 384
  part : Nat
  list : List Nat
  deriving DecidableEq, Repr

/-- A weight key slot (R369). -/
structure KeySlot where
  key : BitVec 256
  nonce : Word64
  base : Word64
  filled : Bool
  deriving DecidableEq, Repr

/-- The slice event counters (R391). -/
structure Events where
  soft : Word64
  corrected : Word64
  uncorrectable : Word64
  logOverflow : Word64
  refreshes : Word64
  skipped : Word64
  scrubbed : Word64
  units : List Word64
  deriving DecidableEq, Repr

/-- The monitor record (R392). -/
structure Monitor where
  dieTemp : BitVec 16
  stackTemp : BitVec 16
  coreMv : BitVec 16
  memMv : BitVec 16
  process : BitVec 16
  status : Byte
  sample : BitVec 32
  deriving DecidableEq, Repr

/-- A pre-image of the write log (R273): a 64-byte block's bytes, its tags and its poison bits. -/
structure PreImage where
  block : Nat
  bytes : Mem
  tags : List Nat
  poison : List Nat
  deriving DecidableEq, Repr

/-- A channel's floor and ceiling for a partition (R355). -/
structure Arb where
  chan : Nat
  part : Nat
  floor : Nat
  ceil : Nat
  deriving DecidableEq, Repr

/-- A row group (R276): its timestamp, and the rows activated since its last refresh, each with the time of its first activation. -/
structure RowGroup where
  row : Nat
  stamp : Nat
  acts : List (Nat × Nat)
  deriving DecidableEq, Repr

/-- Channel-time units served to a partition on a channel in a window of 4 µs (R267, R355); with no units, a request of it that was
turned away there. -/
structure ChanUse where
  chan : Nat
  part : Nat
  window : Nat
  units : Nat
  deriving DecidableEq, Repr

/-- A memory key of a tenant in a controller's key entries (R268, R339): the memory key, or with `mem` false the transfer key. -/
structure MemKey where
  tenant : Nat
  mem : Bool
  key : BitVec 512
  deriving DecidableEq, Repr

/-- The copy engines of a slice (R281, R289): the queue whose head each of the three serves, and the queues in the order of the round. -/
structure CopyUnits where
  engines : List (Option (CtxId × Nat × Nat))
  order : List (CtxId × Nat × Nat)
  deriving DecidableEq, Repr

/-- A range of the line-ownership table, with the launch it was loaded for (R368). -/
structure OwnRange where
  launch : Nat
  priv : Bool
  base : Nat
  len : Nat
  deriving DecidableEq, Repr

/-- A slice (R7, R336, R382). `tenths` counts tenths of a cycle of its clock
(R15, R427); `warm` is the clock its own temperature permits (R431); `windows` holds
when the current window of each channel was last counted, `uses` what the partitions were served since, `waits` whose requests were turned away, and `turns` the partition last
served above its floor (R355). `l2` holds each resident line with its way (R356), `rows` the open row of each bank and `memKeys` the
controller's key entries (R268); `sampled`, `patrolled` and `decayed` are the times of the last monitor sample (R392), granule of the patrol (R277) and halving of use counts (R371); `logRun` holds the frames of its write log, first and count (R274), and `logSpare` those that have replaced retired ones of them (R279). -/
structure Slice where
  held : Bool
  powered : Bool
  clock : Nat
  warm : Nat
  tenths : Nat
  tlb : List TlbEntry
  l2 : List CacheLine
  monitor : Monitor
  events : Events
  logRun : Option (Nat × Nat)
  logSpare : List Nat
  logCap : Nat
  log : List PreImage
  retire : List Nat
  rowGroups : List RowGroup
  patrol : Nat
  arb : List Arb
  windows : List (Nat × Nat)
  uses : List ChanUse
  waits : List ChanUse
  turns : List (Nat × Nat)
  rows : List (Nat × Nat)
  ways : List (BitVec 32)
  own : List OwnRange
  keys : List KeySlot
  memKeys : List MemKey
  copy : CopyUnits
  cat : List CatEntry
  watchdog : Bool
  sampled : Option Nat
  patrolled : Nat
  decayed : Nat
  deriving DecidableEq, Repr

/-! ## Partitions, tenants, virtual functions -/

/-- An entry of the partition table (R357), with the firmware's lists for it: the grant list (R337), the
frames its translation table takes, the reach table's entries (R378), frames mapped with E = 0; `closing`, the model's own, says that
it is being removed and waits for the records of its contexts' launches (R458). -/
structure Partition where
  state : Nat
  gen : BitVec 16
  tenant : Nat
  fabric : BitVec 16
  map : List Nat
  root : Nat
  pkg : BitVec 10
  grants : List Nat
  pool : List Nat
  poolUsed : Nat
  reach : List (Nat × BitVec 32)
  staging : List Nat
  receipts : List (Nat × Nat × List Byte)
  closing : Bool
  deriving DecidableEq, Repr

/-- How far a revocation is (R365, R366): marking, then sweeping, each with the packages still to acknowledge and whether this
package has done so. -/
inductive RevPhase where
  | marking (await : List Nat) (own : Bool)
  | sweeping (await : List Nat) (own : Bool)
  deriving DecidableEq, Repr

/-- A revocation in progress, with the thread that called for it (none: another package did). -/
structure Revocation where
  colour : Nat
  phase : RevPhase
  caller : Option (TId × Nat)
  deriving DecidableEq, Repr

/-- A tenant (R363, R413). `acks` holds acknowledgements of other packages that came before this package's own part: the colour, whether of
its sweep, the package (R365, R366). -/
structure Tenant where
  id : Nat
  colours : List Colour
  memKey : BitVec 512
  transferKey : BitVec 512
  kek : Option (BitVec 256)
  pubKeys : List (List Byte)
  exports : List (CtxId × Nat)
  revs : List Revocation
  acks : List (Nat × Bool × Nat)
  deriving DecidableEq, Repr

/-- A command-queue register set (R333) with its period counter (R386). `periods` remembers the counter at the
first reading of each entry whose launch is not over; `page` is an absent page the
read of the next entry waits for, `handle` the entry number and value of a HANDLE command that has been read and waits (R334). -/
structure QueueRegs where
  bound : Option Nat
  qbase : Word64
  qsize : Nat
  qtail : Nat
  qhead : Nat
  run : Bool
  stopped : Bool
  errIndex : BitVec 16
  errCode : Byte
  period : Word64
  periods : List (Nat × Word64)
  page : Option Nat
  handle : Option (Nat × Nat)
  deriving DecidableEq, Repr

/-- An outstanding page request (R351, R352). `beat` is the thread whose access made it, while other accesses of that beat are still to
come; `joined` says that the request before it is of the same beat (R443). -/
structure PageReq where
  page : Nat
  id : BitVec 16
  ctx : BitVec 16
  kinds : Byte
  written : Bool
  beat : Option TId
  joined : Bool
  deriving DecidableEq, Repr

/-- The TDISP states of R417. -/
inductive Tdisp where
  | unlocked | locked | run | error
  deriving DecidableEq, Repr

/-- ATS of one function of a virtual function (R345): enabled, the pages its cache may hold, an
invalidation it has still to complete and when that began. -/
structure Ats where
  fn : Nat
  enabled : Bool
  cached : List Nat
  waiting : Option Nat
  deriving DecidableEq, Repr

/-- A firmware call in progress (R346, R374): by a thread or by the mailbox, with the record's address;
the status it will
write, and where, once its changes are made and only their invalidation is awaited (R349); what a LOAD or DEACCESSION
has taken out of the table, and the manifest it has copied (R375, R376). -/
structure Call where
  caller : Option TId
  addr : Word64
  status : Option (Byte × Nat)
  kept : List (Nat × Nat × BitVec 64)
  manifest : List Byte
  deriving DecidableEq, Repr

/-- A switch on the path to an agent assigned to a virtual function (R418): the certificate chain it has presented, and whether this
Curator set its link keys. -/
structure Switch where
  chain : Option (List Byte)
  keyed : Bool
  deriving DecidableEq, Repr

/-- A virtual function (R333, R350, R433, R457). `links` are the PCIe links on its path and `switches` the switches there (R417, R418),
which the environment decides. -/
structure Vf where
  enabled : Bool
  queues : List QueueRegs
  prBase : Word64
  prSize : Nat
  prTail : Nat
  prHead : Nat
  prRun : Bool
  reqs : List PageReq
  errValid : Bool
  errMore : Bool
  errCause : Byte
  errAddr : Word64
  tdisp : Tdisp
  ats : List Ats
  mapCalls : List Call
  catCalls : List Call
  events : List Nat
  gen : BitVec 16
  links : List Nat
  switches : List Switch
  deriving DecidableEq, Repr

/-- A frame's entry in the ownership table (R344). -/
structure Frame where
  state : Nat
  scrub : Bool
  lent : Bool
  part : Nat
  seq : BitVec 16
  deriving DecidableEq, Repr

/-- Consecutive frames with one entry: what firmware reserves at once (R215). -/
structure FrameRun where
  first : Nat
  count : Nat
  entry : Frame
  deriving DecidableEq, Repr

/-! ## Curator, links, fabric -/

/-- An SPDM connection of a requester (R414, R415): what it has negotiated. -/
structure Spdm where
  vf : Nat
  version : Bool
  caps : Bool
  algs : Bool
  waiting : Option (Option Nat × Nat × BitVec 256)
  deriving DecidableEq, Repr

/-- A debugger's read that waits for answers of other packages (R422): its thread, quad, offset and length. -/
structure DebugWait where
  ctx : Nat
  thread : TId
  quad : Nat
  off : Word64
  len : Nat
  deriving DecidableEq, Repr

/-- A session (R413, R422): whether its requester is bound to the virtual function, whether its handshake is complete, whether its next
measurement is to be live; and a debugger's read that waits. -/
structure Session where
  id : Nat
  vf : Nat
  secure : Bool
  ready : Bool
  live : Bool
  linkKeys : List Nat
  keyGen : Nat
  beat : Nat
  reading : Option DebugWait
  deriving DecidableEq, Repr

/-- The Curator's state (R413, R427). `boot` counts cold starts; `staged` holds firmware images by kind; `trust` is the list of roots that
the operator sets (R418), `peers` the session keys with the Curators of other packages (R421): both are set from outside. -/
structure Curator where
  fails : Nat
  reason : Byte
  badSlices : BitVec 16
  /-- The slices excluded since the last start (R428): they are in no partition until the next. -/
  excluded : BitVec 16
  powerLimit : Nat
  pace : Nat
  minimal : Bool
  started : Bool
  starting : Bool
  boot : Nat
  staged : List (Nat × List Byte)
  digests : List (BitVec 384)
  spdm : List Spdm
  sessions : List Session
  nextSession : Nat
  lastBlocks : List (Nat × List Byte)
  trust : List (List Byte)
  peers : List (Nat × BitVec 256)
  /-- When the clocks last made a step (R431), and when the boot reason was last reported (R430). -/
  stepped : Nat
  reported : Nat
  deriving DecidableEq, Repr

/-- A PCIe link's stream (R418): the keys of each direction, whether it is in the secure state. -/
structure Link where
  keys : List (Nat × BitVec 256)
  secure : Bool
  deriving DecidableEq, Repr

/-- A flow of peer accesses going out (R261) and its next sequence number. -/
structure Flow where
  cu : Nat
  pkg : Nat
  tenant : Nat
  next : Nat
  deriving DecidableEq, Repr

/-- A flow coming in (R261, R396): the next sequence number, results of performed requests, and requests
that came ahead of their turn. -/
structure InFlow where
  pkg : Nat
  part : Nat
  cu : Nat
  next : Nat
  results : List (Nat × PeerResult)
  early : List PeerPacket
  deriving DecidableEq, Repr

/-- A write not yet performed with respect to every observer (R240, R252), in coherence order: the cells it
writes, the tags it leaves, who made it, and its number among the accesses (R246). It is performed with respect to its own thread;
to the threads in `readers`, which have read it by an atomic (R242); to its group and the context's engine queues of its CU once `grp`
holds; and to every observer of its partition but those in `hidden`: CUs by number, the command processor (192), the other packages
(193). `hb` lists the threads whose next release it happens before (R248, R251), `heads` the releases that a reader of it reads from
(R250). `done` says that it lies in memory and is kept for its heads alone. `lead` numbers the request that the stores of a beat to one line
form together (R224), which is `shut` once no other may join it; `so` says that the page is SO (R245). `rmw` is set for an atomic's write,
which follows what the atomic has read at once (R230), and says whether it executed at its home. -/
structure PStore where
  thread : TId
  ctx : CtxId
  cu : Nat
  un : Bool
  pa : Nat
  bytes : List Byte
  tag : Option Bool
  req : Nat
  grp : Bool
  hidden : List Nat
  readers : List TId
  hb : List TId
  heads : List Head
  done : Bool
  lead : Nat
  shut : Bool
  so : Bool
  rmw : Option Bool
  deriving DecidableEq, Repr

/-- What the machine gives to its surroundings, newest first. -/
inductive Out where
  | msix (vf vec : Nat)
  | packet (pkg port : Nat) (p : PeerPacket)
  | reply (pkg : Nat) (p : PeerReply)
  | hostData (vf : Nat) (va : Word64) (bytes : List Byte) (poisoned : Bool)
  | hostRefused (vf : Nat) (va : Word64)
  | ats (vf fn : Nat) (va : Word64) (leaf : Option (BitVec 64))
  | atsInvalidate (vf fn : Nat)
  | marking (pkg tenant colour : Nat)
  | markingAck (tenant colour : Nat)
  | sweepAck (tenant colour : Nat)
  | generation (pkg part : Nat) (gen : BitVec 16)
  | spdm (vf code : Nat) (bytes : List Byte)
  | vendor (session status : Nat) (bytes : List Byte)
  | debugLeft (session : Nat) (t : TId)
  | debugHit (session : Nat) (t : TId) (cls : FClass) (blk : BitVec 32) (addr : Word64)
  | receipt (bytes : List Byte)
  | boot (reason : Byte) (mask : BitVec 16)
  | malformedEntry (part : Nat) (va : Nat)
  | grantFailed (part : Nat)
  | image (e : Export)
  | importRefused (code : Byte)
  deriving DecidableEq, Repr

/-- A latent error of a granule, found when it is read (R270, R271): an input of the environment. -/
inductive Ecc where
  | corrected
  | uncorrectable
  | tagBad
  deriving DecidableEq, Repr

/-- Errors the environment lays ahead: of a lane pair's duplicate execution (R48), of a tile's or buffer's
check code and residue (R305), by CU. -/
structure Upsets where
  lane : Bool
  residue : List Nat
  buffer : List Nat
  bufferFixed : List Nat
  deriving DecidableEq, Repr

/-- Sensor readings the next samples take (R392, R431): `die` one of each CU cluster, three to a slice; `stack`, `core`, `mem` and `process`
one of each slice; `power` the package's, in watts. -/
structure Sensors where
  die : List (BitVec 16)
  stack : List (BitVec 16)
  core : List (BitVec 16)
  mem : List (BitVec 16)
  process : List (BitVec 16)
  power : Nat
  deriving DecidableEq, Repr

/-- A host or agent access, or a register write behind it, that waits (R260, R354), with the generation of its partition when it came
(R360). -/
structure HostWait where
  op : Instr
  vf : Nat
  gen : BitVec 16
  deriving DecidableEq, Repr

/-- The package. `ports` holds the key of each UALink port that is authenticated (R419). -/
structure State where
  cur : Option Thread
  threads : List Thread
  trains : List Train
  plats : List Plat
  groups : List Group
  teams : List Team
  launches : List Launch
  contexts : List Context
  cus : List Cu
  monitors : List (List MonEntry)
  slices : List Slice
  mem : Mem
  tags : List Nat
  poison : List Nat
  ecc : List (Nat × Ecc)
  frames : List (Nat × Frame)
  runs : List FrameRun
  parts : List Partition
  tenants : List Tenant
  vfs : List Vf
  maxGens : List (BitVec 16)
  curator : Curator
  links : List Link
  ports : List (Option (BitVec 256))
  flows : List Flow
  inFlows : List InFlow
  peerGens : List (Nat × Nat × BitVec 16)
  time : Nat
  stores : List PStore
  flights : List Flight
  nextReq : Nat
  nextLaunch : Nat
  nextSerial : Nat
  staged : List Export
  inbox : List Instr
  hostWaits : List HostWait
  schedule : List Nat
  turn : Nat
  free : Nat
  memLate : Bool
  upsets : Upsets
  sensors : Sensors
  out : List Out
  deriving DecidableEq, Repr

/-! ## Reset -/

/-- A weight slot after reset: invalid, zero (R281). -/
def WSlot.reset : WSlot := { valid := false, sparse := false, cipher := false, addr := 0, len := 0, bytes := [] }

/-- A tile after reset: zero, owner none, flags 0 (R281). -/
def Tile.reset : Tile := { owner := none, flags := 0, data := [] }

/-- A CU after reset (R175, R213, R281, R336). -/
def Cu.reset : Cu :=
  { sram := [], sramTags := [], ob := [], wslots := List.replicate 32 WSlot.reset
    tiles := List.replicate 16 Tile.reset, tlb := [], l1 := [], fairness := 2048, keyCache := []
    lastTenant := none, selections := 0, order := [] }

/-- The monitor record before the first sample: 0 (R392). -/
def Monitor.reset : Monitor :=
  { dieTemp := 0, stackTemp := 0, coreMv := 0, memMv := 0, process := 0, status := 0, sample := 0 }

/-- The event counters at cold start: 0 (R391). -/
def Events.reset : Events :=
  { soft := 0, corrected := 0, uncorrectable := 0, logOverflow := 0, refreshes := 0, skipped := 0
    scrubbed := 0, units := List.replicate 16 0 }

/-- A free catalogue entry (R371). -/
def CatEntry.reset : CatEntry :=
  { accession := 0, base := 0, frames := 0, state := 0, pinned := false, uses := 0, digest := 0, part := 0
    list := [] }

/-- An empty key slot (R369). -/
def KeySlot.reset : KeySlot := { key := 0, nonce := 0, base := 0, filled := false }

/-- Idle copy engines (R281). -/
def CopyUnits.reset : CopyUnits := { engines := List.replicate 3 none, order := [] }

/-- A slice at cold start: no frames are reserved for a write log before a partition has it (R274). -/
def Slice.reset : Slice :=
  { held := false, powered := true, clock := 20, warm := 20, tenths := 0, tlb := [], l2 := [], monitor := Monitor.reset
    events := Events.reset, logRun := none, logSpare := [], logCap := 0, log := [], retire := [], rowGroups := [], patrol := 0, arb := []
    windows := [], uses := [], waits := [], turns := [], rows := [], ways := List.replicate 16 0, own := [], keys := List.replicate 16 KeySlot.reset
    memKeys := [], copy := CopyUnits.reset
    cat := List.replicate 16 CatEntry.reset, watchdog := false, sampled := none, patrolled := 0, decayed := 0 }

/-- An unused partition-table entry (R357). -/
def Partition.reset : Partition :=
  { state := 0, gen := 0, tenant := 0, fabric := 0, map := [], root := 0, pkg := 0, grants := [], pool := []
    poolUsed := 0, reach := [], staging := [], receipts := [], closing := false }

/-- A command-queue register set: 0, QSIZE 4 (R333). -/
def QueueRegs.reset : QueueRegs :=
  { bound := none, qbase := 0, qsize := 4, qtail := 0, qhead := 0, run := false, stopped := false
    errIndex := 0, errCode := 0, period := 0, periods := [], page := none, handle := none }

/-- A virtual function before its partition exists (R433): registers at reset (R333, R350, R457). -/
def Vf.reset : Vf :=
  { enabled := false, queues := List.replicate 64 QueueRegs.reset, prBase := 0, prSize := 4, prTail := 0
    prHead := 0, prRun := false, reqs := [], errValid := false, errMore := false, errCause := 0, errAddr := 0
    tdisp := .unlocked, ats := [], mapCalls := [], catCalls := [], events := [], gen := 0, links := [0], switches := [] }

/-- The Curator after the first cold start (R427, R428). -/
def Curator.reset : Curator :=
  { fails := 0, reason := 0, badSlices := 0, excluded := 0, powerLimit := 2400, pace := 20, minimal := false, started := true
    starting := false, boot := 0, staged := [], digests := [], spdm := [], sessions := [], nextSession := 1
    lastBlocks := [], trust := [], peers := [], stepped := 0, reported := 0 }

/-- The package right after a cold start that completed (R429): no partition, no thread, every frame free
with its scrub pending, memory with nothing listed. -/
def State.reset : State :=
  { cur := none, threads := [], trains := [], plats := [], groups := [], teams := [], launches := []
    contexts := [], cus := List.replicate 192 Cu.reset, monitors := List.replicate 48 []
    slices := List.replicate 16 Slice.reset, mem := [], tags := [], poison := [], ecc := [], frames := []
    runs := [], parts := List.replicate 16 Partition.reset, tenants := [], vfs := List.replicate 16 Vf.reset
    maxGens := List.replicate 16 0, curator := Curator.reset
    links := List.replicate 3 { keys := [], secure := false }, ports := List.replicate 12 none, flows := []
    inFlows := [], peerGens := [], time := 0, stores := [], flights := [], nextReq := 0
    nextLaunch := 0, nextSerial := 0, staged := [], inbox := [], hostWaits := [], schedule := [], turn := 0, free := 0
    memLate := false
    upsets := { lane := false, residue := [], buffer := [], bufferFixed := [] }
    sensors := { die := [], stack := [], core := [], mem := [], process := [], power := 0 }, out := [] }

end Sys2Proof.Machine
end

