-- ==== Sys2Proof/Machine/Bits.lean ====
section
/-!
DEFINITION. The pseudocode helpers of 00_scope on unbounded integers: sext, zext, saturation, bit counts,
carry-less products, ceilings, the position of the highest bit.
-/

namespace Sys2Proof.Machine

/-- x[n-1:0] as a two's-complement value. -/
def sextNat (x n : Nat) : Int :=
  let y := x % 2 ^ n
  if 2 * y < 2 ^ n then (y : Int) else (y : Int) - (2 ^ n : Nat)

/-- x[hi:lo] as an unsigned value. -/
def bitsOf (x hi lo : Nat) : Nat := x / 2 ^ lo % 2 ^ (hi + 1 - lo)

/-- The low n bits of an integer. -/
def wrapNat (x : Int) (n : Nat) : Nat := (x % ((2 ^ n : Nat) : Int)).toNat

/-- x clamped to the signed n-bit range. -/
def satS (x : Int) (n : Nat) : Int :=
  let h : Int := ((2 ^ (n - 1) : Nat) : Int)
  if x < -h then -h else if h - 1 < x then h - 1 else x

/-- x clamped to the unsigned n-bit range. -/
def satU (x : Int) (n : Nat) : Int :=
  let h : Int := ((2 ^ n : Nat) : Int)
  if x < 0 then 0 else if h - 1 < x then h - 1 else x

/-- ceil(a / b). -/
def ceilDiv (a b : Nat) : Nat := (a + b - 1) / b

/-- The number of bits of x: one more than the position of its highest 1 bit, 0 for 0. -/
def bitLen (x : Nat) : Nat := if x = 0 then 0 else Nat.log2 x + 1

/-- The number of 1 bits among the low n. -/
def popNat (n x : Nat) : Nat := (List.range n).foldl (fun acc i => if x.testBit i then acc + 1 else acc) 0

/-- The number of 0 bits above the highest 1 bit of the low n; n for 0. -/
def clzNat (n x : Nat) : Nat := n - bitLen (x % 2 ^ n)

/-- The number of 0 bits below the lowest 1 bit of the low n; n for 0. -/
def ctzNat (n x : Nat) : Nat := ((List.range n).find? (fun i => x.testBit i)).getD n

/-- The low n bits in reverse order. -/
def revNat (n x : Nat) : Nat :=
  (List.range n).foldl (fun acc i => if x.testBit i then acc + 2 ^ (n - 1 - i) else acc) 0

/-- The carry-less product of two 64-bit values (R111). -/
def clmulNat (a b : Nat) : Nat :=
  (List.range 64).foldl (fun acc i => if b.testBit i then acc ^^^ (a <<< i) else acc) 0

/-- The integer square root, by digits: the largest r with r * r ≤ x, for x below 4^n. -/
def isqrt : Nat → Nat → Nat
  | 0, _ => 0
  | n + 1, x =>
    let r := 2 * isqrt n (x / 4)
    if (r + 1) * (r + 1) ≤ x then r + 1 else r

end Sys2Proof.Machine
end

