-- ==== Sys2Proof/Machine/Mem.lean ====
section
/-!
DEFINITION. Byte memories in canonical form and sorted sets of numbers (granule tags, poison): reading,
writing, little-endian values (00 R1). An unlisted address reads as zero: HBM frames are scrubbed to zero
before their first grant (11 R278, 19 R429), and data SRAM, buffers and tiles are zero at reset (09 R213).
-/

namespace Sys2Proof.Machine

/-- Puts a value under a key of a list sorted by key. -/
def kvPut {α : Type} : List (Nat × α) → Nat → α → List (Nat × α)
  | [], k, v => [(k, v)]
  | (j, x) :: l, k, v => if k < j then (k, v) :: (j, x) :: l else if k = j then (k, v) :: l else (j, x) :: kvPut l k v

/-- The value under a key. -/
def kvGet {α : Type} (l : List (Nat × α)) (k : Nat) : Option α := (l.find? (·.1 == k)).map (·.2)

/-- The physical slice of a physical address (R337). -/
def sliceOfPa (pa : Nat) : Nat := pa / 2 ^ 37

/-- The numbers lo, lo + 1, …, hi. -/
def spanOf (lo hi : Nat) : List Nat := (List.range (hi + 1 - lo)).map (lo + ·)

/-- The byte at an address. -/
def memRead : Mem → Nat → Byte
  | [], _ => 0
  | (k, b) :: m, a => if a < k then 0 else if a = k then b else memRead m a

/-- Writes a byte; a zero is not listed. -/
def memWrite : Mem → Nat → Byte → Mem
  | [], a, v => if v = 0 then [] else [(a, v)]
  | (k, b) :: m, a, v =>
    if a < k then (if v = 0 then (k, b) :: m else (a, v) :: (k, b) :: m)
    else if a = k then (if v = 0 then m else (a, v) :: m)
    else (k, b) :: memWrite m a v

/-- `n` bytes from an address up. -/
def memReadN (m : Mem) (a : Nat) : Nat → List Byte
  | 0 => []
  | n + 1 => memRead m a :: memReadN m (a + 1) n

/-- Writes bytes from an address up. -/
def memWriteN (m : Mem) (a : Nat) : List Byte → Mem
  | [] => m
  | b :: bs => memWriteN (memWrite m a b) (a + 1) bs

/-- Zeroes `n` bytes from an address up. -/
def memZero (m : Mem) (a n : Nat) : Mem := m.filter (fun c => c.1 < a || a + n ≤ c.1)

/-- The bytes of [a, a + n), moved to start at address 0. -/
def memSlice (m : Mem) (a n : Nat) : Mem :=
  (m.filter (fun c => a ≤ c.1 && c.1 < a + n)).map (fun c => (c.1 - a, c.2))

/-- Replaces the bytes of [a, a + n) by those of `src`, which starts at address 0. -/
def memPatch (m : Mem) (a n : Nat) (src : Mem) : Mem :=
  src.foldl (fun m c => if c.1 < n then memWrite m (a + c.1) c.2 else m) (memZero m a n)

/-- The canonical form: addresses strictly rising above `lo`, no zero listed. -/
def memSorted : Nat → Mem → Bool
  | _, [] => true
  | lo, (k, b) :: m => decide (lo ≤ k) && b != 0 && memSorted (k + 1) m

/-- A memory's form holds. -/
def Memory.wf (m : Mem) : Bool := memSorted 0 m

/-- The value of `n` bytes at an address, little-endian. -/
def memNat (m : Mem) (a n : Nat) : Nat := (memReadN m a n).foldr (fun b acc => b.toNat + 256 * acc) 0

/-- The little-endian bytes of a value. -/
def natBytes : Nat → Nat → List Byte
  | 0, _ => []
  | n + 1, v => BitVec.ofNat 8 v :: natBytes n (v / 256)

/-- The value of bytes, little-endian. -/
def bytesNat (bs : List Byte) : Nat := bs.foldr (fun b acc => b.toNat + 256 * acc) 0

/-- Membership of a sorted set. -/
def setHas : List Nat → Nat → Bool
  | [], _ => false
  | k :: l, a => if a < k then false else if a = k then true else setHas l a

/-- Adds to a sorted set. -/
def setAdd : List Nat → Nat → List Nat
  | [], a => [a]
  | k :: l, a => if a < k then a :: k :: l else if a = k then k :: l else k :: setAdd l a

/-- Removes from a sorted set. -/
def setDel : List Nat → Nat → List Nat
  | [], _ => []
  | k :: l, a => if a < k then k :: l else if a = k then l else k :: setDel l a

/-- Puts an element in or out of a sorted set. -/
def setPut (l : List Nat) (a : Nat) (b : Bool) : List Nat := if b then setAdd l a else setDel l a

/-- Removes [lo, hi) from a set. -/
def setClear (l : List Nat) (lo hi : Nat) : List Nat := l.filter (fun a => a < lo || hi ≤ a)

/-- A set's elements rise strictly from `lo`. -/
def setSorted : Nat → List Nat → Bool
  | _, [] => true
  | lo, k :: l => decide (lo ≤ k) && setSorted (k + 1) l

/-- The granules that the bytes [a, a + n) touch (R149). -/
def granulesOf (a n : Nat) : List Nat :=
  if n = 0 then [] else (List.range ((a + n - 1) / 16 + 1 - a / 16)).map (a / 16 + ·)

/-! ## Lists of records -/

/-- Changes the element at an index, if there is one. -/
def modAt {α : Type} (l : List α) (n : Nat) (f : α → α) : List α :=
  match l[n]? with
  | some x => l.set n (f x)
  | none => l

/-- Changes every element a test accepts. -/
def modWhere {α : Type} (l : List α) (p : α → Bool) (f : α → α) : List α :=
  l.map (fun x => if p x then f x else x)

end Sys2Proof.Machine
end

