-- ==== Sys2Proof/Machine/Regs.lean ====
section
/-!
DEFINITION. A thread's registers, tags and predicates (04 R87 to R92): every read and write of a register
goes through here.
-/

namespace Sys2Proof.Machine

/-- A g register's value. -/
def Thread.reg (t : Thread) (n : Nat) : Word := t.regs.getD n 0

/-- Writes a g register; the tag of its quad is cleared (R92). -/
def Thread.setReg (t : Thread) (n : Nat) (v : Word) : Thread :=
  { t with regs := t.regs.set n v, tags := t.tags.set (n / 4) false }

/-- The pair at an even register (R91). -/
def Thread.pair (t : Thread) (n : Nat) : Word64 := t.reg (n + 1) ++ t.reg n

/-- Writes a pair (R91). -/
def Thread.setPair (t : Thread) (n : Nat) (v : Word64) : Thread :=
  (t.setReg n (v.setWidth 32)).setReg (n + 1) (v.extractLsb' 32 32)

/-- The 128 bits of the quad at a register divisible by 4 (R149). -/
def Thread.quadBits (t : Thread) (n : Nat) : Quad := t.pair (n + 2) ++ t.pair n

/-- The capability at a register divisible by 4. -/
def Thread.quad (t : Thread) (n : Nat) : Cap := { bits := t.quadBits n, tag := t.tags.getD (n / 4) false }

/-- Writes four registers as data: the tag is cleared (R206). -/
def Thread.setQuadBits (t : Thread) (n : Nat) (v : Quad) : Thread :=
  (t.setPair n (v.setWidth 64)).setPair (n + 2) (v.extractLsb' 64 64)

/-- Writes a capability: 128 bits and the tag at one moment (R162). -/
def Thread.setQuad (t : Thread) (n : Nat) (c : Cap) : Thread :=
  let t := t.setQuadBits n c.bits
  { t with tags := t.tags.set (n / 4) c.tag }

/-- A predicate; p0 reads true (R87). -/
def Thread.pred (t : Thread) (n : Nat) : Bool := n == 0 || t.preds.getLsbD n

/-- Writes a predicate; a write to p0 is ignored (R87). -/
def Thread.setPred (t : Thread) (n : Nat) (b : Bool) : Thread :=
  if n = 0 then t
  else { t with preds := if b then t.preds ||| (1#16 <<< n) else t.preds &&& ~~~(1#16 <<< n) }

/-- A result of one register or of a pair (R91, R97). -/
def Thread.setVal (t : Thread) (wide : Bool) (n v : Nat) : Thread :=
  if wide then t.setPair n (BitVec.ofNat 64 v) else t.setReg n (BitVec.ofNat 32 v)

/-- Register data of `k` registers: 1, 2 or 4 (R222). -/
def Thread.data (t : Thread) (k n : Nat) : Nat :=
  match k with
  | 1 => (t.reg n).toNat
  | 2 => (t.pair n).toNat
  | _ => (t.quadBits n).toNat

/-- Writes a loaded value of `k` registers. -/
def Thread.setData (t : Thread) (k n v : Nat) : Thread :=
  match k with
  | 1 => t.setReg n (BitVec.ofNat 32 v)
  | 2 => t.setPair n (BitVec.ofNat 64 v)
  | _ => t.setQuadBits n (BitVec.ofNat 128 v)

/-- The number of the thread's registers (R89). -/
def Thread.nregs (t : Thread) : Nat := t.regs.length

/-- The flags a result raises join s.fps (R127, R128). -/
def Thread.raise (t : Thread) (f : BitVec 5) : Thread := { t with fps := t.fps ||| f }

/-- The value of a guard (R73). -/
def Thread.guard (t : Thread) (g : Guard) : Bool := xor (t.pred g.pred.toNat) g.neg

/-- The value of a slot's guard (R64). -/
def Thread.slotGuard (t : Thread) (g : BitVec 2) : Bool :=
  if g = 0 then true else if g = 1 then t.pred 1 else if g = 2 then !t.pred 1 else t.pred 2

/-- An outstanding-operation counter (R383). -/
def Thread.cnt (t : Thread) (w : Nat) : Byte :=
  match w with | 0 => t.w0 | 1 => t.w1 | 2 => t.w2 | _ => t.w3

/-- Writes an outstanding-operation counter. -/
def Thread.setCnt (t : Thread) (w : Nat) (v : Byte) : Thread :=
  match w with
  | 0 => { t with w0 := v }
  | 1 => { t with w1 := v }
  | 2 => { t with w2 := v }
  | _ => { t with w3 := v }

/-- No operation of the thread is outstanding. -/
def Thread.opsDone (t : Thread) : Bool := t.w0 == 0 && t.w1 == 0 && t.w2 == 0 && t.w3 == 0

/-- The s.fblk layout of a program counter (R95). -/
def pcBits (blk : BitVec 16) (off : BitVec 10) : BitVec 32 := 0#6 ++ off ++ blk

end Sys2Proof.Machine
end

