-- ==== Sys2Proof/Machine/Ops.lean ====
section
/-!
DEFINITION. The named operations over the state: finding and putting back threads, groups, launches,
contexts, CUs; arriving at a platform (07 R179, R181); parking and resuming (R182); taking an exception and
returning from one (R190, R411); leaving the machine (R50, R51, R196); barriers (13 R327, R328); what every
word does around its own effect (03 R73, 04 R94, 07 R184, 02 R48).
-/

namespace Sys2Proof.Machine

/-! ## Fault classes -/

/-- The code of a fault class (R78). -/
def FClass.code : FClass → Byte
  | .illegalInstruction => 0x01 | .illegalOperand => 0x02 | .illegalPair => 0x03 | .headerExecuted => 0x04
  | .privilege => 0x05 | .illegalTarget => 0x06
  | .tag => 0x10 | .bounds => 0x11 | .perm => 0x12 | .sealed => 0x13 | .spaceForeign => 0x14
  | .window => 0x15 | .align => 0x16 | .revoked => 0x17
  | .pageAbsent => 0x20 | .pagePerm => 0x21 | .owner => 0x23
  | .subnormalAssist => 0x30
  | .uncorrectable => 0x40 | .checkMismatch => 0x41
  | .trap => 0x50 | .breakpoint => 0x51 | .watch => 0x52
  | .queue => 0x60 | .handle => 0x61 | .nestDepth => 0x62 | .reserve => 0x63 | .role => 0x64

/-- The status of a thread that a fault ends: 0xF0 | (code >> 4) (R50). -/
def FClass.exitStatus (c : FClass) : Byte := 0xF0 ||| (c.code >>> 4)

/-! ## Lookups -/

/-- The slice a physical CU lies in (R11). -/
def sliceOf (cu : Nat) : Nat := cu / 12

/-- The cluster a physical CU lies in (R11). -/
def clusterOf (cu : Nat) : Nat := cu / 4

/-- A slice. -/
def State.slice (s : State) (n : Nat) : Slice := s.slices.getD n Slice.reset

/-- Changes a slice. -/
def State.modSlice (s : State) (n : Nat) (f : Slice → Slice) : State := { s with slices := modAt s.slices n f }

/-- A CU. -/
def State.cu (s : State) (n : Nat) : Cu := s.cus.getD n Cu.reset

/-- Changes a CU. -/
def State.modCu (s : State) (n : Nat) (f : Cu → Cu) : State := { s with cus := modAt s.cus n f }

/-- A partition-table entry. -/
def State.part (s : State) (n : Nat) : Partition := s.parts.getD n Partition.reset

/-- Changes a partition-table entry. -/
def State.modPart (s : State) (n : Nat) (f : Partition → Partition) : State := { s with parts := modAt s.parts n f }

/-- A virtual function. -/
def State.vf (s : State) (n : Nat) : Vf := s.vfs.getD n Vf.reset

/-- Changes a virtual function. -/
def State.modVf (s : State) (n : Nat) (f : Vf → Vf) : State := { s with vfs := modAt s.vfs n f }

/-- The CU cycle count: the CUs of a slice run on its clock (R15, R382). -/
def State.now (s : State) (cu : Nat) : Nat := (s.slice (sliceOf cu)).tenths / 10

/-- Every resident thread, the issuing one first. -/
def State.allThreads (s : State) : List Thread := s.cur.toList ++ s.threads

/-- A thread by its name. -/
def State.thread (s : State) (id : TId) : Option Thread := s.allThreads.find? (·.id = id)

/-- Puts a thread back where it is listed. -/
def State.putThread (s : State) (t : Thread) : State :=
  match s.cur with
  | some c =>
    if c.id = t.id then { s with cur := some t }
    else { s with threads := modWhere s.threads (·.id = t.id) (fun _ => t) }
  | none => { s with threads := modWhere s.threads (·.id = t.id) (fun _ => t) }

/-- Changes a thread, if it is resident. -/
def State.modThread (s : State) (id : TId) (f : Thread → Thread) : State :=
  match s.thread id with
  | some t => s.putThread (f t)
  | none => s

/-- Changes every thread a test accepts. -/
def State.modThreads (s : State) (p : Thread → Bool) (f : Thread → Thread) : State :=
  { s with cur := s.cur.map (fun t => if p t then f t else t), threads := modWhere s.threads p f }

/-- Takes a thread out of the machine. -/
def State.dropThread (s : State) (id : TId) : State :=
  { s with cur := s.cur.filter (·.id != id), threads := s.threads.filter (·.id != id) }

/-- A launch by its serial number. -/
def State.launch (s : State) (uid : Nat) : Option Launch := s.launches.find? (·.uid == uid)

/-- Changes a launch. -/
def State.modLaunch (s : State) (uid : Nat) (f : Launch → Launch) : State :=
  { s with launches := modWhere s.launches (·.uid == uid) f }

/-- A context. -/
def State.context (s : State) (id : CtxId) : Option Context := s.contexts.find? (·.id = id)

/-- Changes a context. -/
def State.modContext (s : State) (id : CtxId) (f : Context → Context) : State :=
  { s with contexts := modWhere s.contexts (·.id = id) f }

/-- A resident group. -/
def State.group (s : State) (launch num : Nat) : Option Group :=
  s.groups.find? (fun g => g.launch == launch && g.num == num)

/-- Changes a group. -/
def State.modGroup (s : State) (launch num : Nat) (f : Group → Group) : State :=
  { s with groups := modWhere s.groups (fun g => g.launch == launch && g.num == num) f }

/-- The team size of a launch. -/
def State.teamSize (s : State) (launch : Nat) : Nat := ((s.launch launch).map (·.teamSize)).getD 1

/-- The team of a group (R24). -/
def State.teamOf (s : State) (launch group : Nat) : Option Team :=
  s.teams.find? (fun m => m.launch == launch && m.num == group / s.teamSize launch)

/-- Changes the team of a group. -/
def State.modTeam (s : State) (launch group : Nat) (f : Team → Team) : State :=
  { s with teams := modWhere s.teams (fun m => m.launch == launch && m.num == group / s.teamSize launch) f }

/-- A tenant. -/
def State.tenant (s : State) (id : Nat) : Option Tenant := s.tenants.find? (·.id == id)

/-- The alias key of this start (R413): the Curator signs with it. -/
def State.signingKey (s : State) : Nat :=
  Config.aliasKey s.curator.boot ((s.curator.digests[0]?).getD (Config.firmwareDigest s.curator.boot 1))

/-- Changes a tenant. -/
def State.modTenant (s : State) (id : Nat) (f : Tenant → Tenant) : State :=
  { s with tenants := modWhere s.tenants (·.id == id) f }

/-- The tenant of a partition. -/
def State.tenantOf (s : State) (part : Nat) : Option Tenant := s.tenant (s.part part).tenant

/-- The partition's slice count n (R12). -/
def Partition.n (p : Partition) : Nat := p.map.length

/-- The logical number of a physical CU in a partition (R12). -/
def Partition.logicalCu (p : Partition) (cu : Nat) : Nat := 12 * p.map.idxOf (sliceOf cu) + cu % 12

/-- The physical CU of a logical number (R12). -/
def Partition.physicalCu (p : Partition) (lcu : Nat) : Nat := 12 * p.map.getD (lcu / 12) 0 + lcu % 12

/-- The threads of a group that have not exited. -/
def State.liveThreads (s : State) (launch group : Nat) : List Thread :=
  s.allThreads.filter (fun t => t.id.launch == launch && t.id.group == group)

/-- The host's link carries traffic: its stream is in the secure state (R418). -/
def State.linkSecure (s : State) (n : Nat) : Bool := ((s.links[n]?).map (·.secure)).getD false

/-- So is the internal host port's. -/
def State.hostLink (s : State) : Bool := s.linkSecure 0

/-- A UALink port is authenticated, its keys set, and carries traffic (R419). -/
def State.portOpen (s : State) (n : Nat) : Bool := ((s.ports[n]?).bind id).isSome

/-- Gives something to the surroundings. -/
def State.emit (s : State) (o : Out) : State := { s with out := o :: s.out }

/-- The next free value (Config.freeNat), and the state that has drawn it. -/
def State.draw (s : State) : Nat × State := (Config.freeNat s.free, { s with free := s.free + 1 })

/-! ## Performance counters (R388, R389) -/

/-- A counter counts occurrences at a cycle. -/
def PerfCounter.count (k : PerfCounter) (now n : Nat) : PerfCounter :=
  { k with val := k.val + BitVec.ofNat 48 n, recent := ((now : Int), n) :: k.recent.filter (fun r => now < r.1 + 64) }

/-- Adds occurrences of an event to the counters of a context on a CU that select it. -/
def State.perf (s : State) (ctx : CtxId) (cu : Nat) (sel : Byte) (n : Nat) : State :=
  let now := s.now cu
  s.modContext ctx (fun c => { c with
    perf := modWhere c.perf (·.cu == cu) (fun p => { p with
      counters := modWhere p.counters (fun k => k.sel == sel) (·.count now n) }) })

/-- The copies of a context have moved some bytes on a CU: every 256 count (R389). -/
def State.perfMoved (s : State) (ctx : CtxId) (cu n : Nat) : State :=
  let was := (((s.context ctx).bind (fun c => c.perf.find? (·.cu == cu))).map (·.moved)).getD 0
  let s := s.perf ctx cu 0x0C ((was + n) / 256)
  s.modContext ctx (fun c => { c with perf := modWhere c.perf (·.cu == cu) (fun p => { p with moved := (was + n) % 256 }) })

/-! ## Platforms (R179 to R181) -/

/-- The platform entries one CU's store holds (R175). -/
def platCapacity : Nat := 512

/-- The bit of a thread number in a group mask. -/
def maskBit (n : Nat) : BitVec 1024 := 1#1024 <<< n

/-- The thread numbers of a mask below a bound, ascending. -/
def maskNums (m : BitVec 1024) : List Nat := (List.range 1024).filter (fun i => m.getLsbD i)

/-- The same platform entry. -/
def Plat.same (p q : Plat) : Bool := p.cu == q.cu && p.launch == q.launch && p.group == q.group && p.blk == q.blk

/-- Inserts an entry into a list whose stamps rise. -/
def platInsert (p : Plat) : List Plat → List Plat
  | [] => [p]
  | q :: l => if p.stamp < q.stamp then p :: q :: l else q :: platInsert p l

/-- Empty entries of a CU's store are freed, and spilled ones then fill its free places, oldest stamp first (R179, R181); of equal
stamps, which the spec does not order, the one listed first (DESIGN CHOICE, log entry 64). -/
def State.settlePlats (s : State) (cu : Nat) : State :=
  let plats := s.plats.filter (fun p => p.cu != cu || p.mask != 0)
  let here := plats.filter (fun p => p.cu == cu)
  let free := platCapacity - (here.filter (fun p => !p.spilled)).length
  let back := ((here.filter (·.spilled)).foldl (fun l p => platInsert p l) []).take free
  { s with plats := if back.isEmpty then plats else modWhere plats (fun p => back.any p.same) (fun p => { p with spilled := false }) }

/-- The entry with the newest stamp; of equal stamps, which the spec does not order, the one listed first (DESIGN CHOICE, log entry 64). -/
def newestPlat (l : List Plat) : Option Plat :=
  l.foldl (fun (best : Option Plat) p => match best with
    | none => some p
    | some b => if b.stamp < p.stamp then some p else some b) none

/-- An entry comes to a CU's store: where that is full, the resident entry with the newest stamp is spilled, the arriving one if it is
newer than all (R181), and counted for its context (R389). -/
def State.addPlat (s : State) (p : Plat) : State :=
  let here := s.plats.filter (fun q => q.cu == p.cu && !q.spilled)
  if here.length < platCapacity then { s with plats := s.plats ++ [p] }
  else match (newestPlat here).filter (fun v => p.stamp ≤ v.stamp) with
    | none => (({ s with plats := s.plats ++ [{ p with spilled := true }] } : State)).perf p.ctx p.cu 0x0A 1
    | some v =>
      (({ s with plats := modWhere s.plats v.same (fun q => { q with spilled := true }) ++ [p] } : State)).perf v.ctx p.cu 0x0A 1

/-- A thread sets its bit in the entry of its group and a block, creating it with the current cycle as its
stamp (R179); spilled entries fill free places before it, and a full store spills the newest entry, the arriving one if it is newer
(R181). -/
def State.setPlatform (s : State) (t : Thread) (blk : BitVec 16) : State :=
  let s := s.settlePlats t.cu
  let same := fun (p : Plat) => p.cu == t.cu && p.launch == t.id.launch && p.group == t.id.group && p.blk == blk
  if s.plats.any same then
    { s with plats := modWhere s.plats same (fun p => { p with mask := p.mask ||| maskBit t.id.num }) }
  else
    s.addPlat { cu := t.cu, ctx := t.ctx, launch := t.id.launch, group := t.id.group, blk := blk, mask := maskBit t.id.num
                stamp := s.now t.cu, cursor := 0, spilled := false, passed := 0 }

/-- Whether a train holds a thread. -/
def inTrain (t : Thread) (r : Train) : Bool :=
  r.launch == t.id.launch && r.group == t.id.group && r.lanes.contains t.id.num

/-- The beat in which a thread of a train issues its word (R40). -/
def Train.beatOf (r : Train) (n : Nat) : Nat := r.pos.idxOf n / 16

/-- The train at whose word a thread has its place. -/
def State.trainAt (s : State) (id : TId) : Option Train :=
  s.trains.find? (fun r => r.launch == id.launch && r.group == id.group && r.pos.contains id.num)

/-- A thread's beat is not over: some thread of it has neither issued its word nor been held at it (R443). -/
def State.beatGoes (s : State) (id : TId) : Bool :=
  (s.trainAt id).any (fun r => r.todo.any (fun k => r.beatOf k == r.beatOf id.num && !r.tried.contains k))

/-- Two threads issue in one beat (R40). -/
def State.sameBeat (s : State) (a b : TId) : Bool :=
  a.launch == b.launch && a.group == b.group
    && (s.trainAt a).any (fun r => r.pos.contains b.num && r.beatOf a.num == r.beatOf b.num)

/-- A thread's access is one of its beat's (R210, R224): it issues in a train, and is no replay. -/
def State.gathers (s : State) (t : Thread) : Bool := t.replayOf.isNone && (s.trainAt t.id).isSome

/-- Takes a thread out of the train that holds it. -/
def State.leaveTrain (s : State) (t : Thread) : State :=
  let out := fun (r : Train) => { r with
    lanes := r.lanes.erase t.id.num, todo := r.todo.erase t.id.num, done := r.done.erase t.id.num }
  { s with trains := modWhere s.trains (inTrain t) out }

/-- The thread arrives at a block's platform entry (R179, R193). -/
def State.arrive (s : State) (t : Thread) (blk : BitVec 16) : State :=
  ((s.leaveTrain t).putThread { t with blk := blk, off := 1, run := .platform }).setPlatform t blk

/-! ## Leaving the machine (R50, R51, R33) -/

/-- One status enters the reduction of R51. -/
def Launch.reduce (l : Launch) (group : Nat) (st : Byte) : Launch :=
  { l with
    count := l.count + 1
    nonzero := if st = 0 then l.nonzero else l.nonzero + 1
    maxStatus := if l.maxStatus < st then st else l.maxStatus
    orStatus := l.orStatus ||| st
    firstGroup := if st = 0 then l.firstGroup else match l.firstGroup with
      | none => some group
      | some g => some (min g group) }

/-- A group with no thread left gives back its resources (R33, R216, R316). -/
def State.releaseGroup (s : State) (launch group : Nat) : State :=
  if (s.liveThreads launch group).isEmpty then
    match s.group launch group with
    | none => s
    | some g =>
      let others := s.groups.filter (fun h => h.launch == launch && h.num != group
        && h.num / s.teamSize launch == group / s.teamSize launch && h.cu == g.cu)
      let s := { s with groups := s.groups.filter (fun h => !(h.launch == launch && h.num == group)) }
      if others.isEmpty then
        s.modTeam launch group (fun m => { m with regions := m.regions.filter (·.cu != g.cu) })
      else s
  else s

/-! ## Moving on within a block (R72), taking an exception (R190) -/

/-- The launch's handler block; 0xFFFF for none. -/
def State.handlerOf (s : State) (launch : Nat) : BitVec 16 := ((s.launch launch).map (·.handler)).getD 0xFFFF

/-- Whether a fault of the thread ends it (R190 step 1). -/
def State.faultEnds (s : State) (t : Thread) : Bool := t.inHandler || s.handlerOf t.id.launch == 0xFFFF

/-- TAKING AN EXCEPTION (R190): a thread in the handler, or without one, leaves with the class's status once
its log is invalid and its engine operations are performed; any other saves class, address and place, enters
the handler mode and arrives at the handler block. -/
def State.deliver (s : State) (t : Thread) (cls : FClass) (addr : Word64) (blk : BitVec 16) (off : BitVec 10) : State :=
  if s.faultEnds t then (s.leaveTrain t).putThread { t with run := .exiting cls.exitStatus }
  else s.arrive { t with fcode := cls.code, faddr := addr, fblk := pcBits blk off, inHandler := true }
    (s.handlerOf t.id.launch)

/-- RETURNING FROM THE HANDLER (R411): the handler mode is cleared and the thread arrives at a block. -/
def State.returnTo (s : State) (t : Thread) (blk : BitVec 16) : State := s.arrive { t with inHandler := false } blk

/-- Returning to a word of a block (R411, `.at`): the thread is eligible at that siding position at once. -/
def State.returnAt (s : State) (t : Thread) (blk : BitVec 16) (off : BitVec 10) : State :=
  (s.leaveTrain t).putThread
    { t with inHandler := false, blk := blk, off := off, blkLen := 0, run := .eligible (s.now t.cu) 0 }

/-- Whether the thread's word is its block's last (R72). -/
def Thread.atEnd (t : Thread) : Bool := t.blkLen ≤ t.off.toNat + 1

/-- A parked thread goes on at the word after the one it is parked at; passing the block's end faults
ILLEGAL_TARGET (R72, R182). -/
def State.resumeNext (s : State) (t : Thread) : State :=
  let t := { t with watchSkip := false, mark := none }
  if t.atEnd then s.deliver t .illegalTarget 0 t.blk t.off
  else s.putThread { t with off := t.off + 1, run := .eligible (s.now t.cu) 0 }

/-- A parked thread becomes eligible at its word (R182). -/
def State.wakeAt (s : State) (t : Thread) : State := s.putThread { t with run := .eligible (s.now t.cu) 0 }

/-! ## Barriers (R327, R328) -/

/-- What happens before one of some threads' arrivals at a barrier happens before every access of each of them after it, UN accesses
apart (R327, R328, R251). -/
def State.joinOrder (s : State) (ids : List TId) : State :=
  let before := fun (p : PStore) => !p.done && !p.un && ids.any p.hb.contains
  { s with stores := modWhere s.stores before (fun (p : PStore) => { p with hb := p.hb ++ ids.filter (fun i => !p.hb.contains i) }) }

/-- Releases a group's barrier when every live thread has arrived (R327). -/
def State.checkBar (s : State) (launch group : Nat) : State :=
  match s.group launch group with
  | none => s
  | some g =>
    let live := s.liveThreads launch group
    if !live.isEmpty && live.all (fun t => g.arrived.getLsbD t.id.num) then
      let s := (s.joinOrder (live.map (·.id))).modGroup launch group (fun g => { g with arrived := 0 })
      live.foldl (fun s t => match s.thread t.id with
        | some t => s.resumeNext t
        | none => s) s
    else s

/-- The groups of a team that take part in a barrier with a stage mask (R328). -/
def State.barGroups (s : State) (launch group h : Nat) (ctx : CtxId) : List Group :=
  let pipeline := ((s.launch launch).map (fun l => l.flags.getLsbD 3)).getD false
  let mask := ((s.context ctx).map (fun c => bitsOf (c.handles.getD h 0).toNat 11 8)).getD 0
  s.groups.filter (fun g => g.launch == launch && g.num / s.teamSize launch == group / s.teamSize launch
    && !(s.liveThreads launch g.num).isEmpty && (!pipeline || mask.testBit g.stage))

/-- Releases a team barrier when every participating group has arrived (R328). -/
def State.checkHbar (s : State) (launch group h : Nat) (ctx : CtxId) : State :=
  match s.teamOf launch group with
  | none => s
  | some m =>
    let gs := s.barGroups launch group h ctx
    let arrived := fun (g : Group) (t : Thread) =>
      m.arrivals.any (fun a => a.handle == h && a.group == g.num && a.mask.getLsbD t.id.num)
    let any := m.arrivals.any (fun a => a.handle == h)
    if any && gs.all (fun g => (s.liveThreads launch g.num).all (arrived g)) then
      let waiting := s.allThreads.filter (fun t => t.id.launch == launch
        && t.id.group / s.teamSize launch == m.num && match t.run with
          | .parked (.teamBarrier k) _ => k == h
          | _ => false)
      let s := (s.joinOrder (waiting.map (·.id))).modTeam launch group (fun m => { m with
        arrivals := m.arrivals.filter (·.handle != h) })
      waiting.foldl (fun s t => match s.thread t.id with
        | some t => s.resumeNext t
        | none => s) s
    else s

/-- A thread leaves with a status: it enters the record, may complete barriers, and frees what its group
held if it was the last (R50, R51, R196, R327, R328). -/
def State.finishExit (s : State) (t : Thread) (st : Byte) : State :=
  let l := t.id.launch
  let g := t.id.group
  let s := ((s.leaveTrain t).dropThread t.id).modLaunch l (·.reduce g st)
  let s := s.checkBar l g
  let hs := (((s.teamOf l g).map (fun m => m.arrivals.map (·.handle))).getD []).eraseDups
  let s := hs.foldl (fun s h => s.checkHbar l g h t.ctx) s
  s.releaseGroup l g

/-- The thread's log holds no access that is still to be replayed: it is invalid, or the outcome of its replay is a fault (R185). -/
def Thread.logDone (t : Thread) : Bool :=
  match t.log with
  | some o => o.failed.isSome
  | none => true

/-- Some peer write of the thread has not been acknowledged (R261). -/
def State.peerWritesOut (s : State) (id : TId) : Bool := s.flights.any (fun f => f.thread == id && f.kind == .store)

/-- A thread that a fault is ending leaves once its log is invalid and its operations are performed, and its peer writes, which the
done word's release covers (R248, R261), acknowledged; a fault
of its replay, met before or while it waits, or of its engine record is discarded (R190, R196, R286). -/
def State.settleExit (s : State) (t : Thread) : State :=
  match t.run with
  | .exiting st => if t.logDone && t.opsDone && !s.peerWritesOut t.id then s.finishExit { t with log := none, pending := [] } st else s
  | _ => s

/-! ## What a word does -/

/-- How a word ends for its thread. `go`: on to the next word. `jump`: arrives at a block. `fault`: a
non-resumable fault at this word, with no effect (R5). `faultAt`: a recorded fault of another word (R185,
R286). `park`: parks at this word. `parkNext`: parks at the next word. `hold`: stays at this word (R182).
`exit`: leaves with a status. `err`: as `fault`, but the memory that found
an error keeps its record of it (R271). `stop`: the state as it is. `back`: returns from the handler, to a block or a word of it (R411). -/
inductive Act where
  | go (s : State) (t : Thread)
  | jump (s : State) (t : Thread) (blk : BitVec 16)
  | fault (cls : FClass) (addr : Word64)
  | faultAt (t : Thread) (cls : FClass) (addr : Word64) (blk : BitVec 16) (off : BitVec 10)
  | park (s : State) (t : Thread) (r : Reason)
  | parkNext (s : State) (t : Thread) (r : Reason)
  | hold (s : State) (t : Thread) (c : LateCond)
  | exit (t : Thread) (st : Byte)
  | err (s : State) (cls : FClass) (addr : Word64)
  | stop (s : State)
  | back (t : Thread) (blk : BitVec 16) (off : Option (BitVec 10))
  deriving DecidableEq, Repr

/-- The thread takes an exception, and leaves at once if the fault ends it and nothing holds it (R190). -/
def State.deliverNow (s : State) (t : Thread) (cls : FClass) (addr : Word64) (blk : BitVec 16) (off : BitVec 10) : State :=
  let s := s.deliver t cls addr blk off
  match s.thread t.id with
  | some t => s.settleExit t
  | none => s

/-- The thread goes on to the next word of its block; passing the last faults ILLEGAL_TARGET (R72). A thread
that STEP let go parks there again (R426). -/
def State.advance (s : State) (t : Thread) : State :=
  let t := { t with watchSkip := false, mark := none }
  if t.atEnd then s.deliverNow { t with issued := true, steps := false } .illegalTarget 0 t.blk t.off
  else if t.steps then
    ((s.leaveTrain t).perf t.ctx t.cu 0x09 1).putThread { t with off := t.off + 1, issued := true, steps := false
                                                                 run := .parked (.debug .breakpoint 0) (s.now t.cu) }
  else s.putThread { t with off := t.off + 1, issued := true, run := .train none }

/-- Parks a thread with a reason (R182). -/
def State.parkAt (s : State) (t : Thread) (r : Reason) : State :=
  ((s.leaveTrain t).perf t.ctx t.cu 0x09 1).putThread { t with run := .parked r (s.now t.cu) }

/-- The cycle since which a held thread has been held. -/
def Thread.heldSince (t : Thread) (now : Int) : Int :=
  match t.run with
  | .train (some h) => h.since
  | _ => now

/-- The end of a word, but for its report. -/
def concludeWord (s0 : State) (t0 : Thread) : Act → State
  | .go s t => s.advance t
  | .jump s t blk => s.arrive { t with issued := true, steps := false, watchSkip := false, mark := none } blk
  | .fault cls addr => s0.deliverNow { t0 with issued := true, steps := false, watchSkip := false, mark := none } cls addr t0.blk t0.off
  | .faultAt t cls addr blk off => s0.deliverNow { t with issued := true, steps := false, watchSkip := false, mark := none } cls addr blk off
  | .park s t r => s.parkAt { t with issued := true, steps := false } r
  | .parkNext s t r =>
    let t := { t with issued := true, steps := false, watchSkip := false, mark := none }
    if t.atEnd then s.deliverNow t .illegalTarget 0 t.blk t.off else s.parkAt { t with off := t.off + 1 } r
  | .hold s t c => s.putThread { t with issued := true, run := .train (some { since := t.heldSince (s.now t.cu), cond := c }) }
  | .exit t st => s0.finishExit t st
  | .err s cls addr => s.deliverNow { t0 with issued := true, steps := false, watchSkip := false, mark := none } cls addr t0.blk t0.off
  | .stop s => s
  | .back t blk off =>
    match off with
    | none => s0.returnTo { t with issued := true, steps := false } blk
    | some o => s0.returnAt { t with issued := true, steps := false } blk o

/-- The debug session of a thread's context. -/
def State.sessionOf (s : State) (t : Thread) : Nat := ((s.context t.ctx).bind (·.session)).getD 0

/-- A thread that STEP let go is reported when it leaves its train on that word (R426). -/
def State.reportStep (s : State) (t0 : Thread) : State :=
  if !t0.steps then s
  else match (s.thread t0.id).map (fun (t : Thread) => t.run) with
    | some (.parked (.debug _ _) _) => s
    | some (.train _) => s
    | _ => s.emit (.debugLeft (s.sessionOf t0) t0.id)

/-- The end of a word for the thread `t0` that issued it, from the state `s0` before it. -/
def conclude (s0 : State) (t0 : Thread) (a : Act) : State := (concludeWord s0 t0 a).reportStep t0

/-! ## Before a word's own effect (R73, R94, R184, R48) -/

/-- The guard of a word; a pair word passes if either slot's guard is true (R73). -/
def guardTrue (t : Thread) : Code → Bool
  | .f _ w => t.guard w.guard
  | .i _ w => t.guard w.guard
  | .x _ w => t.guard w.guard
  | .p s0 s1 => t.slotGuard s0.guard || t.slotGuard s1.guard
  | .event => true

/-- Step 4 of R73, the thread's allocation included; a pair word's registers are checked slot by slot, where
the slot's guard is true (R68). -/
def operandsOk (t : Thread) : Code → Bool
  | .p s0 s1 => s0.ok && s1.ok
      && (!t.slotGuard s0.guard || s0.regList.all (· < t.nregs))
      && (!t.slotGuard s1.guard || s1.regList.all (· < t.nregs))
  | .f op w => (fShape op w).ok && (fShape op w).allocated t.nregs
  | .i op w => (iShape op w).ok && (iShape op w).allocated t.nregs
  | .x op w => (xShape op w).ok && (xShape op w).allocated t.nregs
  | .event => true

/-- The registers the word names for this thread (R94). -/
def namedRegs (t : Thread) : Code → List Nat
  | .p s0 s1 => (if t.slotGuard s0.guard then s0.regList else []) ++ (if t.slotGuard s1.guard then s1.regList else [])
  | .f op w => (fShape op w).regList
  | .i op w => (iShape op w).regList
  | .x op w => (xShape op w).regList
  | .event => []

/-- A logged access is a store, `atom`, `acas` or `red` (R184). -/
def OpLog.isStore (o : OpLog) : Bool := 0x80 ≤ o.op.toNat && o.op.toNat ≤ 0x85

/-- A logged access is an explicit acquire: a load with .acq, an atomic with .acq or .ar (R184). -/
def OpLog.isAcquire (o : OpLog) : Bool :=
  if o.op.toNat < 0x80 then o.mod.getLsbD 5
  else (o.op == 0x83 || o.op == 0x84) && o.mod.getLsbD 6

/-- The words a logged access blocks by its form alone (R184): everything that may not pass a logged store,
everything that may not pass a logged acquire, and a terminating exit. -/
def logBlocks (o : OpLog) : Code → Bool
  | .i op _ => op == 0x23
  | .x op w =>
    let store := (0x080 ≤ op && op ≤ 0x086) || op == 0x089 || op == 0x08A || op == 0x140 || op == 0x100 || op == 0x106
      || (op == 0x103 && !w.bit 7) || (0x0C0 ≤ op && op ≤ 0x0CE && op != 0x0CB && op != 0x0CC) || op == 0x185
      || op == 0x104 || op == 0x105
    let memOp := (0x040 ≤ op && op ≤ 0x08B)
    let ring := 0x100 ≤ op && op ≤ 0x103
    let engine := 0x0C0 ≤ op && op ≤ 0x0CE
    op == 0x183 || (o.isStore && store)
      || (o.isAcquire && (memOp || ring || engine || op == 0x140 || op == 0x106 || op == 0x185))
  | .f _ _ => false
  | .p _ _ => false
  | .event => false

/-- What a thread does at a word its valid log stops: a failed replay's fault is delivered and the marks are
cleared, else it parks with a reason (R184, R185). -/
def logStop (s : State) (t : Thread) (r : Reason) : Act :=
  match t.log with
  | some o => match o.failed with
    | some cls => .faultAt { t with log := none, pending := [] } cls o.addr o.blk o.off
    | none => .park s t r
  | none => .park s t r

/-- What stops a word before its own checks: a pending register, an access the log blocks (R94, R184, R185). -/
def blocked (s : State) (t : Thread) (c : Code) : Option Act :=
  if (namedRegs t c).any t.pending.contains then some (logStop s t .pending)
  else match t.log with
    | some o => if logBlocks o c then some (logStop s t .secondFault) else none
    | none => none

/-- `pf`, which does nothing where another word would park (R184, R238). -/
def isPf : Code → Bool
  | .x op _ => op == 0x08B
  | .f _ _ => false
  | .i _ _ => false
  | .p _ _ => false
  | .event => false

/-- The registers a result in flight will write. -/
def Flight.regs (f : Flight) : List Nat :=
  match f.kind with
  | .load d _ => (List.range ((f.n + 3) / 4)).map (d + ·)
  | .loadCap d _ => [d, d + 1, d + 2, d + 3]
  | .peer => []
  | .store => []
  | .engine _ _ _ => []
  | .cmd _ => []

/-- A result in flight will write one of these registers. -/
def Flight.writes (f : Flight) (regs : List Nat) : Bool := f.regs.any regs.contains

/-- A word that names a register a result in flight will write is held (R182). -/
def awaitsFlight (s : State) (t : Thread) (c : Code) : Bool :=
  let regs := namedRegs t c
  s.flights.any (fun f => f.thread = t.id && f.writes regs)

/-- A hold for those of the thread's results in flight that the word waits for (R182). -/
def State.holdFor (s : State) (t : Thread) (pick : Flight → Bool) : Act :=
  .hold s t (.flight ((s.flights.filter (fun f => f.thread == t.id && f.answer.isNone && pick f)).map (·.req)))

/-- A hold that is tried again at once: a slice held in reset, a channel whose window has no bandwidth left, a write held. -/
def State.holdAgain (s : State) (t : Thread) : Act := .hold s t (.flight [])

/-! ### Check mode (R47, R48) -/

/-- The words R42 issues once for the whole train: F and I words that are neither terminators nor `trap`,
read no g register and no predicate as an operand. -/
def issuesOnce : Code → Bool
  | .f op w =>
    let shape := fShape op w
    let srcs := shape.operands.tail
    !(op == 0x22 || op == 0x29 || op == 0x2A || (op == 0x28 && w.lo % 4 != 0) || (op == 0x47 && w.d.toNat / 16 % 4 != 0)
      || ((op == 0x03 || op == 0x04) && w.lo / 16 == 1))
      && srcs.all (fun o => o.regList.isEmpty)
  | .i op _ => op == 0x06 || op == 0x0E
  | .x _ _ => false
  | .p _ _ => false
  | .event => false

/-- The words that write no register, predicate or special register and present nothing to the memory unit, the engines or the rings,
so that a second execution compares nothing (R48): branches without a link, `exit`, `trap`, `nop`, `brk`, `idle`, `fence`, `drain`,
`wait`, `bar`, `hbar`. -/
def comparesNothing : Code → Bool
  | .f _ _ => false
  | .i op _ => op == 0x20 || op == 0x21 || op == 0x23 || op == 0x24
  | .x op _ => op == 0x180 || op == 0x182 || op == 0x183 || op == 0x184 || op == 0x187 || op == 0x188 || op == 0x089 || op == 0x08A
    || op == 0x140 || op == 0x104 || op == 0x105
  | .p _ _ => false
  | .event => true

/-- Whether a lane executes the word a second time: a thread of the last beat with a spare lane, or a word
issued once; positions are those of the train as it stood when its word began (R40, R47). -/
def checked (s : State) (t : Thread) (c : Code) : Bool :=
  match s.launch t.id.launch, s.trains.find? (inTrain t) with
  | some l, some r =>
    let n := r.pos.length
    let pos := r.pos.idxOf t.id.num
    let m := if n % 16 == 0 then 16 else n % 16
    l.flags.getLsbD 1 && (issuesOnce c || (pos / 16 == (n - 1) / 16 && pos % 16 < min m (16 - m)))
  | _, _ => false

/-- The mismatch count of the slice goes up and the environment's upset is spent (R48). -/
def State.mismatch (s : State) (cu : Nat) : State :=
  { (s.modSlice (sliceOf cu) (fun c => { c with events := { c.events with soft := c.events.soft + 1 } })) with
    upsets := { s.upsets with lane := false } }

/-- The threads of the same train that have still to issue the word. -/
def State.trainMates (s : State) (t : Thread) : List Thread :=
  match s.trains.find? (inTrain t) with
  | some r => s.threads.filter (fun u => u.id.launch == t.id.launch && u.id.group == t.id.group && r.todo.contains u.id.num)
  | none => []

/-- The whole of a word: guard, operands, pair rules, parking, check mode, and then its own effect (R73). -/
def wordAct (c : Code) (s : State) (t : Thread) (body : State → Thread → Act) : Act :=
  if !guardTrue t c then .go s t
  else if !operandsOk t c then .fault .illegalOperand 0
  else if (match c with | .p s0 s1 => !pairOk s0 s1 | _ => false) then .fault .illegalPair 0
  else match blocked s t c with
    | some a => if isPf c then .go s t else a
    | none =>
      if awaitsFlight s t c then (if isPf c then .go s t else s.holdFor t (fun f => f.writes (namedRegs t c)))
      else match t.peerFault with
        | some r => .faultAt { t with peerFault := none } r.cls r.addr r.blk r.off
        | none => body s t

/-- A word that gets past what could stop it before its own effect (R73, R184). -/
def reachesBody (s : State) (t : Thread) (c : Code) : Bool :=
  guardTrue t c && operandsOk t c && (match c with | .p s0 s1 => pairOk s0 s1 | _ => true) && (blocked s t c).isNone
    && !awaitsFlight s t c && t.peerFault.isNone

/-- A thread parked with this reason has presented its word's operands; with the others it waits to issue the word again. -/
def Reason.presented : Reason → Bool
  | .pending | .secondFault | .debug _ _ => false
  | .late c => c == .call
  | .barrier | .teamBarrier _ | .ring _ _ | .join _ _ | .monitor _ _ | .wait _ _ _ | .idle _ => true

/-- A word that ends so has written its values, or presented its operands: it neither faulted nor waits to issue again. A hold that
has sent a request to another package has presented them. -/
def Act.completes (s : State) : Act → Bool
  | .go _ _ | .jump _ _ _ | .parkNext _ _ _ | .back _ _ _ => true
  | .park _ _ r => r.presented
  | .hold s' _ _ => decide (s.nextReq < s'.nextReq)
  | .fault _ _ | .faultAt _ _ _ _ _ | .exit _ _ | .err _ _ _ | .stop _ => false

/-- The thread's word has been sent to another package and awaits its answer: what it presented was compared then. -/
def State.sentWord (s : State) (t : Thread) : Bool :=
  s.flights.any (fun f => f.thread == t.id && f.kind == .peer && f.blk == t.blk && f.off == t.off)

/-- What a word does to the state in which its thread issues: with an upset of a checked lane, the thread whose word has values to
compare takes CHECK_MISMATCH instead, with every other guard-true thread of its train where the word issues once (R48). -/
def runWord (c : Code) (s : State) (t : Thread) (body : State → Thread → Act) : State :=
  let a := wordAct c s t body
  if s.upsets.lane && !comparesNothing c && checked s t c && !s.sentWord t && reachesBody s t c && a.completes s then
    let others := if issuesOnce c then (s.trainMates t).filter (fun u => guardTrue u c) else []
    others.foldl (fun s u => s.deliverNow { u with issued := true } .checkMismatch 0 u.blk u.off)
      (conclude (s.mismatch t.cu) t (.fault .checkMismatch 0))
  else conclude s t a

/-- A word instruction runs for the issuing thread. -/
def issue (c : Code) (s : State) (body : State → Thread → Act) : Host.Outcome State Fault Refusal :=
  match s.cur with
  | some t => .next (runWord c s t body)
  | none => .fault .noThread

end Sys2Proof.Machine
end

