-- ==== Sys2Proof/Machine/Capability.lean ====
section
/-!
DEFINITION. Capabilities: the fields of a quad (06 R149), the decoding and encoding of bounds (R150 to R152),
spaces and windows (R156), the dereference check (R157), casts (R158), colours in registers (R161).
-/

namespace Sys2Proof

/-- The cursor, word 0 (R149). -/
def Cap.cursor (c : Cap) : Nat := c.bits.toNat % 2 ^ 64

/-- Bits [hi:lo] of word 1 (R149). -/
def Cap.field (c : Cap) (hi lo : Nat) : Nat := c.bits.toNat / 2 ^ (64 + lo) % 2 ^ (hi + 1 - lo)

/-- The exponent field E. -/
def Cap.exp (c : Cap) : Nat := c.field 63 58
/-- The base mantissa B. -/
def Cap.bm (c : Cap) : Nat := c.field 57 44
/-- The top mantissa T. -/
def Cap.tm (c : Cap) : Nat := c.field 43 30
/-- The permissions: LD, ST, LC, SC, AT, EX, WT, GL from bit 7 down. -/
def Cap.perm (c : Cap) : Nat := c.field 29 22
/-- The space. -/
def Cap.space (c : Cap) : Nat := c.field 21 19
/-- The swizzle. -/
def Cap.swizzle (c : Cap) : Nat := c.field 18 16
/-- The element size, log2. -/
def Cap.esize (c : Cap) : Nat := c.field 15 13
/-- The row pitch, log2 elements. -/
def Cap.pitch (c : Cap) : Nat := c.field 12 8
/-- The colour. -/
def Cap.colour (c : Cap) : Nat := c.field 7 4
/-- The object type; 0 is unsealed. -/
def Cap.otype (c : Cap) : Nat := c.field 3 0

/-- The capability with bits [hi:lo] of word 1 replaced. -/
def Cap.withField (c : Cap) (hi lo v : Nat) : Cap :=
  let n := hi + 1 - lo
  { c with bits := BitVec.ofNat 128 (c.bits.toNat - c.field hi lo * 2 ^ (64 + lo) + v % 2 ^ n * 2 ^ (64 + lo)) }

/-- The capability with another cursor. -/
def Cap.withCursor (c : Cap) (v : Nat) : Cap :=
  { c with bits := BitVec.ofNat 128 (c.bits.toNat - c.cursor + v % 2 ^ 64) }

/-- The capability with another tag. -/
def Cap.withTag (c : Cap) (b : Bool) : Cap := { c with tag := b }

/-- Base and top (R150). -/
def Cap.decode (c : Cap) : Nat × Nat :=
  let e := min c.exp 50
  let rg := (c.bm + 2 ^ 14 - 2 ^ 12) % 2 ^ 14
  let am := c.cursor / 2 ^ e % 2 ^ 14
  let hi : Int := ((c.cursor / 2 ^ (e + 14) : Nat) : Int)
  let below := fun (x : Nat) => if x < rg then (1 : Int) else 0
  let edge := fun (x : Nat) => (hi + below x - below am) * ((2 ^ (e + 14) : Nat) : Int) + ((x * 2 ^ e : Nat) : Int)
  let top := (edge c.tm % ((2 ^ 65 : Nat) : Int)).toNat
  ((edge c.bm % ((2 ^ 64 : Nat) : Int)).toNat, min top (2 ^ 64))

/-- A cursor value is representable (R152): by the rule's first sentence, decoding with the cursor replaced gives the same bounds. Where
the region of its second sentence reaches below address 0 the two disagree, and the decoding is taken (DESIGN CHOICE, log entry 83). -/
def Cap.representable (c : Cap) (v : Nat) : Bool := (c.withCursor v).decode == c.decode

/-- An encoding of bounds: E, B, T and the bounds they give (R151). -/
structure Bounds where
  e : Nat
  b : Nat
  t : Nat
  bl : Nat
  tl : Nat
  deriving DecidableEq, Repr

/-- set_bounds for base b and length l (R151); none when no exponent fits. -/
def setBounds (b l : Nat) : Option Bounds :=
  let t := b + l
  let up := fun (e : Nat) => (t + 2 ^ e - 1) / 2 ^ e
  ((List.range 51).find? (fun e => decide (up e - b / 2 ^ e ≤ 12287))).map (fun e =>
    { e := e, b := b / 2 ^ e % 2 ^ 14, t := up e % 2 ^ 14, bl := b / 2 ^ e * 2 ^ e, tl := up e * 2 ^ e })

/-- The capability with an encoding of bounds. -/
def Cap.withBounds (c : Cap) (x : Bounds) : Cap := ((c.withField 63 58 x.e).withField 57 44 x.b).withField 43 30 x.t

/-- The capability moved by δ: cursor, base and top (R158). -/
def Cap.moved (c : Cap) (delta : Int) : Cap :=
  let e := min c.exp 50
  let d := c.decode
  let enc := fun (x : Nat) => ((((x : Int) + delta) / ((2 ^ e : Nat) : Int)) % ((2 ^ 14 : Nat) : Int)).toNat
  let v := (((c.cursor : Int) + delta) % ((2 ^ 64 : Nat) : Int)).toNat
  ((c.withField 57 44 (enc d.1)).withField 43 30 (enc d.2)).withCursor v

/-- A cast's result (R158) names the bytes of its source: the moved quad decodes to the moved bounds. Where it does not, because its
cursor would lie outside the address space, no tag is set (R153, R154; DESIGN CHOICE, log entry 83). -/
def Cap.castTo (x : Cap) (delta : Int) (dst : Nat) : Cap × Bool :=
  let y := (x.moved delta).withField 21 19 dst
  let d := x.decode
  let e := y.decode
  (y, decide ((e.1 : Int) = (d.1 : Int) + delta ∧ (e.2 : Int) = (d.2 : Int) + delta ∧ (y.cursor : Int) = (x.cursor : Int) + delta))

/-- Permission masks (R155). -/
def permLD : Nat := 128
def permST : Nat := 64
def permLC : Nat := 32
def permSC : Nat := 16
def permAT : Nat := 8
def permEX : Nat := 4
def permWT : Nat := 2
def permGL : Nat := 1

/-- The capability holds every permission of a mask. -/
def Cap.holds (c : Cap) (mask : Nat) : Bool := c.perm &&& mask == mask

/-- The codes of the spaces (R156). -/
def spcGlobal : Nat := 0
def spcPeer : Nat := 1
def spcCluster : Nat := 2
def spcScratch : Nat := 3
def spcPrivate : Nat := 4
def spcCode : Nat := 5
def spcSeal : Nat := 6

namespace Machine

/-- The colour table's state of a colour for the tenant of a partition (R363): 0 free, 1 live, 2 revoking. -/
def State.colourState (s : State) (part k : Nat) : Nat :=
  match s.tenantOf part with
  | some t => ((t.colours[k]?).map (·.state)).getD 0
  | none => 0

/-- A colour's marking is under way in a partition's tenant (R365). -/
def State.marking (s : State) (part k : Nat) : Bool :=
  match s.tenantOf part with
  | some n => n.revs.any (fun v => v.colour == k && match v.phase with
    | .marking _ _ => true
    | .sweeping _ _ => false)
  | none => false

/-- A colour's state as a thread takes it: a train formed before the marking goes on without it (R161). -/
def State.colourFor (s : State) (t : Thread) (k : Nat) : Nat :=
  let c := s.colourState t.ctx.part k
  if c = 2 && s.marking t.ctx.part k && s.trains.any (fun r => inTrain t r && r.old.contains k) then 1 else c

/-- A capability's colour is revoking for a thread (R161). -/
def State.rev (s : State) (t : Thread) (c : Cap) : Bool := s.colourFor t c.colour == 2

/-- The sweep clears a thread's register tags of a colour; the 128 bits stay (R93, R366). -/
def Thread.sweepTags (t : Thread) (k : Nat) : Thread :=
  { t with tags := t.tags.mapIdx (fun q b => b && (t.quad (4 * q)).colour != k) }

/-- The colours being swept in a partition's tenant (R366). -/
def State.sweeping (s : State) (part : Nat) : List Nat :=
  match s.tenantOf part with
  | some n => n.revs.filterMap (fun v => match v.phase with
    | .marking _ _ => none
    | .sweeping _ _ => some v.colour)
  | none => []

/-- The physical CU of a thread as its partition numbers it (R12). -/
def State.lcu (s : State) (t : Thread) : Nat := (s.part t.ctx.part).logicalCu t.cu

/-- The region of a thread's team on a physical CU (R216). -/
def State.region (s : State) (t : Thread) (cu : Nat) : Region :=
  (((s.teamOf t.id.launch t.id.group).bind (fun m => m.regions.find? (·.cu == cu)))).getD { cu := cu, base := 0, size := 0 }

/-- A scratchpad or cluster-shared address through the context's CU remap table (R402); any other as it is. -/
def State.remapped (s : State) (t : Thread) (space a : Nat) : Nat :=
  let m := ((s.context t.ctx).map (·.remap)).getD []
  match space with
  | 3 =>
    let u := a / 2 ^ 32 % 2 ^ 24
    a - u * 2 ^ 32 + m.getD u u * 2 ^ 32
  | 2 =>
    let cl := a / 2 ^ 32 % 2 ^ 24
    let k := a / 2 ^ 20 % 2 ^ 12
    if k < 4 then
      let v := m.getD (4 * cl + k) (4 * cl + k)
      a - cl * 2 ^ 32 - k * 2 ^ 20 + v / 4 * 2 ^ 32 + v % 4 * 2 ^ 20
    else a
  | _ => a

/-- The part of a space's window around an address: its first byte and the byte beyond it; none outside
every window (R156, R217). -/
def State.window (s : State) (t : Thread) (space a : Nat) : Option (Nat × Nat) :=
  let p := s.part t.ctx.part
  let hi := a / 2 ^ 56
  match space with
  | 0 => if hi = 0 then some (0, 2 ^ 56) else none
  | 5 => if hi = 0 then some (0, 2 ^ 56) else none
  | 1 => if hi = 1 then some (2 ^ 56, 2 ^ 57) else none
  | 2 =>
    let cl := a / 2 ^ 32 % 2 ^ 24
    let k := a / 2 ^ 20 % 2 ^ 12
    if hi = 0xFC && k < 4 && cl < 3 * p.n then
      let r := s.region t (p.physicalCu (4 * cl + k))
      let lo := a - a % 2 ^ 20
      if a % 2 ^ 20 < r.size then some (lo, lo + r.size) else none
    else none
  | 3 =>
    let u := a / 2 ^ 32 % 2 ^ 24
    let lo := a - a % 2 ^ 32
    let r := s.region t t.cu
    if hi = 0xFD && u < 12 * p.n && a % 2 ^ 32 < r.size then some (lo, lo + r.size) else none
  | 4 => if hi = 0xFE then some (0xFE * 2 ^ 56, 0xFF * 2 ^ 56) else none
  | _ => none

/-- The slab size of a thread's context (R215). -/
def State.slabSize (s : State) (t : Thread) : Nat := ((s.context t.ctx).map (·.slabSize)).getD 0

/-- Step 6 of R157 for the bytes [ea, ea + n): the window, and a private address's limit (R215). -/
def State.inWindow (s : State) (t : Thread) (space ea n : Nat) : Bool :=
  match s.window t space ea with
  | none => false
  | some (_, hi) => ea + n ≤ hi && (space != 4 || ea % 2 ^ 56 + n ≤ s.slabSize t)

/-- A reach-table entry of another package is valid: its bit is set and some port may carry the flow (R378, R419). -/
def reachValid (e : BitVec 32) : Bool := e.getLsbD 31 && e.toNat / 2 ^ 19 % 2 ^ 12 != 0

/-- A package index is reachable for a partition: its own, or a valid reach-table entry (R378). -/
def State.reachable (s : State) (part pkg : Nat) : Bool :=
  let p := s.part part
  pkg == p.pkg.toNat || p.reach.any (fun r => r.1 == pkg && reachValid r.2)

/-- Step 7 of R157. -/
def State.local? (s : State) (t : Thread) (space ea : Nat) : Bool :=
  match space with
  | 1 => s.reachable t.ctx.part (ea / 2 ^ 46 % 2 ^ 10)
  | 2 => ea / 2 ^ 32 % 2 ^ 24 == s.lcu t / 4
  | 3 => ea / 2 ^ 32 % 2 ^ 24 == s.lcu t
  | _ => true

/-- Every package of the peer bytes [ea, ea + n) is reachable (R157 step 7 over a range). -/
def State.peersNear (s : State) (t : Thread) (space ea n : Nat) : Bool :=
  space != 1 || (spanOf (ea / 2 ^ 46) ((ea + n - 1) / 2 ^ 46)).all (fun k => s.reachable t.ctx.part (k % 2 ^ 10))

/-- What an access asks of its capability (R157): permissions, the effective address, the bytes, the
alignment; whether it lacks another authority of step 4 (GL of the quad stored, R221); whether its column lies
beyond the row, a failure of step 5 (R204). -/
structure Ask where
  need : Nat
  ea : Int
  n : Nat
  al : Nat
  lacks : Bool
  column : Bool
  deriving DecidableEq, Repr

/-- THE DEREFERENCE CHECK (R157). -/
def State.deref (s : State) (t : Thread) (x : Cap) (q : Ask) : Option FClass :=
  let d := x.decode
  let a := s.remapped t x.space q.ea.toNat
  if !x.tag then some .tag
  else if x.otype != 0 then some .sealed
  else if s.rev t x then some .revoked
  else if !x.holds q.need || q.lacks then some .perm
  else if q.ea < (d.1 : Int) || (d.2 : Int) < q.ea + (q.n : Int) || q.column then some .bounds
  else if !s.inWindow t x.space a q.n then some .window
  else if !s.local? t x.space a || !s.peersNear t x.space a q.n then some .spaceForeign
  else if a % q.al != 0 then some .align
  else none

/-- s.faddr of an access: the effective address modulo 2^64 (R203). -/
def faddr (ea : Int) : Word64 := BitVec.ofInt 64 ea

/-! ## Capability instructions (R162 to R173) -/

/-- Writes a capability result: a revoking colour loses the tag (R162, `put`). -/
def State.put (s : State) (t : Thread) (d : Nat) (y : Cap) (b : Bool) : Thread := t.setQuad d (y.withTag (b && !s.rev t y))

/-- `derive_check` of R162. -/
def deriveCheck (x : Cap) : Option FClass := if !x.tag then some .tag else if x.otype != 0 then some .sealed else none

/-- A capability word after its checks: a fault, or the quad it writes with its tag. -/
def capOp (op : Nat) (w : XWord) (s : State) (f : State → Thread → Cap → FClass ⊕ Cap × Bool) :
    Host.Outcome State Fault Refusal :=
  issue (.x op w) s fun s t =>
    match f s t (t.quad w.a.toNat) with
    | .inl c => .fault c 0
    | .inr (y, b) => .go s (s.put t w.d.toNat y b)

/-- cget (R163). -/
def execCget (w : XWord) (s : State) : Host.Outcome State Fault Refusal :=
  issue (.x 0x001 w) s fun s t =>
    let x := t.quad w.a.toNat
    let d := x.decode
    let lim := fun (v : Nat) => min v (2 ^ 64 - 1)
    let f := w.mod.toNat
    let v := match f with
      | 0 => x.cursor
      | 1 => d.1
      | 2 => lim d.2
      | 3 => lim (d.2 - d.1)
      | 4 => (x.cursor + 2 ^ 64 - d.1) % 2 ^ 64
      | 5 => x.perm
      | 6 => x.space
      | 7 => x.swizzle
      | 8 => x.esize
      | 9 => x.pitch
      | 10 => x.colour
      | 11 => x.otype
      | 12 => if x.tag then 1 else 0
      | _ => x.exp
    .go s (t.setVal (f < 5) w.d.toNat v)

/-- A new cursor (R164): a sealed source faults, an unrepresentable cursor clears the tag. -/
def cursorTo (x : Cap) (v : Nat) : FClass ⊕ Cap × Bool :=
  if x.tag && x.otype != 0 then .inl .sealed else .inr (x.withCursor v, x.tag && x.representable (v % 2 ^ 64))

/-- cinc (R164). -/
def execCinc (w : XWord) (s : State) : Host.Outcome State Fault Refusal :=
  capOp 0x002 w s fun _ t x =>
    let o := if w.bit 0 then wrapNat (sextNat (t.reg w.b.toNat).toNat 32) 64 else (t.pair w.b.toNat).toNat
    cursorTo x ((x.cursor + o) % 2 ^ 64)

/-- csetc (R164). -/
def execCsetc (w : XWord) (s : State) : Host.Outcome State Fault Refusal :=
  capOp 0x003 w s fun _ t x => cursorTo x (t.pair w.b.toNat).toNat

/-- cbnd (R165). -/
def execCbnd (w : XWord) (s : State) : Host.Outcome State Fault Refusal :=
  capOp 0x004 w s fun _ t x =>
    match deriveCheck x with
    | some c => .inl c
    | none =>
      let d := x.decode
      let v := x.cursor
      let l := (t.pair w.b.toNat).toNat
      if v < d.1 || d.2 < v + l then .inl .bounds
      else match setBounds v l with
        | none => .inl .bounds
        | some b =>
          if b.bl < d.1 || d.2 < b.tl then .inl .bounds
          else if w.bit 0 && (b.bl != v || b.tl != v + l) then .inl .bounds
          else .inr (x.withBounds b, true)

/-- cperm (R166). -/
def execCperm (w : XWord) (s : State) : Host.Outcome State Fault Refusal :=
  capOp 0x005 w s fun _ t x =>
    match deriveCheck x with
    | some c => .inl c
    | none => .inr (x.withField 29 22 (x.perm &&& (t.reg w.b.toNat).toNat % 256), true)

/-- cview (R166). -/
def execCview (w : XWord) (s : State) : Host.Outcome State Fault Refusal :=
  capOp 0x006 w s fun _ t x =>
    let v := (t.reg w.b.toNat).toNat % 2 ^ 11
    match deriveCheck x with
    | some c => .inl c
    | none => if 4 < v / 256 || 4 < v / 32 % 8 then .inl .illegalOperand else .inr (x.withField 18 8 v, true)

/-- What `cseal` and `cunseal` share (R167): the object type the authority in b names. -/
def sealType (x w : Cap) : FClass ⊕ Nat :=
  if !x.tag then .inl .tag
  else match deriveCheck w with
    | some c => .inl c
    | none =>
      if w.space != spcSeal then .inl .perm
      else
        let d := w.decode
        let k := w.cursor
        if k < d.1 || d.2 ≤ k || k = 0 || 15 < k then .inl .bounds else .inr k

/-- cseal (R167). -/
def execCseal (w : XWord) (s : State) : Host.Outcome State Fault Refusal :=
  capOp 0x007 w s fun _ t x =>
    match sealType x (t.quad w.b.toNat) with
    | .inl c => .inl c
    | .inr k => if x.otype != 0 then .inl .sealed else .inr (x.withField 3 0 k, true)

/-- cunseal (R167). -/
def execCunseal (w : XWord) (s : State) : Host.Outcome State Fault Refusal :=
  capOp 0x008 w s fun _ t x =>
    match sealType x (t.quad w.b.toNat) with
    | .inl c => .inl c
    | .inr k => if x.otype != k then .inl .sealed else .inr (x.withField 3 0 0, true)

/-- The checks of `ctag` on x under the authority u, which is tagged and unsealed (R168). -/
def ctagFault (x u : Cap) : Option FClass :=
  let d := x.decode
  let k := u.decode
  if 50 < x.exp || 4 < x.swizzle || 4 < x.esize then some .bounds
  else if d.2 < d.1 || d.1 < k.1 || k.2 < d.2 then some .bounds
  else if x.perm &&& u.perm != x.perm || x.space != u.space || x.colour != u.colour || x.otype != 0 then some .perm
  else none

/-- ctag (R168). -/
def execCtag (w : XWord) (s : State) : Host.Outcome State Fault Refusal :=
  capOp 0x009 w s fun _ t x =>
    let u := t.quad w.b.toNat
    match deriveCheck u with
    | some c => .inl c
    | none => match ctagFault x u with
      | some c => .inl c
      | none => .inr (x, true)

/-- cspc (R169). -/
def execCspc (w : XWord) (s : State) : Host.Outcome State Fault Refusal :=
  issue (.x 0x00A w) s fun s t =>
    let x := t.quad w.a.toNat
    let win := ((List.range 5).find? (fun k => (s.window t k (s.remapped t k x.cursor)).isSome)).getD 7
    let near := x.space < 6 && s.local? t x.space (s.remapped t x.space x.cursor)
    .go s (t.setReg w.d.toNat (BitVec.ofNat 32
      (x.space + 8 * win + (if near then 64 else 0) + if x.tag then 128 else 0)))

/-- A permitted cast's δ, or the fault it takes (R158). Case 3 takes the CU that the base names through the context's remap table, as
step 7 of R157 does (DESIGN CHOICE, log entry 75). -/
def State.castDelta (s : State) (t : Thread) (x : Cap) (dst : Nat) : FClass ⊕ Int :=
  let p := s.part t.ctx.part
  let d := x.decode
  let own : Int := ((2 ^ 56 + p.pkg.toNat * 2 ^ 46 : Nat) : Int)
  let scr := fun (u : Nat) => ((0xFC * 2 ^ 56 + u / 4 * 2 ^ 32 + u % 4 * 2 ^ 20 : Nat) : Int) - ((0xFD * 2 ^ 56 + u * 2 ^ 32 : Nat) : Int)
  if dst = x.space then .inr 0
  else match x.space, dst with
    | 0, 1 => if 2 ^ 46 < d.2 then .inl .bounds else .inr own
    | 1, 0 => if d.1 / 2 ^ 46 % 2 ^ 10 = p.pkg.toNat then .inr (-own) else .inl .spaceForeign
    | 3, 2 => if 2 ^ 20 < d.2 - (d.1 - d.1 % 2 ^ 32) then .inl .bounds else .inr (scr (d.1 / 2 ^ 32 % 2 ^ 24))
    | 2, 3 =>
      let u := d.1 / 2 ^ 32 % 2 ^ 24 * 4 + d.1 / 2 ^ 20 % 2 ^ 12
      if 2 ^ 24 ≤ u || 4 ≤ d.1 / 2 ^ 20 % 2 ^ 12 || !s.local? t 3 (s.remapped t 3 (0xFD * 2 ^ 56 + u * 2 ^ 32)) then .inl .spaceForeign
      else if 2 ^ 20 < d.2 - (d.1 - d.1 % 2 ^ 20) then .inl .bounds
      else .inr (-(scr u))
    | _, _ => .inl .perm

/-- ccast (R170). A cast to the capability's own space changes nothing (R158). -/
def execCcast (w : XWord) (s : State) : Host.Outcome State Fault Refusal :=
  capOp 0x00B w s fun s t x =>
    match deriveCheck x with
    | some c => .inl c
    | none => match s.castDelta t x w.mod.toNat with
      | .inl c => .inl c
      | .inr delta => .inr (if w.mod.toNat = x.space then (x, true) else x.castTo delta w.mod.toNat)

/-- ceq (R171). -/
def execCeq (w : XWord) (s : State) : Host.Outcome State Fault Refusal :=
  issue (.x 0x00C w) s fun s t =>
    let x := t.quad w.a.toNat
    let y := t.quad w.b.toNat
    .go s (t.setPred w.d.toNat (if w.bit 0 then x.cursor == y.cursor else x == y))

/-- cdif (R171). -/
def execCdif (w : XWord) (s : State) : Host.Outcome State Fault Refusal :=
  issue (.x 0x00D w) s fun s t =>
    let x := t.quad w.a.toNat
    let df := (x.cursor + 2 ^ 64 - (t.quad w.b.toNat).cursor) % 2 ^ 64
    let v := if w.bit 0 then wrapNat (sextNat df 64 / ((2 ^ x.esize : Nat) : Int)) 64 else df
    .go s (t.setPair w.d.toNat (BitVec.ofNat 64 v))

/-- cclr (R172). -/
def execCclr (w : XWord) (s : State) : Host.Outcome State Fault Refusal :=
  issue (.x 0x00E w) s fun s t =>
    .go s ((List.range (w.mod.toNat + 1)).foldl (fun t i => t.setQuad (w.d.toNat + 4 * i) Cap.null) t)

/-- cmov (R172). -/
def execCmov (w : XWord) (s : State) : Host.Outcome State Fault Refusal :=
  capOp 0x00F w s fun _ _ x => .inr (x, x.tag)

/-- crep (R173). -/
def execCrep (w : XWord) (s : State) : Host.Outcome State Fault Refusal :=
  issue (.x 0x010 w) s fun s t =>
    let l := (t.pair w.a.toNat).toNat
    let v := match (List.range 51).find? (fun e => decide (ceilDiv l (2 ^ e) ≤ 12287)) with
      | some e => if w.bit 0 then 2 ^ 64 - 2 ^ e else ceilDiv l (2 ^ e) * 2 ^ e
      | none => if w.bit 0 then 0 else 2 ^ 64 - 1
    .go s (t.setPair w.d.toNat (BitVec.ofNat 64 v))

end Machine
end Sys2Proof
end

