-- ==== Sys2Proof/Machine/Traffic.lean ====
section
/-!
DEFINITION. What reaches HBM: the caches and their way quotas (09 R213; 14 R356), the request grain (08 R210; 11 R266), the charge in
channel-time units under floors and ceilings (11 R267; 14 R355), row activations (11 R276).
-/

namespace Sys2Proof.Machine

/-! ## Caches (R213, R356) -/

/-- The line of a byte. -/
def lineOf (pa : Nat) : Nat := pa / 128

/-- Lines of a CU's L1: the data SRAM not given to scratchpad (R213). -/
def State.l1Lines (s : State) (cu : Nat) : Nat :=
  (786432 - s.teams.foldl (fun n m => (m.regions.filter (·.cu == cu)).foldl (fun n r => n + r.size) n) 0) / 128

/-- The granules of a line that the bytes [lo, hi) of it touch. -/
def grainsOf (lo hi : Nat) : BitVec 8 :=
  BitVec.ofNat 8 (((List.range 8).filter (fun i => lo < i * 16 + 16 && i * 16 < hi)).foldl (fun n i => n + 2 ^ i) 0)

/-- The smallest naturally aligned block of 16, 32, 64 or 128 bytes that covers the bytes [lo, hi) of a line (R210). -/
def grainOf (lo hi : Nat) : Nat :=
  if lo / 16 = (hi - 1) / 16 then 16 else if lo / 32 = (hi - 1) / 32 then 32 else if lo / 64 = (hi - 1) / 64 then 64 else 128

/-- The first byte of that block. -/
def grainBase (lo hi : Nat) : Nat := lo / grainOf lo hi * grainOf lo hi

/-- The granules that a request for the bytes [lo, hi) of a line moves. -/
def requestGrains (lo hi : Nat) : BitVec 8 := grainsOf (grainBase lo hi) (grainBase lo hi + grainOf lo hi)

/-- A cache holds the bytes [lo, hi) of a line. -/
def holdsBytes (l : List CacheLine) (line lo hi : Nat) : Bool :=
  l.any (fun c => c.line == line && grainsOf lo hi &&& c.grains == grainsOf lo hi)

/-- A CU's L1 takes granules of a line; where it is full its last line gives way: the oldest, or one that a word with the evict-first hint
has read (R202). -/
def State.fillL1 (s : State) (cu line : Nat) (grains : BitVec 8) (evictFirst : Bool) : State :=
  let cap := s.l1Lines cu
  s.modCu cu (fun c =>
    let old := c.l1.find? (·.line == line)
    let rest := c.l1.filter (·.line != line)
    let x : CacheLine := { line := line, grains := grains ||| ((old.map (·.grains)).getD 0), way := 0 }
    { c with l1 := if cap = 0 then [] else if evictFirst then rest.take (cap - 1) ++ [x]
        else if old.isSome then (modWhere c.l1 (·.line == line) (fun _ => x)).take cap else x :: rest.take (cap - 1) })

/-- The L2 of a line's home holds the bytes [lo, hi) of it. -/
def State.inL2 (s : State) (line lo hi : Nat) : Bool := holdsBytes (s.slice (sliceOfPa (line * 128))).l2 line lo hi

/-- Lines of a way of an L2: 16 MiB in 32 ways. -/
def linesPerWay : Nat := 4096

/-- Lines in a way. -/
def wayFill (l : List CacheLine) (w : Nat) : Nat := (l.filter (·.way == w)).length

/-- The emptiest of some ways; of equals, the lowest. -/
def emptiestWay (l : List CacheLine) : List Nat → Option Nat
  | [] => none
  | w :: ws => match emptiestWay l ws with
    | none => some w
    | some v => if wayFill l w ≤ wayFill l v then some w else some v

/-- The last line listed of a way goes. -/
def dropOldest (l : List CacheLine) (w : Nat) : List CacheLine :=
  match (l.reverse.find? (·.way == w)) with
  | some x => l.erase x
  | none => l

/-- A fill for a partition allocates into a way of its mask alone, and evicts only from there; an empty mask leaves it uncached (R356).
Which way and which line of it: the emptiest way, its oldest line (DESIGN CHOICE, log entry 70). -/
def Slice.fillL2 (c : Slice) (part line : Nat) (grains : BitVec 8) : Slice :=
  let mask := c.ways.getD part 0
  if c.l2.any (·.line == line) then { c with l2 := modWhere c.l2 (·.line == line) (fun x => { x with grains := x.grains ||| grains }) }
  else match emptiestWay c.l2 ((List.range 32).filter (fun i => mask.getLsbD i)) with
    | none => c
    | some w => { c with l2 := { line := line, grains := grains, way := w }
                    :: (if linesPerWay ≤ wayFill c.l2 w then dropOldest c.l2 w else c.l2) }

/-- The home L2 of a line takes granules of it for a partition. -/
def State.fillL2 (s : State) (part line : Nat) (grains : BitVec 8) : State :=
  s.modSlice (sliceOfPa (line * 128)) (·.fillL2 part line grains)

/-! ## Request grain and charge (R210, R266, R267) -/

/-- Units of a request by its size (R267). -/
def unitsOf (grain : Nat) : Nat := if grain ≤ 32 then 1 else if grain ≤ 64 then 2 else 4

/-- The lines that [pa, pa + n) touches, each with the bytes touched in it. -/
def linesOf (pa n : Nat) : List (Nat × Nat × Nat) :=
  (spanOf (lineOf pa) (lineOf (pa + n - 1))).map (fun l => (l, max pa (l * 128) - l * 128, min (pa + n) (l * 128 + 128) - l * 128))

/-- The channel of a line: one of the stack's 32. -/
def chanOf (line : Nat) : Nat := Config.chanOf (line % 2 ^ 30) % 32

/-- The bank and the row of a line. -/
def bankRow (line : Nat) : Nat × Nat := (Config.bankOf (line % 2 ^ 30), Config.rowOf (line % 2 ^ 30))

/-- A request to a line activates a row, unless it is open in its bank. -/
def Slice.activates (c : Slice) (line : Nat) : Bool := kvGet c.rows (bankRow line).1 != some (bankRow line).2

/-- Units served to a partition on a channel in a window. -/
def Slice.useOf (c : Slice) (chan part window : Nat) : Nat :=
  (c.uses.filter (fun u => u.chan == chan && u.part == part && u.window == window)).foldl (fun n u => n + u.units) 0

/-- A partition's floor and ceiling on a channel; 0xFFFF is no ceiling (R355). -/
def Slice.floorOf (c : Slice) (chan part : Nat) : Nat := ((c.arb.find? (fun a => a.chan == chan && a.part == part)).map (·.floor)).getD 0
def Slice.ceilOf (c : Slice) (chan part : Nat) : Nat :=
  match (c.arb.find? (fun a => a.chan == chan && a.part == part)).map (·.ceil) with
  | some n => if n = 0xFFFF then 12000 else n
  | none => 12000

/-- Units served on a channel in a window. -/
def Slice.served (c : Slice) (chan window : Nat) : Nat :=
  (c.uses.filter (fun u => u.chan == chan && u.window == window)).foldl (fun n u => n + u.units) 0

/-- Another partition that waits comes first: it is below its floor, or its turn of the round is earlier (R355). -/
def Slice.yields (c : Slice) (chan part window : Nat) : Bool :=
  let last := (kvGet c.turns chan).getD 15
  let place := fun (p : Nat) => (p + 15 - last) % 16
  c.waits.any (fun u => u.chan == chan && u.window == window && u.part != part
    && (c.useOf chan u.part window < c.floorOf chan u.part || place u.part < place part))

/-- Few requests have come, none waits, and there is no ceiling: at most 16 units each, they fit any channel. -/
def Slice.calm (c : Slice) : Bool := c.arb.isEmpty && c.waits.isEmpty && c.uses.length < 700

/-- A request is served in a window: within the channel's 12,000 units and the partition's ceiling; above its floor only when no other
that waits comes first (R355). -/
def Slice.serves (c : Slice) (chan part window units : Nat) : Bool :=
  let u := c.useOf chan part window + units
  c.calm || (u ≤ c.ceilOf chan part && c.served chan window + units ≤ 12000 && (u ≤ c.floorOf chan part || !c.yields chan part window))

/-- Windows of 4 µs are aligned across the stack (R355). -/
def State.chanWindow (s : State) : Nat := s.time / 4000

/-- Units are served to a partition in a window, counted, and its turn of the round passes (R267, R355, R391). Windows that are over
are forgotten. -/
def Slice.charge (c : Slice) (now chan part window units : Nat) : Slice :=
  let u : ChanUse := { chan := chan, part := part, window := window, units := units }
  let mine := fun (v : ChanUse) => v.chan == chan && v.part == part && v.window == window
  { c with
    uses := u :: c.uses.filter (fun v => now ≤ v.window)
    waits := c.waits.filter (fun v => now ≤ v.window && !mine v)
    turns := if c.useOf chan part window + units ≤ c.floorOf chan part then c.turns else kvPut c.turns chan part
    events := { c.events with units := modAt c.events.units part (· + BitVec.ofNat 64 units) } }

/-- A row of a group is activated: the group remembers when that first happened since its last refresh, and once every row of it has
been, its timestamp is raised to the oldest (R276). -/
def RowGroup.activate (g : RowGroup) (now row : Nat) : RowGroup :=
  let acts := if (kvGet g.acts row).isSome then g.acts else kvPut g.acts row now
  { g with
    acts := acts
    stamp := if Config.groupRows g.row ≤ acts.length then max g.stamp (acts.foldl (fun n a => min n a.2) now) else g.stamp }

/-- A row group of a stack. -/
def Slice.rowGroup (c : Slice) (id : Nat) : RowGroup := (c.rowGroups.find? (·.row == id)).getD { row := id, stamp := 0, acts := [] }

/-- Writes it. -/
def Slice.setRowGroup (c : Slice) (g : RowGroup) : Slice := { c with rowGroups := g :: c.rowGroups.filter (·.row != g.row) }

/-- A request of so many units to a line is served to a partition: an activation it causes costs four more (R267), and the row is open
then (R276). -/
def State.serve (s : State) (part line units window : Nat) : State :=
  let now := s.time
  let w := s.chanWindow
  s.modSlice (sliceOfPa (line * 128)) (fun c =>
    let a := c.activates line
    let row := (bankRow line).2
    { c.charge w (chanOf line) part window (units + if a then 4 else 0) with
      rows := if a then kvPut c.rows (bankRow line).1 row else c.rows
      rowGroups := if a then (c.setRowGroup ((c.rowGroup (Config.groupOf row)).activate now row)).rowGroups else c.rowGroups })

/-- Whether a request can be served now. -/
def State.canServe (s : State) (part line units : Nat) : Bool :=
  let c := s.slice (sliceOfPa (line * 128))
  c.serves (chanOf line) part s.chanWindow (units + if c.activates line then 4 else 0)

/-- A request that was turned away waits at the channel, once. -/
def State.turnedAway (s : State) (part line : Nat) : State :=
  let w : ChanUse := { chan := chanOf line, part := part, window := s.chanWindow, units := 0 }
  if (s.slice (sliceOfPa (line * 128))).waits.contains w then s
  else s.modSlice (sliceOfPa (line * 128)) (fun c => { c with waits := w :: c.waits.filter (fun v => s.chanWindow ≤ v.window) })

/-- A read of some bytes of a line for a partition: from L2, or from HBM at its grain, which fills L2. It may have to wait. -/
def State.readLine (s : State) (part line lo hi : Nat) : Bool × State :=
  if s.inL2 line lo hi then (true, s)
  else
    let u := unitsOf (grainOf lo hi)
    if s.canServe part line u then (true, (s.serve part line u s.chanWindow).fillL2 part line (requestGrains lo hi))
    else (false, s.turnedAway part line)

/-- Reads of every line of [pa, pa + n): one may have to wait. -/
def State.readLines (s : State) (part pa n : Nat) : Bool × State :=
  (linesOf pa n).foldl (fun (r : Bool × State) x => if r.1 then r.2.readLine part x.1 x.2.1 x.2.2 else r) (true, s)

/-- The units of a write of some bytes of a line: where a granule is written in part, it is merged, with a read (R266, R267). -/
def writeUnits (lo hi : Nat) (merge : Bool) : Nat := let u := unitsOf (grainOf lo hi); if merge then 2 * u else u

/-- Bytes [lo, hi) of a line cover some granule in part. -/
def partGranule (lo hi : Nat) : Bool := lo % 16 != 0 || hi % 16 != 0

/-- The first window from one on, of so many, that serves a request which is not to wait. -/
def State.windowFor (s : State) (part line units : Nat) : Nat → Nat → Nat
  | 0, w => w
  | n + 1, w =>
    if (s.slice (sliceOfPa (line * 128))).serves (chanOf line) part w units then w else s.windowFor part line units n (w + 1)

/-- Units are charged to a partition in the window that serves them. -/
def State.chargeUnits (s : State) (part line units : Nat) : State :=
  s.serve part line units (s.windowFor part line (units + 4) 64 s.chanWindow)

/-- Reads that are not held back: walks, fetches, the command processor and firmware. They are charged in the window that serves them
(DESIGN CHOICE, log entry 70). -/
def State.chargeRead (s : State) (part pa n : Nat) : State :=
  (linesOf pa n).foldl (fun s x =>
    if s.inL2 x.1 x.2.1 x.2.2 then s
    else (s.chargeUnits part x.1 (unitsOf (grainOf x.2.1 x.2.2))).fillL2 part x.1 (requestGrains x.2.1 x.2.2)) s

/-- A write of the bytes [lo, hi) of a line is charged whole to its issuer (R355); its granules come into the home L2. -/
def State.chargeLine (s : State) (part line lo hi : Nat) (merge : Bool) : State :=
  (s.chargeUnits part line (writeUnits lo hi merge)).fillL2 part line (grainsOf lo hi)

/-- The same for each line that [pa, pa + n) touches. -/
def State.chargeWrite (s : State) (part pa n : Nat) : State :=
  (linesOf pa n).foldl (fun s x => s.chargeLine part x.1 x.2.1 x.2.2 (partGranule x.2.1 x.2.2)) s

/-- Whether the channel serves a write of [pa, pa + n) now; where not, the request waits there. -/
def State.writeServed (s : State) (part pa n : Nat) : Bool :=
  (linesOf pa n).all (fun x => s.canServe part x.1 (writeUnits x.2.1 x.2.2 (partGranule x.2.1 x.2.2)))

/-- An atomic reads its location. One that executes at its home occupies the bank for 12 units when it reaches HBM (R267), with its write;
one that executes elsewhere fetches the bytes as a read does (R230). It may have to wait. -/
def State.atomicRead (s : State) (part pa n : Nat) (home : Bool) : Bool × State :=
  let line := lineOf pa
  let lo := pa % 128
  if s.inL2 line lo (lo + n) then (true, s)
  else
    let u := if home then 12 else unitsOf (grainOf lo (lo + n))
    if s.canServe part line u then (true, (s.serve part line u s.chanWindow).fillL2 part line (requestGrains lo (lo + n)))
    else (false, s.turnedAway part line)

/-- The same of an atomic that does not wait: another package's, and the serial phase's. -/
def State.chargeAtomic (s : State) (part pa : Nat) : State :=
  if s.inL2 (lineOf pa) (pa % 128) (pa % 128 + 1) then s
  else (s.chargeUnits part (lineOf pa) 12).fillL2 part (lineOf pa) (requestGrains (pa % 128) (pa % 128 + 1))

/-! ## Coalescing (R210) -/

/-- A thread's read of [pa, pa + n) within its beat: the request of its line grows to cover it; what its L1 or L2 holds, or the beat has
asked for, is not asked for again. It may have to wait. -/
def State.beatRead (s : State) (t : Thread) (pa n : Nat) (evictFirst : Bool) : Bool × State :=
  let line := lineOf pa
  let lo := pa % 128
  let hi := lo + n
  let part := t.ctx.part
  let near := holdsBytes (s.cu t.cu).l1 line lo hi
  let count := fun (s : State) (misses blocks : Nat) => (s.perf t.ctx t.cu 0x06 misses).perf t.ctx t.cu 0x07 blocks
  match (s.trains.find? (inTrain t)).filter (fun _ => s.gathers t) with
  | none =>
    if near then (true, s)
    else
      let (ok, s) := s.readLine part line lo hi
      (ok, if ok then count (s.fillL1 t.cu line (requestGrains lo hi) evictFirst) 1 ((grainOf lo hi + 31) / 32) else s)
  | some r =>
    let beat := r.beatOf t.id.num
    let put := fun (s : State) (q : BeatReq) => { s with trains := modWhere s.trains (inTrain t) (fun r => { r with
      reqs := q :: r.reqs.filter (fun x => !(x.beat == beat && x.line == line)) }) }
    let old := r.reqs.find? (fun x => x.beat == beat && x.line == line)
    let q : BeatReq := { beat := beat, line := line, lo := min ((old.map (·.lo)).getD lo) lo, hi := max ((old.map (·.hi)).getD hi) hi
                         missed := (old.map (·.missed)).getD false, far := (old.map (·.far)).getD false }
    let grains := requestGrains q.lo q.hi
    let before := fun (asked : BeatReq → Bool) (units : Nat → Nat) => ((old.filter asked).map (fun x => units (grainOf x.lo x.hi))).getD 0
    let blocks := fun (g : Nat) => (g + 31) / 32
    let take := fun (s : State) => count (s.fillL1 t.cu line grains evictFirst) (if q.missed then 0 else 1)
      (blocks (grainOf q.lo q.hi) - before (·.missed) blocks)
    if near then (true, put s q)
    else if s.inL2 line lo hi then (true, put (take s) { q with missed := true })
    else
      let more := unitsOf (grainOf q.lo q.hi) - before (·.far) unitsOf
      if more = 0 then (true, put (take (s.fillL2 part line grains)) { q with missed := true })
      else if s.canServe part line more then
        (true, put (take ((s.serve part line more s.chanWindow).fillL2 part line grains)) { q with missed := true, far := true })
      else (false, s.turnedAway part line)

end Sys2Proof.Machine
end

