-- ==== Sys2Proof/Machine/Memory.lean ====
section
/-!
DEFINITION. Physical memory: frames and their scrubbing (14 R344, 11 R278), writes with their tags, poison
and pre-images (09 R213, 11 R272, R273), reads and their error classes (11 R271), the coherence order and who
sees a write (10 R240 to R242), monitors woken by writes (09 R236), data SRAM.
-/

namespace Sys2Proof.Machine

/-! ## Frames -/

/-- A frame never granted: free, its scrub pending (R344, R429). -/
def Frame.fresh : Frame := { state := 0, scrub := true, lent := false, part := 0, seq := 0 }

/-- A frame's entry in the ownership table (R344). -/
def State.frame (s : State) (f : Nat) : Frame :=
  match kvGet s.frames f with
  | some e => e
  | none => ((s.runs.find? (fun r => r.first ≤ f && f < r.first + r.count)).map (·.entry)).getD Frame.fresh

/-- Writes a frame's entry. -/
def State.setFrame (s : State) (f : Nat) (e : Frame) : State := { s with frames := kvPut s.frames f e }

/-- The scrubber clears a frame: zeros, no tags, no poison (R278). -/
def State.scrubFrame (s : State) (f : Nat) : State :=
  let lo := f * 65536
  let e := s.frame f
  let s := { s with
    mem := memZero s.mem lo 65536
    tags := setClear s.tags (f * 4096) (f * 4096 + 4096)
    poison := setClear s.poison (f * 4096) (f * 4096 + 4096)
    ecc := s.ecc.filter (fun c => c.1 < f * 4096 || f * 4096 + 4096 ≤ c.1) }
  (s.setFrame f { e with scrub := false }).modSlice (f / 2 ^ 21)
    (fun c => { c with events := { c.events with scrubbed := c.events.scrubbed + 4096 } })

/-- An access to a frame whose scrub is pending waits while the scrubber clears it out of turn (R278, R340
step 5). -/
def State.settleFrame (s : State) (pa : Nat) : State :=
  if (s.frame (pa / 65536)).scrub then s.scrubFrame (pa / 65536) else s

/-- The slice of a physical address is held in reset: an access to its memory waits until that ends (R354). -/
def State.underReset (s : State) (pa : Nat) : Bool := (s.slice (sliceOfPa pa)).held

/-! ## Watchers of a granule (R236) -/

/-- A sleeping watcher resumes at its next word with a result code (R235). -/
def State.wakeThread (s : State) (id : TId) (code : Word) : State :=
  match s.thread id with
  | some t => match t.run with
    | .parked (.monitor d _) _ => s.resumeNext (t.setReg d code)
    | _ => s
  | none => s

/-- Takes watchers out of the monitor tables; an entry without a watcher is free. -/
def State.unwatch (s : State) (out : Granule → TId → Bool) : State :=
  { s with monitors := s.monitors.map (fun es =>
      (es.map (fun e => { e with watchers := e.watchers.filter (fun id => !out e.granule id) })).filter (!·.watchers.isEmpty)) }

/-- The watchers of a granule, cluster by cluster, in arming order. -/
def State.watchersOf (s : State) (g : Granule) : List TId :=
  s.monitors.flatMap (fun es => (es.filter (·.granule = g)).flatMap (·.watchers))

/-- A write wakes the watchers of its granule that a test accepts (R236). -/
def State.wakeOn (s : State) (g : Granule) (pick : TId → Bool) : State :=
  let ids := (s.watchersOf g).filter pick
  if ids.isEmpty then s
  else ids.foldl (fun s id => s.wakeThread id 0) (s.unwatch (fun h id => h = g && ids.contains id))

/-! ## Writing HBM -/

/-- The protected launch that logs writes to a frame on a slice (R273). -/
def State.protector (s : State) (pa : Nat) : Option Launch :=
  let f := s.frame (pa / 65536)
  if f.lent || !(s.part f.part).map.contains (sliceOfPa pa) then none
  else s.launches.find? (fun l => l.flags.getLsbD 2 && l.phase == .running && l.ctx.part == f.part)

/-- The four granule tags of a 64-byte block. -/
def State.blockTags (s : State) (b : Nat) : List Nat := s.tags.filter (fun g => 4 * b ≤ g && g < 4 * b + 4)

/-- A granule's latent error. -/
def State.eccAt (s : State) (g : Nat) : Option Ecc := kvGet s.ecc g

/-- Forgets a granule's latent error. -/
def State.eccClear (s : State) (g : Nat) : State := { s with ecc := s.ecc.filter (·.1 != g) }

/-- A frame is queued for retirement: a granted one is quarantined until then; a free one is not granted any more (R271, R279, R344). -/
def State.queueFrame (s : State) (f : Nat) : State :=
  let e := s.frame f
  let s := if e.state = 1 then s.setFrame f { e with state := 4 } else s
  if e.state = 3 then s
  else s.modSlice (f / 2 ^ 21) (fun c => { c with retire := if c.retire.contains f then c.retire else c.retire ++ [f] })

/-- An uncorrectable error found: the granule is poisoned, its frame queued for retirement, the counter
incremented (R271, R391). -/
def State.poisonNow (s : State) (g : Nat) : State :=
  ((({ s with poison := setAdd s.poison g }).eccClear g).queueFrame (g / 4096)).modSlice (sliceOfPa (g * 16)) (fun c => { c with
    events := { c.events with uncorrectable := c.events.uncorrectable + 1 } })

/-- A correctable error is corrected and counted (R271). -/
def State.correctNow (s : State) (g : Nat) : State :=
  (s.eccClear g).modSlice (sliceOfPa (g * 16)) (fun c => { c with events := { c.events with corrected := c.events.corrected + 1 } })

/-- The summary bit of the 4 KiB range of a granule: some granule of it is tagged (R218). -/
def State.summaryBit (s : State) (g : Nat) : Bool := s.tags.any (fun k => k / 256 == g / 256)

/-- The controller classifies a granule's read: whether the reader receives an error, and what it leaves. A tagged read looks the tag
up only where the summary bit is set (R218). A poisoned granule is not counted again, by R271's words (DEDUCED, log entry 98). -/
def State.readGranule (s : State) (tagged : Bool) (g : Nat) : Bool × State :=
  if setHas s.poison g then (true, s.queueFrame (g / 4096))
  else match s.eccAt g with
    | some .uncorrectable => (true, s.poisonNow g)
    | some .corrected => (false, s.correctNow g)
    | some .tagBad => if tagged && s.summaryBit g then (true, s.poisonNow g) else (false, s)
    | none => (false, s)

/-- Logs a block's pre-image before the first write of a protected launch (R273), whose read is classified as any (R271); a full log ends
the launch's protection (R274). -/
def State.preImage (s : State) (b : Nat) : State :=
  match s.protector (b * 64) with
  | none => s
  | some l =>
    let n := sliceOfPa (b * 64)
    let c := s.slice n
    if l.overflowed || c.log.any (·.block == b) then s
    else if c.logCap ≤ c.log.length then
      (s.modLaunch l.uid (fun l => { l with overflowed := true, canRoll := false })).modSlice n
        (fun c => { c with events := { c.events with logOverflow := c.events.logOverflow + 1 } })
    else
      let s := (spanOf (4 * b) (4 * b + 3)).foldl (fun s g => (s.readGranule true g).2) s
      s.modSlice n (fun c => { c with
        log := { block := b, bytes := memSlice s.mem (b * 64) 64, tags := s.blockTags b
                 poison := s.poison.filter (fun g => 4 * b ≤ g && g < 4 * b + 4) } :: c.log })

/-- Bytes that a write stores at an address, with the tag they leave. -/
abbrev Piece := Nat × List Byte × Option Bool

/-- Some pieces together cover a whole granule (R272). -/
def covers (ws : List Piece) (g : Nat) : Bool :=
  ws.any (fun w => w.1 ≤ g * 16 && g * 16 + 16 ≤ w.1 + w.2.1.length)
    || (List.range 16).all (fun i => ws.any (fun w => w.1 ≤ g * 16 + i && g * 16 + i < w.1 + w.2.1.length))

/-- The controller's treatment of a granule that a request writes: fresh when covered whole, poisoned when the merge's read is
uncorrectable (R272). -/
def State.mergeGranule (s : State) (whole : Bool) (g : Nat) : State :=
  if whole then
    let s := { s with poison := setDel s.poison g }
    match s.eccAt g with
    | some .tagBad => s
    | some _ => s.eccClear g
    | none => s
  else match s.eccAt g with
    | some .uncorrectable => s.poisonNow g
    | some .corrected => s.correctNow g
    | some .tagBad => s
    | none => s

/-- A write request, of one piece or of several that a beat forms together (R224), reaches memory: pre-images, bytes in order, tags (set
only by a tagged write of a whole granule), check bits (R213, R222, R223, R272, R273). -/
def State.pokeAll (s : State) (ws : List Piece) : State :=
  let ws := ws.filter (fun w => !w.2.1.isEmpty)
  let s := (ws.flatMap (fun w => spanOf (w.1 / 64) ((w.1 + w.2.1.length - 1) / 64))).eraseDups.foldl State.preImage s
  let gs := (ws.flatMap (fun w => granulesOf w.1 w.2.1.length)).eraseDups
  let s := gs.foldl (fun s g => s.mergeGranule (covers ws g) g) s
  ws.foldl (fun (s : State) w => { s with
    mem := memWriteN s.mem w.1 w.2.1
    tags := (granulesOf w.1 w.2.1.length).foldl (fun l g => setPut l g (w.2.2 == some true)) s.tags }) s

/-- A write of one piece. -/
def State.poke (s : State) (pa : Nat) (bytes : List Byte) (tag : Option Bool) : State := s.pokeAll [(pa, bytes, tag)]

/-- An atomic or `wadr` has met granules of [pa, pa + n) that were poisoned before: the counter goes up all the same (R229, R391). -/
def State.countPoisoned (s : State) (pa : Nat) : State :=
  s.modSlice (sliceOfPa pa) (fun c => { c with events := { c.events with uncorrectable := c.events.uncorrectable + 1 } })

/-- Whether some granule of [pa, pa + n) is poisoned. -/
def State.anyPoison (s : State) (pa n : Nat) : Bool := (granulesOf pa n).any (setHas s.poison)

/-! ## Data SRAM (R213, R216) -/

/-- Bytes of a CU's data SRAM. -/
def State.sramRead (s : State) (cu off n : Nat) : List Byte := memReadN (s.cu cu).sram off n

/-- The tag of a granule of data SRAM. -/
def State.sramTag (s : State) (cu g : Nat) : Bool := setHas (s.cu cu).sramTags g

/-- A write to data SRAM: bytes, tags, watchers. -/
def State.sramWrite (s : State) (cu off : Nat) (bytes : List Byte) (tag : Option Bool) : State :=
  let gs := granulesOf off bytes.length
  let s := s.modCu cu (fun c => { c with
    sram := memWriteN c.sram off bytes
    sramTags := gs.foldl (fun l g => setPut l g (tag == some true)) c.sramTags })
  gs.foldl (fun s g => s.wakeOn (.sram cu g) (fun _ => true)) s

/-- Zeroes a range of data SRAM with its tags (R216). -/
def State.sramZero (s : State) (cu off n : Nat) : State :=
  s.modCu cu (fun c => { c with sram := memZero c.sram off n, sramTags := setClear c.sramTags (off / 16) ((off + n) / 16) })

/-! ## The coherence order (R240 to R242, R252) -/

/-- The command processor and the other packages, as observers in `PStore.hidden`. -/
def obsCmd : Nat := 192
def obsFab : Nat := 193

/-- A write to data SRAM, a single copy: all observers see it at once (R230, R243). -/
def PStore.single (p : PStore) : Bool := 2 ^ 60 ≤ p.pa

/-- Whether a pending write is performed with respect to a thread (R240, R241). -/
def PStore.seenBy (p : PStore) (id : TId) (ctx : CtxId) (cu : Nat) : Bool :=
  p.done || p.thread == id || p.readers.contains id
    || (p.grp && p.thread.launch == id.launch && p.thread.group == id.group)
    || (p.ctx.part == ctx.part && !p.hidden.contains cu)

/-- Whether a pending write is performed with respect to every observer of a thread's instance of a scope (R241): its group; the
partition's observers on its cluster's CUs; those of the partition; those of its tenant on other packages too; the host as well. -/
def PStore.reached (p : PStore) (t : Thread) (level : Nat) : Bool :=
  let own := p.ctx.part == t.ctx.part
  p.done || match level with
    | 0 => true
    | 1 => (p.grp && p.thread.launch == t.id.launch && p.thread.group == t.id.group) || (own && !p.hidden.contains t.cu)
    | 2 => own && p.hidden.all (fun c => clusterOf c != clusterOf t.cu)
    | 3 => own && p.hidden.all (· == obsFab)
    | 4 => own && p.hidden.isEmpty
    | _ => false

/-- A write touches [pa, pa + n). -/
def PStore.touches (p : PStore) (pa n : Nat) : Bool := p.pa < pa + n && pa < p.pa + p.bytes.length

/-- Data SRAM in the coherence order: a byte of a CU's SRAM stands at an address above every physical one. -/
def sramKey (cu off : Nat) : Nat := 2 ^ 60 + cu * 2 ^ 20 + off

/-- The address of a byte of HBM or data SRAM in the coherence order. -/
def Loc.key : Loc → Nat
  | .hbm pa _ _ => pa
  | .sram cu off => sramKey cu off
  | .peer pkg off => 2 ^ 61 + pkg * 2 ^ 46 + off

/-- The order kind of an access where it lands: scratchpad and cluster-shared bytes behave as RC (R243). -/
def Loc.kind : Loc → OrderKind
  | .hbm _ kind _ => kind
  | .sram _ _ => .rc
  | .peer _ _ => .rc

/-- Whether granules there hold tags (R218). -/
def Loc.tagged : Loc → Bool
  | .hbm _ _ tc => tc
  | .sram _ _ => true
  | .peer _ _ => true

/-- A byte of HBM or data SRAM that has been performed with respect to every observer. -/
def State.baseByte (s : State) (a : Nat) : Byte :=
  if a < 2 ^ 60 then memRead s.mem a else memRead (s.cu ((a - 2 ^ 60) / 2 ^ 20)).sram (a % 2 ^ 20)

/-- The tag of a granule there. -/
def State.baseTag (s : State) (g : Nat) : Bool :=
  if g < 2 ^ 56 then setHas s.tags g else setHas (s.cu ((g - 2 ^ 56) / 2 ^ 16)).sramTags (g % 2 ^ 16)

/-- A byte as an observer sees it: the last pending write it sees, else memory (R242). -/
def State.seenByte (s : State) (see : PStore → Bool) (a : Nat) : Byte :=
  s.stores.foldl (fun acc p => if !p.done && see p && p.touches a 1 then p.bytes.getD (a - p.pa) 0 else acc) (s.baseByte a)

/-- Bytes as an observer sees them. -/
def State.seenBytes (s : State) (see : PStore → Bool) (pa n : Nat) : List Byte :=
  (List.range n).map (fun i => s.seenByte see (pa + i))

/-- A granule's tag as an observer sees it. -/
def State.seenTag (s : State) (see : PStore → Bool) (g : Nat) : Bool :=
  s.stores.foldl (fun acc p => if !p.done && see p && p.touches (g * 16) 16 then p.tag == some true else acc) (s.baseTag g)

/-- A thread, as an observer. -/
def Thread.sees (t : Thread) (p : PStore) : Bool := p.seenBy t.id t.ctx t.cu

/-- The newest write in the coherence order is seen by an atomic at its execution point (R230). -/
def seesAll (_ : PStore) : Bool := true

/-- Memory alone: what the host and firmware see (R260). -/
def seesNone (_ : PStore) : Bool := false

/-- An engine queue of a context on a CU, as an observer (R241, R257). -/
def engineSees (c : CtxId) (cu : Nat) (p : PStore) : Bool :=
  p.done || (p.grp && p.ctx == c && p.cu == cu) || (p.ctx.part == c.part && !p.hidden.contains cu)

/-- A partition's command processor, as an observer (R241). -/
def fetchSees (part : Nat) (p : PStore) : Bool := p.done || (p.ctx.part == part && !p.hidden.contains obsCmd)

/-- Another package, as an observer of a partition's memory (R241). -/
def fabSees (p : PStore) : Bool := p.done || !p.hidden.contains obsFab

/-- A result in flight of a thread's own reads. -/
def Flight.ownRead (f : Flight) : Bool :=
  match f.kind with
  | .load _ _ => true
  | .loadCap _ _ => true
  | .peer => true
  | .store => false
  | .engine _ _ _ => false
  | .cmd _ => false

/-- A pending write waits for an earlier read of its thread before any other observer may see it (R246), and for the other stores of its
beat (R224). -/
def State.storeWaits (s : State) (p : PStore) : Bool :=
  !p.done && ((!p.shut && s.beatGoes p.thread) || s.flights.any (fun f => f.ownRead && f.thread == p.thread && f.req < p.req))

/-- The granules of a write wake the watchers that did not see it before and do now. -/
def State.wakeSeen (s : State) (p : PStore) (now : TId → Bool) : State :=
  (granulesOf p.pa p.bytes.length).foldl (fun s g => s.wakeOn (.hbm g) (fun id =>
    match s.thread id with
    | some t => !t.sees p && now id
    | none => false)) s

/-! ### Releases that a read may synchronise with (R248 to R251) -/

/-- The number of a write that is still pending. -/
def State.pendingReq (s : State) (n : Nat) : Bool := s.stores.any (fun p => p.req == n && !p.done)

/-- A head still matters while a write that happens before it is pending. -/
def State.liveHead (s : State) (h : Head) : Bool := h.covers.any s.pendingReq

/-- A party lies in a party's instance of a scope (R241). -/
def State.inInstance (s : State) (level : Nat) (a : TId) (ac : CtxId) (acu : Nat) (b : TId) (bc : CtxId) (bcu : Nat) : Bool :=
  match level with
  | 1 => a.launch == b.launch && a.group == b.group
  | 2 => ac.part == bc.part && clusterOf acu == clusterOf bcu
  | 3 => ac.part == bc.part
  | _ => (s.part ac.part).tenant == (s.part bc.part).tenant

/-- SYNCHRONISES WITH (R250): what happens before a release happens before the acquire that reads from it, if each party lies in the
other's instance: it then happens before the acquiring thread's next release too (R251). -/
def State.synchronise (s : State) (t : Thread) (level : Nat) (hs : List Head) : State :=
  let mine := hs.filter (fun h => s.inInstance h.level h.thread h.ctx h.cu t.id t.ctx t.cu
    && s.inInstance level t.id t.ctx t.cu h.thread h.ctx h.cu)
  { s with
    stores := modWhere s.stores (fun p => mine.any (·.covers.contains p.req) && !p.hb.contains t.id)
      (fun p => { p with hb := t.id :: p.hb }) }

/-- The releases that a read of [pa, pa + n) reads from: those of the last write of each byte that the reader sees (R250). -/
def State.headsAt (s : State) (see : PStore → Bool) (pa n : Nat) : List Head :=
  ((List.range n).flatMap (fun i =>
    (((s.stores.filter (fun p => see p && p.touches (pa + i) 1)).getLast?).map (fun (p : PStore) => p.heads)).getD [])).eraseDups.filter s.liveHead

/-- The pending writes of other parties that a read of [pa, pa + n) returns: the last write of each byte that the reader sees. -/
def State.readsFrom (s : State) (t : Thread) (see : PStore → Bool) (pa n : Nat) : List Nat :=
  ((List.range n).filterMap (fun i => (s.stores.filter (fun p => see p && p.touches (pa + i) 1)).getLast?)).filterMap (fun p =>
    if p.done || p.thread == t.id then none else some p.req)

/-- A thread reads from releases: an acquire synchronises at once, any read with a later fence (R249); and it remembers the pending writes
that it has read (R242, R254). -/
def State.takeHeads (s : State) (t : Thread) (level : Option Nat) (hs : List Head) (seen : List Nat) : State × Thread :=
  let t := { t with got := (t.got ++ hs).eraseDups.filter s.liveHead, seen := (t.seen ++ seen).eraseDups.filter s.pendingReq }
  match level with
  | some n => (s.synchronise t n hs, t)
  | none => (s, t)

/-- A read of [pa, pa + n) as an observer sees it, by a thread: what it takes from there besides the bytes. -/
def State.readBy (s : State) (t : Thread) (level : Option Nat) (see : PStore → Bool) (pa n : Nat) : State × Thread :=
  s.takeHeads t level (s.headsAt see pa n) (s.readsFrom t see pa n)

/-- The pending writes that happen before a thread's next release, UN ones only if it covers them (R248, R254). -/
def State.covered (s : State) (t : Thread) (un : Bool) : List Nat :=
  (s.stores.filter (fun p => !p.done && p.hb.contains t.id && (!p.un || un))).map (·.req)

/-- The head that a release of a thread is. -/
def State.headOfRelease (s : State) (t : Thread) (level : Nat) (un : Bool) : Head :=
  { thread := t.id, ctx := t.ctx, cu := t.cu, level := level, covers := s.covered t un }

/-! ### Writes reach memory -/

/-- Writes that lie in memory are forgotten once their releases matter no more. -/
def State.pruneDone (s : State) : State := { s with stores := s.stores.filter (fun p => !p.done || p.heads.any s.liveHead) }

/-- Two pending writes touch one byte. -/
def PStore.meets (p q : PStore) : Bool := q.touches p.pa p.bytes.length

/-- Two pending writes are of one request (R224). -/
def PStore.mate (p q : PStore) : Bool := !p.done && !q.done && p.lead == q.lead

/-- The positions of some pending writes, with those of the same requests, and of every earlier one that must come before them in some
byte's coherence order (R242). -/
def State.storesBefore (s : State) (ks : List Nat) : List Nat :=
  let mates := fun (i j : Nat) => match s.stores[i]?, s.stores[j]? with
    | some a, some b => a.mate b
    | _, _ => false
  let first := fun (i j : Nat) => match s.stores[i]?, s.stores[j]? with
    | some a, some b => !a.done && (a.mate b || a.meets b || s.stores.any (fun m => m.mate a && m.meets b))
    | _, _ => false
  (List.range s.stores.length).foldr (fun i acc =>
    if ks.any (fun k => k = i || mates i k) || acc.any (first i) then i :: acc else acc) []

/-- The bytes of a line that some writes to it span. -/
def lineSpan (ps : List PStore) (line : Nat) : Nat × Nat :=
  ps.foldl (fun r p => (min r.1 (p.pa - line * 128), max r.2 (p.pa + p.bytes.length - line * 128))) (128, 0)

/-- The writes of one request are performed with respect to every observer (R240): they reach memory, charged as one request, an atomic's
at its home with its read (R224, R267), and are kept while a release they carry matters. The older releases of the bytes they write
are gone. -/
def State.commitRequest (s : State) (ps : List PStore) : State :=
  match ps with
  | [] => s
  | p :: _ =>
    let s := if p.single then ps.foldl (fun s p => s.sramWrite ((p.pa - 2 ^ 60) / 2 ^ 20) (p.pa % 2 ^ 20) p.bytes p.tag) s
      else
        let ws := ps.map (fun p => (p.pa, p.bytes, p.tag))
        let b := lineSpan ps (lineOf p.pa)
        let merge := (ws.flatMap (fun w => granulesOf w.1 w.2.1.length)).any (fun g => !covers ws g)
        let s := if p.rmw == some true then s else s.chargeLine p.ctx.part (lineOf p.pa) b.1 b.2 merge
        ps.foldl (fun s p => s.wakeSeen p (fun _ => true)) (s.pokeAll ws)
    let rest := s.stores.filter (fun q => !(q.done && ps.any q.meets))
    { s with stores := (ps.filter (fun p => p.heads.any s.liveHead)).map (fun p => { p with done := true }) ++ rest }

/-- Pending writes at some positions are performed with respect to every observer, in coherence order. -/
def State.commitAt (s : State) (is : List Nat) : State :=
  let ps := is.filterMap (fun i => s.stores[i]?)
  let rest := ((List.range s.stores.length).filterMap (fun i => (s.stores[i]?).filter (fun p => p.done || !is.contains i)))
  ((ps.map (·.lead)).eraseDups.foldl (fun s k => s.commitRequest (ps.filter (fun p => !p.done && p.lead == k)))
    ({ s with stores := rest } : State)).pruneDone

/-- The pending writes that a test picks are performed with respect to every observer, with those that come before them. -/
def State.commitWhere (s : State) (pick : PStore → Bool) : State :=
  if s.stores.isEmpty then s
  else s.commitAt (s.storesBefore ((List.range s.stores.length).filter (fun i => match s.stores[i]? with
    | some p => !p.done && pick p
    | none => false)))

/-- The channel serves a pending write now (R355). -/
def State.storeServed (s : State) (p : PStore) : Bool := p.done || p.single || p.rmw == some true || s.writeServed p.ctx.part p.pa p.bytes.length

/-- Those that a test picks, and that need not wait for a read (R246) or for their channel (R355), with those that come before them. A
request that its channel refuses waits there. -/
def State.commitReady (s : State) (pick : PStore → Bool) : State :=
  let before := fun (i : Nat) => (s.storesBefore [i]).filterMap (fun j => s.stores[j]?)
  let free := (List.range s.stores.length).filter (fun i => match s.stores[i]? with
    | some p => !p.done && pick p && (before i).all (fun p => !s.storeWaits p)
    | none => false)
  let refused := (free.flatMap before).filter (fun p => !s.storeServed p)
  (refused.foldl (fun s p => s.turnedAway p.ctx.part (lineOf p.pa)) s).commitAt
    (s.storesBefore (free.filter (fun i => (before i).all s.storeServed)))

/-- Every pending write is performed, in coherence order. -/
def State.commitAll (s : State) : State := s.commitWhere (fun _ => true)

/-- Whether an access that is to follow every write of [pa, pa + n) has to wait for one: another thread's write that may not be seen
yet (R246). -/
def State.writesHeld (s : State) (pa n : Nat) (mine : PStore → Bool) : Bool :=
  s.stores.any (fun p => p.touches pa n && !mine p && s.storeWaits p)

/-- A write performed at once with respect to every observer, by a party that sees some of the pending writes: it follows those in the
coherence order, and the writes of atomics, which have read what came before them (R230), and comes before the others (R242, R245, R258). -/
def State.writeBy (s : State) (see : PStore → Bool) (pa : Nat) (bytes : List Byte) (tag : Option Bool) : State :=
  let n := bytes.length
  let s := (s.commitWhere (fun p => (see p || p.rmw.isSome) && p.touches pa n)).poke pa bytes tag
  let s := { s with stores := s.stores.filter (fun q => !(q.done && q.touches pa n)) }
  (granulesOf pa n).foldl (fun s g => s.wakeOn (.hbm g) (fun _ => true)) s

/-- The same by a party that sees memory alone: the host, firmware (R260). -/
def State.writeNow (s : State) (pa : Nat) (bytes : List Byte) (tag : Option Bool) : State := s.writeBy seesNone pa bytes tag

/-- A write to [pa, pa + n) of a party that sees nothing pending has to wait: an atomic's write before it may not be seen yet (R230,
R246). -/
def State.writeHeld (s : State) (pa n : Nat) : Bool := s.stores.any (fun p => p.rmw.isSome && p.touches pa n && s.storeWaits p)

/-- A write that has been performed: the releases that a reader of it reads from are kept while they matter (R250). -/
def State.keepHeads (s : State) (pa : Nat) (bytes : List Byte) (heads : List Head) : State :=
  let rest := s.stores.filter (fun q => !(q.done && q.touches pa bytes.length))
  { s with stores := match heads.filter s.liveHead with
      | [] => rest
      | h :: hs => { thread := h.thread, ctx := h.ctx, cu := h.cu, un := false, pa := pa, bytes := bytes, tag := none, req := s.nextReq, grp := true
                     hidden := [], readers := [], hb := [], heads := h :: hs, done := true, lead := s.nextReq, shut := true, so := false
                     rmw := none } :: rest }

/-- The CUs that hold groups of a partition, with its command processor and the other packages: the observers that a new write has
still to reach (R241). -/
def State.observers (s : State) (part : Nat) : List Nat :=
  ((s.groups.filter (fun g => g.ctx.part == part)).map (·.cu)).eraseDups ++ [obsCmd, obsFab]

/-- A CU comes to hold a partition's groups: the writes that may not be seen yet are hidden from it (R246). -/
def State.newObserver (s : State) (part cu : Nat) : State :=
  if s.groups.any (fun g => g.ctx.part == part && g.cu == cu) then s
  else { s with stores := modWhere s.stores (fun p => p.ctx.part == part && s.storeWaits p) (fun p => { p with hidden := cu :: p.hidden }) }

/-- The request that a thread's store to a line joins: one of its beat to that line, with no other write to the line after it (R224). -/
def State.joins (s : State) (t : Thread) (line : Nat) : Option Nat :=
  match (s.stores.filter (fun p => !p.done && p.touches (line * 128) 128)).getLast? with
  | some p => if !p.shut && p.rmw.isNone && p.ctx == t.ctx && s.sameBeat p.thread t.id then some p.lead else none
  | none => none

/-- A thread's write enters the coherence order; its own thread sees it (R242, R246). It carries the thread's own release, those that its
fences made of it (R248), and, as an atomic's write, those that it reads from (R250). A store of a beat forms a request with the
others (R224). -/
def State.pushStore (s : State) (t : Thread) (kind : OrderKind) (pa : Nat) (bytes : List Byte) (tag : Option Bool) (heads : List Head)
    (rmw : Option Bool) : State :=
  let beat := rmw.isNone && pa < 2 ^ 60 && s.gathers t
  { s with
    nextReq := s.nextReq + 1
    stores := s.stores ++ [{ thread := t.id, ctx := t.ctx, cu := t.cu, un := kind == .un, pa := pa, bytes := bytes, tag := tag, req := s.nextReq
                             grp := false, hidden := s.observers t.ctx.part, readers := [], hb := [t.id]
                             heads := (heads ++ t.fenced).filter s.liveHead, done := false
                             lead := if beat then (s.joins t (lineOf pa)).getD s.nextReq else s.nextReq
                             shut := !beat, so := kind == .so, rmw := rmw }] }

/-- The requests of beats that are over take no more stores; those to SO pages are performed (R224, R245). -/
def State.shutBeats (s : State) : State :=
  let ended := fun (p : PStore) => !p.shut && !s.beatGoes p.thread
  if s.stores.any ended then
    let so := s.stores.filterMap (fun p => if p.so && ended p then some p.req else none)
    (({ s with stores := modWhere s.stores ended (fun p => { p with shut := true }) } : State)).commitWhere (fun p => so.contains p.req)
  else s

/-- A thread has read the newest writes of [pa, pa + n): it sees no older one afterwards (R242). -/
def State.markRead (s : State) (t : Thread) (pa n : Nat) : State :=
  { s with stores := modWhere s.stores (fun p => p.touches pa n && !t.sees p) (fun p => { p with readers := t.id :: p.readers }) }

/-- A result in flight from a UN page. -/
def Flight.un (f : Flight) : Bool :=
  match f.loc with
  | .hbm _ kind _ => kind == .un
  | .sram _ _ => false
  | .peer _ _ => false

/-- An access that a thread issued after the one whose replay is under way (R247). -/
def Thread.later (t : Thread) (req : Nat) : Bool := t.replayOf.any (· ≤ req)

/-- A result that a release or fence waits for: an earlier read, UN only if covered (R248, R254); an earlier peer write at `.fab` and
`.sys` (R261). -/
def Flight.holds (f : Flight) (t : Thread) (level : Nat) (un : Bool) : Bool :=
  f.thread == t.id && !t.later f.req && ((f.ownRead && (un || !f.un)) || (f.kind == .store && 4 ≤ level))

/-- What a release or a fence at a level waits for: every write that happens before it reaches that level, UN writes
only if covered (R248, R254), and its own reads have returned (R246). -/
def State.orderMet (s : State) (t : Thread) (level : Nat) (un : Bool) : Bool :=
  s.stores.all (fun p => !p.hb.contains t.id || t.later p.req || (p.un && !un) || p.reached t level)
    && s.flights.all (fun f => !f.holds t level un)

/-- The pending writes that a thread's reads have returned are performed with respect to every observer of its instance (R254). -/
def State.seenMet (s : State) (t : Thread) (level : Nat) (un : Bool) : Bool :=
  s.stores.all (fun p => !t.seen.contains p.req || (p.un && !un) || p.reached t level)

/-- What a fence waits for (R254): `.acq` for nothing, since the reads before it hold back what they must themselves; every other kind for the
thread's own reads and the writes that happen before it; `.sc` and `.all` also for the writes that its reads have returned, so that
their order is the same for all; `.all` covers UN. -/
def State.fenceMet (s : State) (t : Thread) (kind level : Nat) : Bool :=
  kind = 0 || (s.orderMet t level (kind == 4) && (kind < 3 || s.seenMet t level (kind == 4)))

/-! ## Reading HBM (R271) -/

/-- The same for every granule of [pa, pa + n). -/
def State.readCheck (s : State) (tagged : Bool) (pa n : Nat) : Bool × State :=
  (granulesOf pa n).foldl (fun (r : Bool × State) g =>
    let q := r.2.readGranule tagged g
    (r.1 || q.1, q.2)) (false, s)

/-- A granule all of whose bytes come from pending writes that a reader sees is not read from memory (R272). -/
def State.overwritten (s : State) (see : PStore → Bool) (g : Nat) : Bool :=
  (List.range 16).all (fun i => s.stores.any (fun p => !p.done && see p && p.touches (g * 16 + i) 1))

/-- A read of [pa, pa + n) by an observer: the granules that it takes from memory are classified. -/
def State.readSeen (s : State) (see : PStore → Bool) (tagged : Bool) (pa n : Nat) : Bool × State :=
  (granulesOf pa n).foldl (fun (r : Bool × State) g =>
    if r.2.overwritten see g then r
    else
      let q := r.2.readGranule tagged g
      (r.1 || q.1, q.2)) (false, s)

end Sys2Proof.Machine
end

