-- ==== Sys2Proof/Machine/Translate.lean ====
section
/-!
DEFINITION. Translation (14 R338 to R341): the radix walk over the table in memory, the checks of R340, the
TLBs, and the page-request queue (R350 to R352).
-/

namespace Sys2Proof.Machine

/-- What a translated access asks (R340 step 4). -/
inductive Want where
  | read | write | tagRead | tagWrite | fetch
  deriving DecidableEq, Repr

/-- A walk's outcome (R338): an absent entry, a fault with whether it comes of a malformed entry, or a leaf and
log2 of its page. -/
inductive Walk where
  | absent
  | bad (c : FClass) (malformed : Bool)
  | leaf (e : BitVec 64) (size : Nat)
  deriving DecidableEq, Repr

/-- The physical address of an entry (R339). -/
def entryAddr (e : BitVec 64) : Nat := e.toNat % 2 ^ 47 / 256 * 256

/-- Bits of an entry (R339). -/
def entryP (e : BitVec 64) : Bool := e.getLsbD 0
def entryL (e : BitVec 64) : Bool := e.getLsbD 1
def entryW (e : BitVec 64) : Bool := e.getLsbD 2
def entryTC (e : BitVec 64) : Bool := e.getLsbD 3
def entryWB (e : BitVec 64) : Bool := e.getLsbD 6
def entryE (e : BitVec 64) : Bool := e.getLsbD 7
def entryX (e : BitVec 64) : Bool := e.getLsbD 63
def entryKind (e : BitVec 64) : OrderKind :=
  match e.toNat / 16 % 4 with | 0 => .rc | 1 => .so | _ => .un

/-- A present entry at a level is malformed (R339). -/
def entryMalformed (e : BitVec 64) (level size : Nat) : Bool :=
  e.toNat / 2 ^ 41 % 2 ^ 22 != 0
    || (if entryL e then level == 0 || e.toNat / 16 % 4 == 3 || entryAddr e % 2 ^ size != 0
        else level == 3 || entryX e || e.toNat / 4 % 64 != 0 || (level < 2 && entryAddr e % 4096 != 0))

/-- The levels of R338: the lowest index bit, the number of index bits, the level. -/
def walkLevels : List (Nat × Nat × Nat) := [(39, 17, 0), (30, 9, 1), (21, 9, 2), (16, 5, 3)]

/-- A table read that is uncorrectable (R271). -/
def State.badTable (s : State) (pa : Nat) : Bool := setHas s.poison (pa / 16) || s.eccAt (pa / 16) == some .uncorrectable

/-- The walk from a table down (R338, R341). -/
def State.walkFrom (s : State) : List (Nat × Nat × Nat) → Nat → Nat → Walk
  | [], _, _ => .bad .owner true
  | (size, bits, level) :: ls, table, va =>
    let pa := table + 8 * (va / 2 ^ size % 2 ^ bits)
    let e := BitVec.ofNat 64 (memNat s.mem pa 8)
    if s.badTable pa then .bad .uncorrectable false
    else if !entryP e then .absent
    else if entryMalformed e level size then .bad .owner true
    else if entryL e then .leaf e size
    else s.walkFrom ls (entryAddr e) va

/-- The walk of a partition's table. -/
def State.walk (s : State) (part va : Nat) : Walk := s.walkFrom walkLevels (s.part part).root va

/-- The entries that a walk reads, by physical address. -/
def State.pathFrom (s : State) : List (Nat × Nat × Nat) → Nat → Nat → List Nat
  | [], _, _ => []
  | (size, bits, level) :: ls, table, va =>
    let pa := table + 8 * (va / 2 ^ size % 2 ^ bits)
    let e := BitVec.ofNat 64 (memNat s.mem pa 8)
    if s.badTable pa || !entryP e || entryMalformed e level size || entryL e then [pa] else pa :: s.pathFrom ls (entryAddr e) va

/-- The entries of the walk of a partition's table. -/
def State.path (s : State) (part va : Nat) : List Nat := s.pathFrom walkLevels (s.part part).root va

/-- A TLB entry serves an address of a partition (R341). -/
def TlbEntry.serves (x : TlbEntry) (part va : Nat) : Bool := x.part == part && x.va ≤ va && va < x.va + 2 ^ x.size

/-- Of the entries that serve an address the one of the smallest page (R348). -/
def lookup (l : List TlbEntry) (part va : Nat) : Option TlbEntry :=
  (l.filter (·.serves part va)).foldl (fun (m : Option TlbEntry) x => match m with
    | none => some x
    | some y => if x.size < y.size then some x else some y) none

/-- What reaches a leaf for an agent: a CU by its TLB, then its slice's, then a walk; any other agent by a walk (R340 step 1, R341). -/
def State.reach (s : State) (cu : Option Nat) (part va : Nat) : Walk :=
  match cu with
  | none => s.walk part va
  | some k => match (lookup (s.cu k).tlb part va).or (lookup (s.slice (sliceOf k)).tlb part va) with
    | some x => .leaf x.leaf x.size
    | none => s.walk part va

/-- A translation's outcome. -/
inductive Xlate where
  | absent
  | bad (c : FClass) (malformed : Bool)
  | ok (pa : Nat) (e : BitVec 64) (size : Nat)
  deriving DecidableEq, Repr

/-- A frame may be used by a partition: granted to it, or quarantined and still granted (R344, R340 step 3). -/
def State.ownsFrame (s : State) (part f : Nat) : Bool :=
  let e := s.frame f
  (e.state == 1 || e.state == 4) && e.part == part

/-- Steps 1 to 4 of R340 for one page, by an agent's TLBs or a walk. -/
def State.xlateBy (s : State) (cu : Option Nat) (part va : Nat) (w : Want) : Xlate :=
  match s.reach cu part va with
  | .absent => .absent
  | .bad c m => .bad c m
  | .leaf e size =>
    let pa := entryAddr e + va % 2 ^ size
    let allowed := match w with
      | .read => true
      | .write => entryW e
      | .tagRead => entryTC e
      | .tagWrite => entryW e && entryTC e
      | .fetch => entryX e
    if !s.ownsFrame part (pa / 65536) then .bad .owner false
    else if !allowed then .bad .pagePerm false
    else .ok pa e size

/-- Steps 1 to 4 of R340 for one page, by a walk. -/
def State.xlate (s : State) (part va : Nat) (w : Want) : Xlate := s.xlateBy none part va w

/-- A TLB of a capacity takes an entry. -/
def fillTlb (l : List TlbEntry) (x : TlbEntry) (cap : Nat) : List TlbEntry := if l.contains x then l else (x :: l).take cap

/-- The CU TLB takes an entry. -/
def State.fillCuTlb (s : State) (cu : Nat) (x : TlbEntry) : State := s.modCu cu (fun c => { c with tlb := fillTlb c.tlb x 64 })

/-- What a walk does besides its answer: each entry it reads is classified (R271) and its read charged to the partition (R267); a present
leaf goes into the CU's TLB and its slice's (R341). -/
def State.walked (s : State) (cu : Option Nat) (part va : Nat) : State :=
  let s1 := (s.path part va).foldl (fun s pa => ((s.chargeRead part pa 8).readGranule false (pa / 16)).2) s
  match cu, s.walk part va with
  | some k, .leaf e size =>
    let x : TlbEntry := { part := part, va := va / 2 ^ size * 2 ^ size, size := size, leaf := e }
    (s1.fillCuTlb k x).modSlice (sliceOf k) (fun c => { c with tlb := fillTlb c.tlb x 8192 })
  | _, _ => s1

/-- The translation of an agent's access: what its TLBs do not hold is walked (R341). -/
def State.translated (s : State) (cu : Option Nat) (part va : Nat) : State :=
  match cu with
  | none => s.walked none part va
  | some k =>
    if (lookup (s.cu k).tlb part va).isSome then s
    else match lookup (s.slice (sliceOf k)).tlb part va with
      | some x => s.fillCuTlb k x
      | none => s.walked cu part va

/-- Firmware reads the entries on a walk's path: each read is classified (R271). -/
def State.readPath (s : State) (part va : Nat) : State := (s.path part va).foldl (fun s pa => (s.readGranule false (pa / 16)).2) s

/-- Firmware reads the whole of a partition's tables: the granules of them that hold an error are found (R271). -/
def State.readTables (s : State) (part : Nat) : State :=
  ((s.ecc.filter (fun c => (s.part part).pool.contains (c.1 / 4096))).map (·.1)).foldl (fun s g => (s.readGranule false g).2) s

/-- The table granules on a walk's path that answer with an error. -/
def State.badPath (s : State) (part va : Nat) : List Nat := ((s.path part va).map (· / 16)).filter (setHas s.poison)

/-- An invalidation of a range of a partition reaches every TLB of its slices, and drops the old entries
(R343). -/
def State.invalidate (s : State) (part lo n : Nat) : State :=
  let keep := fun (x : TlbEntry) => x.part != part || lo + n ≤ x.va || x.va + 2 ^ x.size ≤ lo
  { s with
    cus := s.cus.map (fun c => { c with tlb := c.tlb.filter keep })
    slices := s.slices.map (fun c => { c with tlb := c.tlb.filter keep }) }

/-! ## Keys (R268, R339) -/

/-- The Curator puts a tenant's keys into a controller's 64 key entries (R268, R339): those of tenants without a partition leave it, and
the sixteen partitions there can be (R357) have at most 32 keys. -/
def Slice.keyIn (c : Slice) (live : Nat → Bool) (tenant : Nat) (mem transfer : BitVec 512) : Slice :=
  let ks := c.memKeys.filter (fun k => live k.tenant && k.tenant != tenant)
  { c with memKeys := ks ++ [{ tenant := tenant, mem := true, key := mem }, { tenant := tenant, mem := false, key := transfer }] }

/-- The Curator keeps a partition's tenant's keys in a slice's controller while it has frames there (R268). -/
def State.keysTo (s : State) (part slice : Nat) : State :=
  match s.tenantOf part with
  | some t => s.modSlice slice (·.keyIn (fun k => s.parts.any (fun p => p.state != 0 && p.tenant == k)) t.id t.memKey t.transferKey)
  | none => s

/-- The tenant whose frame a byte lies in: the owner, or the borrower of a lent frame (R8, R268). -/
def State.frameTenant (s : State) (pa : Nat) : Nat := (s.part (s.frame (pa / 65536)).part).tenant

/-- The key that a granule of a frame is stored under: the tenant's that its ownership entry names, of the two the one that the page's E
selects (R268, R339). The data unit is the granule, the tweak its number. The model holds plaintext: every access to a frame goes by the
one key, so that it reads what was written. -/
def State.frameKey (s : State) (pa : Nat) (e : Bool) : Option (BitVec 512) :=
  ((s.slice (sliceOfPa pa)).memKeys.find? (fun k => k.tenant == s.frameTenant pa && k.mem == e)).map (·.key)

/-! ## Page requests (R350 to R352) -/

/-- The kinds byte of a request (R351). -/
def kindRead : Byte := 1
def kindWrite : Byte := 2
def kindFetch : Byte := 4
def kindTag : Byte := 8
def kindEngine : Byte := 16

/-- The VF's error register records a cause and an address; while it is valid only `more` is set; the host is told
(R457). -/
def State.vfError (s : State) (vf : Nat) (cause : Byte) (addr : Word64) : State :=
  if (s.vf vf).errValid then s.modVf vf (fun v => { v with errMore := true })
  else (s.modVf vf (fun v => { v with errValid := true, errCause := cause, errAddr := addr })).emit (.msix vf 0)

/-- The first id at or above a number that no outstanding request has (R352). -/
def freshId (used : List (BitVec 16)) (n : Nat) : BitVec 16 :=
  ((List.range (used.length + 1)).map (fun i => BitVec.ofNat 16 (n + i))).find? (fun x => !used.contains x) |>.getD 0

/-- The bytes of a request entry (R351). -/
def reqBytes (gen : BitVec 16) (r : PageReq) : List Byte :=
  natBytes 8 (r.page * 65536) ++ natBytes 2 r.id.toNat ++ natBytes 2 r.ctx.toNat ++ natBytes 2 gen.toNat
    ++ [r.kinds] ++ List.replicate 17 0

/-- The request that is written next: those of one beat are written once the beat is over (R443). -/
def State.nextRequest (s : State) (vf : Nat) : Option PageReq :=
  (s.vf vf).reqs.find? (fun r => !r.written && !r.beat.any s.beatGoes)

/-- The device writes the oldest request it holds, if the queue runs and has room, and advances the tail; a write that fails leaves it
held and is recorded (R351). A write into a slice under reset waits until that ends (R354). -/
def State.writeRequest (s : State) (vf : Nat) : Option (PageReq × State) :=
  let v := s.vf vf
  let n := 2 ^ v.prSize
  match s.nextRequest vf with
  | none => none
  | some r =>
    if !v.prRun || (v.prTail % n + 1) % n == v.prHead % n then none
    else
      let va := v.prBase.toNat + 32 * (v.prTail % n)
      match s.xlate vf va .write with
      | .ok pa _ _ =>
        if s.underReset pa then none
        else
        let s := (((s.translated none vf va).settleFrame pa).chargeWrite vf pa 32).writeNow pa (reqBytes (s.part vf).gen r) none
        some (r, s.modVf vf (fun v => { v with
          prTail := (v.prTail % n + 1) % n
          reqs := modWhere v.reqs (fun q => q.page == r.page) (fun q => { q with written := true }) }))
      | .absent => none
      | .bad _ _ => none

/-- Where the next request is written: PRTAIL counts modulo the entry count (R350). -/
def State.requestVa (s : State) (vf : Nat) : Nat :=
  let v := s.vf vf
  v.prBase.toNat + 32 * (v.prTail % 2 ^ v.prSize)

/-- Whether the write of the oldest held request would fail (R351), and whether at a malformed entry. -/
def State.requestStuck (s : State) (vf : Nat) : Bool × Bool :=
  let v := s.vf vf
  let n := 2 ^ v.prSize
  if (s.nextRequest vf).isSome && v.prRun && (v.prTail % n + 1) % n != v.prHead % n then
    match s.xlate vf (s.requestVa vf) .write with
    | .ok _ _ _ => (false, false)
    | .absent => (true, false)
    | .bad _ m => (true, m)
  else (false, false)

/-- The signal of the tail's advance past some entries (R351). -/
def State.tailSignal (s : State) (vf : Nat) (owed : Bool) : State := if owed then s.emit (.msix vf 1) else s

/-- Writes the held requests in order until the queue is full, stopped or fails (R351, R352); the tail's advance is signalled once for
the entries of one beat (R443). -/
def State.writeRequestsN : Nat → State → Nat → Bool → State
  | 0, s, vf, owed => s.tailSignal vf owed
  | n + 1, s, vf, owed => match s.writeRequest vf with
    | some (r, s) => State.writeRequestsN n (s.tailSignal vf (owed && !r.joined)) vf true
    | none => s.tailSignal vf owed

/-- The device writes what requests it can, and records a write that fails (R351). -/
def State.writeRequests (s : State) (vf : Nat) : State :=
  let s := State.writeRequestsN (s.vf vf).reqs.length s vf false
  let (stuck, malformed) := s.requestStuck vf
  let s := if malformed then s.emit (.malformedEntry vf (s.requestVa vf / 65536)) else s
  if stuck then (s.translated none vf (s.requestVa vf)).vfError vf 0x03 (BitVec.ofNat 64 (s.requestVa vf)) else s

/-- The requests a device may hold unwritten (R352). -/
def heldCapacity : Nat := 4096

/-- Whether a new absent access has to wait for a place (R352). -/
def State.requestsFull (s : State) (part page : Nat) : Bool :=
  let v := s.vf part
  !v.reqs.any (·.page == page) && heldCapacity ≤ (v.reqs.filter (fun r => !r.written)).length

/-- An access to an absent page makes a request, or attaches to the outstanding one (R352). One that a thread makes at its word is
written with those of its beat (R443). -/
def State.askPage (s : State) (maker : Option TId) (ctx : CtxId) (page : Nat) (kinds : Byte) : State :=
  let v := s.vf ctx.part
  if v.reqs.any (·.page == page) then
    s.modVf ctx.part (fun v => { v with
      reqs := modWhere v.reqs (fun r => r.page == page && !r.written) (fun r => { r with kinds := r.kinds ||| kinds }) })
  else
    let (n, s) := s.draw
    let beat := maker.filter s.beatGoes
    let r : PageReq := { page := page, id := freshId (v.reqs.map (·.id)) n, ctx := BitVec.ofNat 16 ctx.id
                         kinds := kinds, written := false, beat := beat
                         joined := beat.any (fun t => (v.reqs.getLast?.bind (·.beat)).any (s.sameBeat t)) }
    (s.modVf ctx.part (fun v => { v with reqs := v.reqs ++ [r] })).writeRequests ctx.part

/-- A request that no thread makes at its word: by a fetch, a replay, an engine or the command processor. -/
def State.requestPage (s : State) (ctx : CtxId) (page : Nat) (kinds : Byte) : State := s.askPage none ctx page kinds

/-- What beats that are over have gathered goes: their stores' requests (R224), and their page requests, which are written (R443). -/
def State.endBeats (s : State) : State :=
  let s := s.shutBeats
  let ended := fun (r : PageReq) => r.beat.any (fun t => !s.beatGoes t)
  (List.range 16).foldl (fun s vf =>
    if (s.vf vf).reqs.any ended then
      (s.modVf vf (fun v => { v with reqs := modWhere v.reqs ended (fun (r : PageReq) => { r with beat := none }) })).writeRequests vf
    else s) s

end Sys2Proof.Machine
end

