-- ==== Sys2Proof/Machine/Mapping.lean ====
section
/-!
DEFINITION. Changing a translation table (14 R338, R339, R343, R347, R348) as slice firmware does: tables in
firmware frames, leaves written, large leaves split, ranges unmapped or given other bits. Frames found and
granted (R344).
-/

namespace Sys2Proof.Machine

/-- A request of the host, or of firmware, that has to wait is tried again, in order; one that waits already keeps its place. It carries the
generation of the virtual function's binding when it came (R360). -/
def State.hostWait (s : State) (vf : Nat) (i : Instr) : State :=
  if s.hostWaits.any (·.op == i) then s else { s with hostWaits := s.hostWaits ++ [{ op := i, vf := vf, gen := (s.vf vf).gen }] }

/-- It waits no longer. -/
def State.hostDone (s : State) (i : Instr) : State := { s with hostWaits := s.hostWaits.filter (·.op != i) }

/-- A write of a virtual function's host comes after those of its accesses that wait already (R260). -/
def State.hostBehind (s : State) (vf : Nat) (i : Instr) : Bool := (s.hostWaits.takeWhile (·.op != i)).any (·.vf == vf)

/-- Frames of a stack that hold data: 79.375 GiB (R337). -/
def framesPerStack : Nat := 1300480

/-- A frame is queued for retirement (R279). -/
def State.queuedFrame (s : State) (f : Nat) : Bool := (s.slice (f / 2 ^ 21)).retire.contains f

/-- The frame after the run that holds one, if it is not free, or queued for retirement; none if it may be taken (R344). -/
def State.nextFree (s : State) (f : Nat) : Option Nat :=
  if (s.frame f).state == 0 && !s.queuedFrame f then none
  else some (match s.runs.find? (fun r => r.first ≤ f && f < r.first + r.count && (kvGet s.frames f).isNone) with
    | some r => r.first + r.count
    | none => f + 1)

/-- The first free frame from a place on, going round the stack. -/
def State.seekFree (s : State) (slice : Nat) : Nat → Nat → Option Nat
  | 0, _ => none
  | n + 1, f =>
    let g := slice * 2 ^ 21 + f % framesPerStack
    match s.nextFree g with
    | none => some g
    | some h => State.seekFree s slice n (if h - slice * 2 ^ 21 < framesPerStack then h - slice * 2 ^ 21 else 0)

/-- A free frame of a stack, which firmware is free to choose. -/
def State.freeFrame (s : State) (slice : Nat) : Option Nat × State :=
  let (n, s) := s.draw
  (s.seekFree slice (2 * (s.frames.length + s.runs.length + (s.slice slice).retire.length) + 2) (n % framesPerStack), s)

/-- Memory firmware grants a free frame to a partition, its scrub pending (R344). -/
def State.grantFrame (s : State) (part f : Nat) : State :=
  let e := s.frame f
  let s := s.setFrame f { state := 1, scrub := true, lent := !(s.part part).map.contains (f / 2 ^ 21)
                          part := part, seq := e.seq + 1 }
  (s.keysTo part (f / 2 ^ 21)).modPart part (fun p => { p with grants := p.grants ++ [f] })

/-- A free frame for firmware's own use, zeroed. -/
def State.firmwareFrame (s : State) (slice : Nat) : Option Nat × State :=
  match s.freeFrame slice with
  | (none, s) => (none, s)
  | (some f, s) => (some f, (s.scrubFrame f).setFrame f { state := 2, scrub := false, lent := false, part := 0, seq := (s.frame f).seq })

/-- Space for a table of a size, from the frames the partition's tables take; more frames are taken when they
are used up. The first sixteen hold the root. -/
def State.allocTable (s : State) (part bytes : Nat) : Option Nat × State :=
  let p := s.part part
  let at0 := (p.poolUsed + bytes - 1) / bytes * bytes
  let give := fun (s : State) (f : Nat) =>
    (some (f * 65536 + at0 % 65536), s.modPart part (fun p => { p with poolUsed := at0 + bytes }))
  match p.pool[16 + at0 / 65536]? with
  | some f => give s f
  | none => match s.firmwareFrame (p.map.getD 0 0) with
    | (none, s) => (none, s)
    | (some f, s) => give (s.modPart part (fun p => { p with pool := p.pool ++ [f] })) f

/-- Firmware writes an entry of a table. -/
def State.putEntry (s : State) (pa : Nat) (e : BitVec 64) : State := { s with mem := memWriteN s.mem pa (natBytes 8 e.toNat) }

/-- An entry of a table. -/
def State.getEntry (s : State) (pa : Nat) : BitVec 64 := BitVec.ofNat 64 (memNat s.mem pa 8)

/-- A leaf: its frames, its bits [7:2] and X, present. -/
def leafEntry (pa : Nat) (bits : BitVec 64) : BitVec 64 := BitVec.ofNat 64 pa ||| bits ||| 3#64

/-- The bits of a leaf other than its address. -/
def leafBits (e : BitVec 64) : BitVec 64 := e &&& 0x80000000000000FC#64

/-- Fills a table with the leaves that map what a large leaf maps (R348). -/
def State.splitInto (s : State) (table : Nat) (e : BitVec 64) (size next : Nat) : State :=
  (List.range (2 ^ (size - next))).foldl
    (fun s i => s.putEntry (table + 8 * i) (leafEntry (entryAddr e + i * 2 ^ next) (leafBits e))) s

/-- The address of the entry for a page at a level, making and splitting tables on the way (R338, R348). -/
def ensureSlot : List (Nat × Nat × Nat) → State → Nat → Nat → Nat → Nat → Option Nat × State
  | [], s, _, _, _, _ => (none, s)
  | (size, bits, level) :: ls, s, part, table, va, goal =>
    let pa := table + 8 * (va / 2 ^ size % 2 ^ bits)
    let s := (s.readGranule false (pa / 16)).2
    if level == goal then (some pa, s)
    else
      let e := s.getEntry pa
      let bytes := if level < 2 then 4096 else 256
      if entryP e && !entryL e then ensureSlot ls s part (entryAddr e) va goal
      else match s.allocTable part bytes with
        | (none, s) => (none, s)
        | (some tb, s) =>
          let next := match ls with
            | (n, _, _) :: _ => n
            | [] => 16
          let s := if entryP e then s.splitInto tb e size next else s
          ensureSlot ls (s.putEntry pa (BitVec.ofNat 64 (tb + 1))) part tb va goal

/-- Writes the leaf of a page at a level. Where no frame is free for a table that this needs, the leaf is not written, and the call that
asked for it ends with the status of its record all the same (DESIGN CHOICE, log entry 85). -/
def State.putLeaf (s : State) (part va level : Nat) (e : BitVec 64) : State :=
  match ensureSlot walkLevels s part (s.part part).root va level with
  | (some pa, s) => s.putEntry pa e
  | (none, s) => s

/-- The level whose leaf maps a page size. -/
def levelOf (size : Nat) : Nat := if size = 30 then 1 else if size = 21 then 2 else 3

/-- Maps pages in order onto frames, with a 1 GiB or 2 MiB leaf wherever the range, the virtual alignment and
the frames permit (R347). -/
def mapPages : Nat → State → Nat → Nat → List Nat → BitVec 64 → State
  | 0, s, _, _, _, _ => s
  | _, s, _, _, [], _ => s
  | n + 1, s, part, va, f :: fs, bits =>
    let fits := fun (size : Nat) =>
      let k := 2 ^ (size - 16)
      va % 2 ^ size == 0 && f % k == 0 && (f :: fs).take k == (List.range k).map (f + ·) && k ≤ fs.length + 1
    let size := if fits 30 then 30 else if fits 21 then 21 else 16
    let s := s.putLeaf part va (levelOf size) (leafEntry (f * 65536) bits)
    mapPages n s part (va + 2 ^ size) ((f :: fs).drop (2 ^ (size - 16))) bits

/-- Maps pages onto frames. -/
def State.mapRange (s : State) (part va : Nat) (fs : List Nat) (bits : BitVec 64) : State :=
  mapPages fs.length s part va fs bits

/-- Changes every present leaf of a range of pages, splitting a large leaf covered in part: into leaves of the next level that change
whole, and smaller ones (R347, R348). -/
def changePages : Nat → State → Nat → Nat → Nat → (BitVec 64 → BitVec 64) → State
  | 0, s, _, _, _, _ => s
  | _, s, _, _, 0, _ => s
  | fuel + 1, s, part, va, n, f =>
    let s := s.readPath part va
    match s.walk part va with
    | .leaf e size =>
      if va % 2 ^ size = 0 && 2 ^ (size - 16) ≤ n then
        changePages fuel (s.putLeaf part va (levelOf size) (f e)) part (va + 2 ^ size) (n - 2 ^ (size - 16)) f
      else
        let small := leafEntry (entryAddr e + va % 2 ^ size) (leafBits e)
        if va % 2 ^ 21 = 0 && 32 ≤ n then changePages fuel (s.putLeaf part va 2 (f small)) part (va + 2 ^ 21) (n - 32) f
        else changePages fuel (s.putLeaf part va 3 (f small)) part (va + 65536) (n - 1) f
    | .absent => changePages fuel s part (va + 65536) (n - 1) f
    | .bad _ _ => changePages fuel s part (va + 65536) (n - 1) f

/-- Clears P on every leaf of a range, and invalidates it (R343, R347). -/
def State.unmapRange (s : State) (part va n : Nat) : State :=
  (changePages n s part va n (fun e => e &&& ~~~1#64)).invalidate part va (n * 65536)

/-- Gives every leaf of a range other bits [7:2] and X, and invalidates it (R347). -/
def State.protectRange (s : State) (part va n : Nat) (bits : BitVec 64) : State :=
  (changePages n s part va n (fun e => leafEntry (entryAddr e) bits)).invalidate part va (n * 65536)

/-- A page is absent. -/
def State.pageAbsent (s : State) (part va : Nat) : Bool := s.walk part va == .absent

/-- The pages of a range. -/
def pagesFrom (va n : Nat) : List Nat := (List.range n).map (fun i => va + i * 65536)

/-- The frame a page maps, if its leaf is present. -/
def State.pageFrame (s : State) (part va : Nat) : Option Nat :=
  match s.walk part va with
  | .leaf e size => some ((entryAddr e + va % 2 ^ size) / 65536)
  | .absent => none
  | .bad _ _ => none

/-- The entries of a table that are not zero: their numbers. -/
def State.usedEntries (s : State) (table n : Nat) : List Nat :=
  ((s.mem.filter (fun c => table ≤ c.1 && c.1 < table + 8 * n)).map (fun c => (c.1 - table) / 8)).eraseDups

/-- Every present leaf below a table: virtual address, log2 of the page, entry. -/
def leavesFrom (s : State) : List (Nat × Nat × Nat) → Nat → Nat → List (Nat × Nat × BitVec 64)
  | [], _, _ => []
  | (size, bits, _) :: ls, table, va =>
    (s.usedEntries table (2 ^ bits)).flatMap (fun i =>
      let e := s.getEntry (table + 8 * i)
      if !entryP e then []
      else if entryL e then [(va + i * 2 ^ size, size, e)]
      else leavesFrom s ls (entryAddr e) (va + i * 2 ^ size))

/-- Every present leaf of a partition's table. -/
def State.leaves (s : State) (part : Nat) : List (Nat × Nat × BitVec 64) := leavesFrom s walkLevels (s.part part).root 0

/-- Unmaps every page that maps a frame, in every table (R344 step 1). -/
def State.unmapFrame (s : State) (f : Nat) : State :=
  (List.range 16).foldl (fun s part =>
    if (s.part part).state == 0 then s
    else ((s.readTables part).leaves part).foldl (fun s (l : Nat × Nat × BitVec 64) =>
      let f0 := entryAddr l.2.2 / 65536
      if f0 ≤ f && f < f0 + 2 ^ (l.2.1 - 16) then s.unmapRange part (l.1 + (f - f0) * 65536) 1 else s) s) s

/-! ## Runs of frames (R215, R274) -/

/-- Consecutive frames of one stack, all free. -/
def State.freeSpan (s : State) (first n : Nat) : Bool :=
  let out := fun (a k : Nat) => a + k ≤ first || first + n ≤ a
  first % 2 ^ 21 + n ≤ framesPerStack && first / 2 ^ 21 < 16
    && (s.slice (first / 2 ^ 21)).retire.all (fun f => out f 1) && s.frames.all (fun f => out f.1 1 || f.2.state == 0) && s.runs.all (fun r => out r.first r.count || r.entry.state == 0)

/-- Sixteen aligned free frames for a root table, on a slice: the first after its start, a run or a frame that is taken. -/
def State.freeRoot (s : State) (slice : Nat) : Option Nat :=
  let ends := s.runs.map (fun r => r.first + r.count) ++ s.frames.map (fun f => f.1 + 1) ++ (s.slice slice).retire.map (· + 1)
  ((slice * 2 ^ 21 :: ends).map (fun f => (f + 15) / 16 * 16)).find? (fun f => f / 2 ^ 21 == slice && s.freeSpan f 16)

/-- Firmware takes a run of free frames under one entry. -/
def State.takeRun (s : State) (first n : Nat) (e : Frame) : State :=
  { s with
    frames := s.frames.filter (fun f => f.1 < first || first + n ≤ f.1)
    runs := { first := first, count := n, entry := e } :: s.runs.filter (fun r => !(r.first = first && r.count = n)) }

/-- A run of frames is free again, but those retired meanwhile; the quarantined ones among them are retired and not freed (R279, R344). -/
def State.freeRun (s : State) (first count : Nat) : State :=
  let kept := fun (f : Nat × Frame) => if f.2.state == 4 then (f.1, { f.2 with state := 3, scrub := false }) else f
  { s with
    frames := (s.frames.filter (fun f => f.1 < first || first + count ≤ f.1 || 3 ≤ f.2.state)).map (fun f =>
      if first ≤ f.1 && f.1 < first + count then kept f else f)
    runs := s.runs.map (fun r => if r.first = first && r.count = count then
      { r with entry := { r.entry with state := 0, scrub := true, lent := false } } else r) }

/-- A frame leaves its owner: free, unless it is retired or, quarantined, is retired now (R279, R344). -/
def State.freeFrameOf (s : State) (f : Nat) : State :=
  let e := s.frame f
  if e.state = 3 then s
  else if e.state = 4 then s.setFrame f { e with state := 3, scrub := false }
  else s.setFrame f { e with state := 0, scrub := true, lent := false }

/-- Room for a slice's write log (R274). -/
def State.logSpan (s : State) (slice n : Nat) : Option Nat :=
  ((List.range (framesPerStack / 4096)).map (fun i => slice * 2 ^ 21 + 4096 * i)).find? (fun f => s.freeSpan f n)

/-- Firmware reserves frames for a slice's write log, 512 entries of 128 bytes in each, and never grants them (R274). Where the stack has
no room for them there is none: the first write of a protected launch overflows it (DESIGN CHOICE, log entry 85). -/
def State.reserveLog (s : State) (slice n : Nat) : State :=
  match s.logSpan slice n with
  | none => s
  | some f =>
    (s.takeRun f n { state := 2, scrub := false, lent := false, part := 0, seq := 0 }).modSlice slice (fun c => { c with
      logRun := some (f, n), logCap := 512 * n })

/-- The frames of a slice's write log are free again. -/
def State.freeLog (s : State) (slice : Nat) : State :=
  match (s.slice slice).logRun with
  | none => s
  | some (f, n) => ((s.slice slice).logSpare.foldl (fun s g => s.setFrame g { (s.frame g) with state := 0, scrub := true })
      (s.freeRun f n)).modSlice slice (fun c => { c with logRun := none, logSpare := [], logCap := 0, log := [] })

/-- The entry of a function of a virtual function, enabled until a timeout disables it (R345). -/
def Vf.atsOf (v : Vf) (fn : Nat) : Ats := (v.ats.find? (·.fn == fn)).getD { fn := fn, enabled := true, cached := [], waiting := none }

/-- A function caches a page of a range. -/
def Ats.holds (a : Ats) (lo n : Nat) : Bool := a.enabled && a.cached.any (fun p => lo ≤ p * 65536 && p * 65536 < lo + n)

/-- The functions that cache pages of a range are told, and have to answer (R345). -/
def State.atsStale (s : State) (part lo n : Nat) : State :=
  let drop := fun (a : Ats) => { a with
    cached := a.cached.filter (fun p => p * 65536 < lo || lo + n ≤ p * 65536), waiting := some (a.waiting.getD s.time) }
  ((s.vf part).ats.filter (·.holds lo n)).foldl (fun s a => s.emit (.atsInvalidate part a.fn))
    (s.modVf part (fun v => { v with ats := modWhere v.ats (·.holds lo n) drop }))

/-! ## Retirement (R279) -/

/-- A frame is copied to a cleared one granule by granule: each read is classified (R271), each poison bit carried. -/
def State.copyFrame (s : State) (f g : Nat) : State :=
  let s := ((s.ecc.filter (fun c => c.1 / 4096 == f)).foldl (fun s c => (s.readGranule true c.1).2) s).scrubFrame g
  let shift := fun (l : List Nat) => (l.filter (fun x => f * 4096 ≤ x && x < f * 4096 + 4096)).map (fun x => x - f * 4096 + g * 4096)
  { s with
    mem := memPatch s.mem (g * 65536) 65536 (memSlice s.mem (f * 65536) 65536)
    tags := (shift s.tags).foldl setAdd s.tags
    poison := (shift s.poison).foldl setAdd s.poison }

/-- A frame is marked retired. -/
def State.markRetired (s : State) (f : Nat) : State := s.setFrame f { (s.frame f) with state := 3, scrub := false }

/-- Every leaf of a partition that maps a frame maps another in its place, the old entries invalidated (R343). -/
def State.remapFrame (s : State) (part f g : Nat) : State :=
  let s := s.readTables part
  (s.leaves part).foldl (fun s (l : Nat × Nat × BitVec 64) =>
    let f0 := entryAddr l.2.2 / 65536
    if f0 ≤ f && f < f0 + 2 ^ (l.2.1 - 16) then
      let va := l.1 + (f - f0) * 65536
      (((s.putLeaf part va 3 (leafEntry (g * 65536) (leafBits l.2.2))).invalidate part va 65536)).atsStale part va 65536
    else s) s

/-- A frame takes another's place in firmware's lists: grants, models, slabs. -/
def State.renameFrame (s : State) (part f g : Nat) : State :=
  let ren := fun (l : List Nat) => l.map (fun x => if x == f then g else x)
  let slab := fun (c : Context) => c.id.part == part && c.slabFrames.any (fun r => r.1 ≤ f && f < r.1 + r.2)
  let s := s.modPart part (fun p => { p with grants := ren p.grants, staging := ren p.staging })
  { s with
    slices := s.slices.map (fun (c : Slice) => { c with cat := c.cat.map (fun (e : CatEntry) => { e with list := ren e.list }) })
    contexts := modWhere s.contexts slab (fun c => { c with slabFrames := c.slabFrames ++ [(g, 1)] }) }

/-- A granted frame is retired, once the writes to it are performed (R343); with no spare frame free it stays quarantined and queued (DESIGN CHOICE, log entry 71). A borrower is
told. -/
def State.retireGranted (s : State) (f : Nat) : State :=
  let e := s.frame f
  match s.freeFrame (f / 2 ^ 21) with
  | (none, s) => s
  | (some g, s) =>
    let s := ((s.commitWhere (fun p => p.pa / 65536 == f)).settleFrame (f * 65536)).copyFrame f g
    let s := s.setFrame g { e with state := 1, seq := (s.frame g).seq + 1 }
    let s := ((s.renameFrame e.part f g).remapFrame e.part f g).markRetired f
    if e.lent then (s.modVf e.part (fun v => { v with events := v.events ++ [f] })).emit (.msix e.part 2) else s

/-- Table entries that point into a frame point into another. -/
def State.repoint (s : State) (pool : List Nat) (f g : Nat) : State :=
  pool.foldl (fun s h => (s.usedEntries (h * 65536) 8192).foldl (fun s i =>
    let pa := h * 65536 + 8 * i
    let e := s.getEntry pa
    if entryP e && !entryL e && entryAddr e / 65536 == f then
      s.putEntry pa (BitVec.ofNat 64 (e.toNat - f * 65536 + g * 65536))
    else s) s) s

/-- A frame of a partition's tables is retired: a root moves whole. -/
def State.retireTable (s : State) (part f : Nat) : State :=
  let p := s.part part
  let k := p.pool.idxOf f
  if k < 16 then
    match s.freeRoot (f / 2 ^ 21) with
    | none => s
    | some r =>
      let old := p.pool.take 16
      let s := (old.zip ((List.range 16).map (r + ·))).foldl (fun s x => (s.copyFrame x.1 x.2).setFrame x.2 { (s.frame x.1) with state := 2 }) s
      let s := old.foldl (fun s h => s.setFrame h { (s.frame h) with state := 0, scrub := true }) s
      (s.modPart part (fun p => { p with root := r * 65536, pool := (List.range 16).map (r + ·) ++ p.pool.drop 16 })).markRetired f
  else match s.firmwareFrame (f / 2 ^ 21) with
    | (none, s) => s
    | (some g, s) =>
      let s := (s.copyFrame f g).setFrame g { (s.frame g) with state := 2, scrub := false }
      let pool := p.pool.map (fun x => if x == f then g else x)
      ((s.modPart part (fun p => { p with pool := pool })).repoint pool f g).markRetired f

/-- A frame lies among those of its slice's write log (R274). -/
def State.inLog (s : State) (f : Nat) : Bool :=
  match (s.slice (f / 2 ^ 21)).logRun with
  | some (a, n) => (a ≤ f && f < a + n) || (s.slice (f / 2 ^ 21)).logSpare.contains f
  | none => false

/-- The partition whose frame it is: by its grant, its tables, or its slice's write log. -/
def State.holderOf (s : State) (f : Nat) : Option Nat :=
  let e := s.frame f
  if e.state = 1 || e.state = 4 then some e.part
  else if e.state = 2 then
    (List.range 16).find? (fun p => (s.part p).state != 0
      && ((s.part p).pool.contains f || (s.inLog f && (s.part p).map.contains (f / 2 ^ 21))))
  else none

/-- A frame of a write log, or of firmware's without a partition, is copied to a spare, which takes its place (R279). -/
def State.retireSpare (s : State) (f : Nat) : State :=
  match s.firmwareFrame (f / 2 ^ 21) with
  | (none, s) => s
  | (some g, s) =>
    let s := (s.copyFrame f g).setFrame g { (s.frame g) with state := 2, scrub := false }
    s.markRetired f |>.modSlice (f / 2 ^ 21) (fun c => { c with logSpare := if s.inLog f || c.logSpare.contains f then g :: c.logSpare.erase f else c.logSpare })

/-- A frame queued for retirement is copied to a spare, granule by granule with its poison, remapped and
retired (R279). A frame of a write log leaves it, and a spare one takes its place. -/
def State.retireFrame (s : State) (f : Nat) : State :=
  let e := s.frame f
  if e.state = 1 || e.state = 4 then s.retireGranted f
  else if e.state = 2 then
    match s.holderOf f with
    | some p => if (s.part p).pool.contains f then s.retireTable p f else s.retireSpare f
    | none => s.retireSpare f
  else s.markRetired f

/-- The frames a partition has queued for retirement are retired (R279); those that no spare frame can replace yet stay queued. -/
def State.retireQueued (s : State) (pick : Nat → Bool) : State :=
  (List.range 16).foldl (fun s n =>
    let fs := (s.slice n).retire.filter pick
    let s := fs.foldl State.retireFrame s
    s.modSlice n (fun c => { c with retire := c.retire.filter (fun f => (s.frame f).state != 3) })) s

end Sys2Proof.Machine
end

