-- ==== Sys2Proof/Machine/Ending.lean ====
section
/-!
DEFINITION. Ends that are not exits: a launch ended by the machine (02 R53), the rollback of a protected
launch (11 R275), the reset of a slice (17 R404).
-/

namespace Sys2Proof.Machine

/-- A firmware call of a thread that is taken off the machine goes on for nobody. -/
def Call.orphan (c : Call) (gone : Nat → Bool) : Call := { c with caller := c.caller.filter (fun id => !gone id.launch) }

/-- So does a revocation. -/
def Revocation.orphan (v : Revocation) (gone : Nat → Bool) : Revocation := { v with caller := v.caller.filter (fun x => !gone x.1.launch) }

/-- Takes everything of some launches off the machine: threads, trains, platform entries, groups, teams,
watchers, results in flight, replay entries, queued engine operations, and what saved images hold of them. -/
def State.evict (s : State) (gone : Nat → Bool) : State :=
  let s := { s with
    cur := s.cur.filter (fun t => !gone t.id.launch)
    threads := s.threads.filter (fun t => !gone t.id.launch)
    trains := s.trains.filter (fun r => !gone r.launch)
    plats := s.plats.filter (fun p => !gone p.launch)
    groups := s.groups.filter (fun g => !gone g.launch)
    teams := s.teams.filter (fun m => !gone m.launch)
    flights := s.flights.filter (fun f => !gone f.thread.launch)
    contexts := s.contexts.map (fun (c : Context) => { c with
      replay := c.replay.filter (fun f => !gone f.thread.launch)
      image := c.image.map (fun (i : Image) => { i with
        threads := i.threads.filter (fun t => !gone t.id.launch), trs := i.trs.filter (fun x => !gone x.launch)
        groups := i.groups.filter (fun g => !gone g.launch), teams := i.teams.filter (fun m => !gone m.launch)
        plats := i.plats.filter (fun p => !gone p.launch) })
      queues := c.queues.map (fun (q : EngineQueue) => { q with
        entries := q.entries.filter (fun e => !gone e.thread.launch) }) })
    vfs := s.vfs.map (fun (v : Vf) => { v with mapCalls := v.mapCalls.map (fun (c : Call) => c.orphan gone), catCalls := v.catCalls.map (fun (c : Call) => c.orphan gone) })
    tenants := s.tenants.map (fun (n : Tenant) => { n with revs := n.revs.map (fun (v : Revocation) => v.orphan gone) }) }
  s.unwatch (fun _ id => gone id.launch)

/-- The launches below a launch: its children, theirs, and so on. -/
def State.childrenOf (s : State) : Nat → List Nat → List Nat
  | 0, us => us
  | n + 1, us =>
    State.childrenOf s n (s.launches.foldl (fun us l => match l.origin with
      | .child p _ _ => if us.contains p && !us.contains l.uid then us ++ [l.uid] else us
      | .queue _ _ _ => us) us)

/-- A launch and every launch below it. -/
def State.family (s : State) (uid : Nat) : List Nat := s.childrenOf 11 [uid]

/-- The lowest group of a launch with a thread that has not exited, admitted or not. -/
def State.firstLive (s : State) (l : Launch) : Option Nat :=
  let saved := s.contexts.flatMap (fun (c : Context) => ((c.image.map (fun (i : Image) => i.threads)).getD []))
  let live := ((s.allThreads ++ saved).filter (fun (t : Thread) => t.id.launch == l.uid)).map (fun t => t.id.group)
  let all := live ++ (if l.teams * l.teamSize < l.groups then [l.teams * l.teamSize] else [])
  all.foldl (fun (m : Option Nat) g => match m with
    | none => some g
    | some k => some (min k g)) none

/-- Every thread not yet exited leaves with status 0xF4, threads never admitted included (R53). -/
def Launch.ended (l : Launch) (first : Option Nat) : Launch :=
  let rest := l.groups * l.tpg - l.count
  if rest = 0 then { l with phase := .finishing none }
  else { l with
    count := l.groups * l.tpg
    nonzero := l.nonzero + rest
    maxStatus := if l.maxStatus < 0xF4 then 0xF4 else l.maxStatus
    orStatus := l.orStatus ||| 0xF4
    firstGroup := match l.firstGroup, first with
      | none, f => f
      | some g, none => some g
      | some g, some f => some (min g f)
    reds := []
    phase := .finishing none }

/-- The machine ends running launches; their records are still to be written (R53). -/
def State.endLaunches (s : State) (us : List Nat) : State :=
  let s1 := us.foldl (fun (r : State) u => match s.launch u with
    | some l => if l.phase == .running then r.modLaunch u (fun l => l.ended (s.firstLive l)) else r
    | none => r) s
  s1.evict us.contains

/-- A command queue stops with an error, and the host is told (R333, R433). There is one error register: on a queue that has stopped already
a second error takes the place of the first (DESIGN CHOICE, log entry 86). -/
def State.stopQueue (s : State) (vf q index : Nat) (code : Byte) : State :=
  (s.modVf vf (fun v => { v with queues := modAt v.queues q (fun r => { r with
    stopped := true, errCode := code, errIndex := BitVec.ofNat 16 index }) })).emit (.msix vf 0)

/-- A context is saved: its state lies in an image (R399). -/
def State.stowed (s : State) (c : CtxId) : Bool :=
  match (s.context c).map (fun (x : Context) => x.life) with
  | some .saved => true
  | some (.exported _) => true
  | _ => false

/-- Each queue of a partition with a launch not yet complete stops with code 0x09 at the first such launch;
QHEAD and the period counter go back to it (R404 step 3, R386). -/
def State.rewindQueues (s : State) (part : Nat) : State :=
  (List.range 64).foldl (fun s q =>
    let firsts := s.launches.filterMap (fun l => match l.origin with
      | .queue vf k index => if vf == part && k == q && !s.stowed l.ctx then some (l.uid, index) else none
      | .child _ _ _ => none)
    match firsts.foldl (fun (m : Option (Nat × Nat)) x => match m with
        | none => some x
        | some y => if x.1 < y.1 then some x else some y) none with
    | none => s
    | some (uid, index) =>
      (s.stopQueue part q index 0x09).modVf part (fun v => { v with queues := modAt v.queues q (fun r => { r with
        qhead := index, period := (kvGet r.periods uid).getD r.period, periods := [], handle := none }) })) s

/-- Changes every context a test accepts. -/
def State.modContexts (s : State) (p : Context → Bool) (f : Context → Context) : State := { s with contexts := modWhere s.contexts p f }

/-- A context keeps nothing of its state but its handle table and its bindings (R394, R404): no queue contents, no allotment, no tile, no
counter, no list of lines; its CUs have their own numbers. -/
def State.clearContext (s : State) (id : CtxId) : State :=
  let s := s.modContext id (fun c => { c with
    queues := [], allots := [], replay := [], perf := [], tileMap := 0, spilled := [], lown := [], remap := List.range 192 })
  { s with cus := s.cus.map (fun c => { c with tiles := c.tiles.map (fun t => if t.owner = some id then Tile.reset else t) }) }

/-- A slice after its reset: caches, tables, engines, cycle count, monitor record and controller state cleared; event counters, clock,
power, the frames of the write log and the memory keys, which the Curator writes, kept (R268, R274, R336, R357, R382, R404 step 4). -/
def Slice.cleared (c : Slice) : Slice :=
  { c with tlb := [], l2 := [], log := [], rowGroups := [], rows := [], arb := [], windows := [], uses := [], waits := [], turns := []
           ways := List.replicate 16 0, own := [], keys := List.replicate 16 KeySlot.reset, cat := List.replicate 16 CatEntry.reset
           copy := CopyUnits.reset, tenths := 0, monitor := Monitor.reset, watchdog := false }

/-- A CU after a reset of its slice; the fairness limit is at its reset value (R175). -/
def Cu.cleared (_ : Cu) : Cu := Cu.reset

/-- A frozen item was to be changed while the interface was locked: it moves to ERROR (R417). -/
def State.frozen (s : State) (vf : Nat) : Bool := (s.vf vf).tdisp == .locked || (s.vf vf).tdisp == .run

/-- The interface moves to ERROR, and the host is told (R417, R433). -/
def State.tdispError (s : State) (vf : Nat) : State :=
  (s.modVf vf (fun v => { v with tdisp := .error })).emit (.msix vf 3)

/-- A page of a partition is waited for by something of a context that a test picks, on its CUs or saved. -/
def State.awaits (s : State) (part page : Nat) (pick : CtxId → Bool) : Bool :=
  let mine := fun (x : CtxId) => x.part == part && pick x
  let saved := s.contexts.flatMap (fun (c : Context) => ((c.image.map (fun (i : Image) => i.threads)).getD []))
  (s.allThreads ++ saved).any (fun t => mine t.ctx && (t.log.any (·.page == page) || match t.run with
      | .parked (.late (.page va)) _ => va / 65536 == page
      | _ => false))
    || s.contexts.any (fun x => mine x.id && x.queues.any (fun q => q.entries.any (fun e => e.page.any (·.1 == page))))
    || s.launches.any (fun l => mine l.ctx && (l.page == some page || l.phase == .finishing (some page)))
    || s.trains.any (fun r => r.page.map (· / 65536) == some page && ((s.launch r.launch).map (fun l => mine l.ctx)).getD false)

/-- The partition that owns a slice (R357). -/
def State.ownerOf (s : State) (slice : Nat) : Option Nat :=
  (List.range 16).find? (fun p => (s.part p).state != 0 && (s.part p).map.contains slice)

/-- A launch of a partition has ended and its record is still to be written, its context on its CUs. -/
def State.recordsDue (s : State) (p : Nat) : Bool :=
  s.launches.any (fun l => l.ctx.part == p && !s.stowed l.ctx && match l.phase with
    | .finishing _ => true
    | .waiting => false
    | .running => false)

/-- A partition is resetting while a slice of it is held, and after a reset until the records of the launches it ended are written; it
runs then (R358, R359, R404 steps 2 and 6). -/
def State.settleReset (s : State) (p : Nat) : State :=
  let held := (s.part p).map.any (fun n => (s.slice n).held)
  s.modPart p (fun e => { e with state :=
    if held then (if e.state = 0 then 0 else 4) else if e.state = 4 && !s.recordsDue p then 1 else e.state })

/-- The owner of a slice is resetting while the slice is held (R358). -/
def State.holdOwner (s : State) (slice : Nat) : State :=
  match s.ownerOf slice with
  | none => s
  | some p => s.settleReset p

/-- Writes of a partition that a reset of a slice keeps: performed with respect to every observer of the partition, their home another
slice (R8, R262). -/
def PStore.survives (p : PStore) (part slice : Nat) : Bool :=
  p.ctx.part == part && !p.done && !p.single && p.hidden.all (· == obsFab) && sliceOfPa p.pa != slice

/-- The page requests of a partition's old generation are over, the queue is empty and its registers are at their reset values (R4, R281,
R350; DESIGN CHOICE, log entry 87); the pages that a saved context waits for are asked for again once the host runs the queue (R359). -/
def State.renewRequests (s : State) (p : Nat) : State :=
  s.modVf p (fun v => { v with
    reqs := (v.reqs.filter (fun r => s.awaits p r.page s.stowed)).map (fun (r : PageReq) => { r with written := false })
    prBase := 0, prSize := 4, prTail := 0, prHead := 0, prRun := false })

/-- The accesses and calls of a virtual function that came before its partition's reset are discarded (R359, R360), but the calls of
threads of saved contexts. -/
def State.dropCalls (s : State) (p : Nat) : State :=
  let kept := fun (c : Call) => c.caller.any (fun id => s.contexts.any (fun (x : Context) => x.image.any (fun (i : Image) => i.threads.any (·.id == id))))
  ({ s with hostWaits := s.hostWaits.filter (·.vf != p) } : State).modVf p (fun v => { v with
    mapCalls := v.mapCalls.filter kept, catCalls := v.catCalls.filter kept })

/-- The reset of a slice that a partition owns, or of a free one (R404); a locked interface of it moves to ERROR (R417). A gated partition's
slices have power from then on, since it runs at the end (step 6; DESIGN CHOICE, log entry 39). -/
def State.resetSlice (s : State) (n : Nat) : State :=
  let clear : State → State := fun s =>
    let s := s.modSlice n Slice.cleared
    { s with
      cus := s.cus.mapIdx (fun i c => if sliceOf i == n then c.cleared else { c with keyCache := c.keyCache.filter (·.1 != n) })
      monitors := s.monitors.mapIdx (fun i m => if i / 3 == n then [] else m) }
  match s.ownerOf n with
  | none => clear s
  | some p =>
    let running := (s.launches.filter (fun l => l.ctx.part == p && l.phase == .running && !s.stowed l.ctx)).map (·.uid)
    let s : State := s.rewindQueues p
    let s := { s with launches := s.launches.filter (fun l => !(l.ctx.part == p && l.phase == Phase.waiting && !s.stowed l.ctx)) }
    let s : State := s.endLaunches running
    let s := s.commitWhere (·.survives p n)
    let s := { s with stores := s.stores.filter (fun q => q.ctx.part != p)
                      flights := s.flights.filter (fun f => f.part != p)
                      flows := s.flows.filter (fun f => !(s.part p).map.contains (sliceOf f.cu)) }
    let s := (s.contexts.filter (fun c => c.id.part == p && !s.stowed c.id)).foldl (fun s c => s.clearContext c.id) s
    let s := s.modContexts (fun c => c.id.part == p && c.life == .quiet) (fun c => { c with life := .resident })
    let s := clear s
    let s := s.retireQueued (fun f => f / 2 ^ 21 == n)
    let s := (s.part p).map.foldl (fun s n => s.modSlice n (fun c => { c with powered := true })) s
    let s := (s.dropCalls p).modPart p (fun e => { e with gen := e.gen + 1, state := 4 })
    let s := { s with maxGens := (s.part p).map.foldl (fun l n => modAt l n (fun g => if g.toNat < (s.part p).gen.toNat then (s.part p).gen else g)) s.maxGens }
    let s := (s.modVf p (fun v => { v with gen := (s.part p).gen })).renewRequests p
    let s := s.modSlice n (fun c => { c with ways := c.ways.set p 0xFFFFFFFF#32 })
    let s := if s.frozen p then s.tdispError p else s
    ((s.part p).reach.foldl (fun s r => s.emit (.generation r.1 p (s.part p).gen)) s).settleReset p

/-- Restores the pre-images of a slice's log, newest first, and empties it (R275). -/
def State.restoreLog (s : State) (n : Nat) : State :=
  let s := (s.slice n).log.foldl (fun s i =>
    { s with
      mem := memPatch s.mem (i.block * 64) 64 i.bytes
      tags := i.tags.foldl setAdd (setClear s.tags (4 * i.block) (4 * i.block + 4))
      poison := i.poison.foldl setAdd (setClear s.poison (4 * i.block) (4 * i.block + 4))
      ecc := s.ecc.filter (fun c => c.1 / 4 != i.block) }) s
  s.modSlice n (fun c => { c with log := [] })

/-- A launch at its kernel boundary again, for another run (R53, R275). -/
def Launch.again (l : Launch) : Launch :=
  { l with phase := .running, teams := 0, count := 0, nonzero := 0, maxStatus := 0, orStatus := 0
           firstGroup := none, reds := [], rollbacks := l.rollbacks + 1, canRoll := true, overflowed := false }

/-- AN UNCORRECTABLE READ UNDER A PROTECTED LAUNCH (R275): rollback and relaunch, or the launch ends
UNCORRECTABLE and every slice that holds such a granule is reset. A granule of another package has no pre-image and no slice here. -/
def State.rollback (s : State) (l : Launch) (bad : List Nat) : State :=
  let fam := s.family l.uid
  let slices := (s.part l.ctx.part).map
  let logged := !bad.isEmpty && bad.all (fun g => (s.slice (sliceOfPa (g * 16))).log.any (·.block == g / 4))
  if l.canRoll && logged && l.rollbacks < 3 then
    let s := s.evict fam.contains
    let s := { s with
      stores := s.stores.filter (fun q => !fam.contains q.thread.launch)
      launches := (s.launches.filter (fun k => k.uid == l.uid || !fam.contains k.uid)) }
    let s := slices.foldl State.restoreLog s
    s.modLaunch l.uid Launch.again
  else
    let s := s.endLaunches fam
    ((bad.map (fun g => sliceOfPa (g * 16))).eraseDups).foldl State.resetSlice s

/-- The protected launch that runs in a partition (R273). -/
def State.protectedLaunch (s : State) (part : Nat) : Option Launch :=
  s.launches.find? (fun l => l.flags.getLsbD 2 && l.phase == .running && l.ctx.part == part)

/-- The granules of [pa, pa + n) that answer a read with an error (R271). -/
def State.badGranules (s : State) (pa n : Nat) : List Nat :=
  (granulesOf pa n).filter (fun g => setHas s.poison g)

/-- An access of a partition met an uncorrectable table entry: the rollback of its protected launch (R275, R340 step 2). -/
def State.walkLost (s : State) (part va : Nat) (c : FClass) : Option State :=
  if c = .uncorrectable then (s.protectedLaunch part).map (fun l => s.rollback l (s.badPath part va)) else none

/-- What a thread's access comes to that its translation stops: a malformed entry is reported (R340). -/
def State.transFault (s : State) (t : Thread) (va : Nat) (c : FClass) (malformed : Bool) (addr : Word64) : Act :=
  let s := if malformed then s.emit (.malformedEntry t.ctx.part (va / 65536)) else s
  match s.walkLost t.ctx.part va c with
  | some s => .stop s
  | none => .err s c addr

/-- A thread's read of [pa, pa + n) met an error: rollback under a protected launch, else UNCORRECTABLE (R205,
R275). -/
def State.badRead (s : State) (t : Thread) (pa n : Nat) (addr : Word64) : Act :=
  match s.protectedLaunch t.ctx.part with
  | some l => .stop (s.rollback l (s.badGranules pa n))
  | none => .err s .uncorrectable addr

end Sys2Proof.Machine
end

