-- ==== Sys2Proof/Machine/Operands.lean ====
section
/-!
DEFINITION. Every operand form: the F source field (03 R58, R60), the lanes of an integer type (04 R96, R97),
floating-point sources (05 R119).
-/

namespace Sys2Proof.Machine

/-- Launch constant kN of the thread's launch (R59). -/
def State.const (s : State) (t : Thread) (n : Nat) : Word := ((s.launch t.id.launch).map (fun l => l.consts.getD n 0)).getD 0

/-- A 32-bit F source: a g register, `z`, or kN (R58). -/
def src32 (s : State) (t : Thread) (v : BitVec 10) : Nat :=
  let n := v.toNat
  if n < 512 then (t.reg n).toNat else if n = 512 then 0 else (s.const t (n - 512)).toNat

/-- A 64-bit integer F source: a pair, `z`, or kN sign- or zero-extended (R60). -/
def src64 (s : State) (t : Thread) (signed : Bool) (v : BitVec 10) : Nat :=
  let n := v.toNat
  if n < 512 then (t.pair n).toNat
  else if n = 512 then 0
  else
    let k := (s.const t (n - 512)).toNat
    if signed then wrapNat (sextNat k 32) 64 else k

/-- A source of an integer type (R96). -/
def srcInt (s : State) (t : Thread) (ty : Nat) (v : BitVec 10) : Nat :=
  if intWide ty then src64 s t (ty == 2) v else src32 s t v

/-- The lane width of an integer type (R96). -/
def laneWidth (ty : Nat) : Nat :=
  match ty with | 0 => 32 | 1 => 32 | 2 => 64 | 3 => 64 | 4 => 16 | 5 => 16 | _ => 8

/-- The number of lanes of an integer type (R96). -/
def laneCount (ty : Nat) : Nat :=
  match ty with | 0 => 1 | 1 => 1 | 2 => 1 | 3 => 1 | 4 => 2 | 5 => 2 | _ => 4

/-- The signed types (R96). -/
def laneSigned (ty : Nat) : Bool := ty % 2 == 0

/-- A lane's bits (R97). -/
def laneBits (ty v l : Nat) : Nat := v / 2 ^ (l * laneWidth ty) % 2 ^ laneWidth ty

/-- A lane's value, signed or unsigned by the type (R97). -/
def laneVal (ty v l : Nat) : Int :=
  if laneSigned ty then sextNat (laneBits ty v l) (laneWidth ty) else (laneBits ty v l : Int)

/-- Puts lane results together (R97). -/
def lanes (ty : Nat) (f : Nat → Int) : Nat :=
  (List.range (laneCount ty)).foldl (fun acc l => acc + wrapNat (f l) (laneWidth ty) * 2 ^ (l * laneWidth ty)) 0

/-- The floating-point formats: f32, f64, f16, bf16 (R118), by the scalar type codes of R62. -/
inductive Fmt where
  | f32 | f64 | f16 | bf16
  deriving DecidableEq, Repr

/-- The format of a lane of a floating-point type (R62). -/
def fmtOf (ty : Nat) : Fmt :=
  match ty with | 0 => .f32 | 1 => .f64 | 2 => .f16 | 3 => .bf16 | 4 => .f16 | _ => .bf16

/-- Precision p (R118). -/
def Fmt.prec : Fmt → Nat
  | .f32 => 24 | .f64 => 53 | .f16 => 11 | .bf16 => 8

/-- The exponent field's width (R118). -/
def Fmt.ebits : Fmt → Nat
  | .f32 => 8 | .f64 => 11 | .f16 => 5 | .bf16 => 8

/-- The width of the format. -/
def Fmt.width (f : Fmt) : Nat := f.prec + f.ebits

/-- The bias (R118). -/
def Fmt.bias (f : Fmt) : Nat := 2 ^ (f.ebits - 1) - 1

/-- A binary32 pattern widened exactly to binary64, a NaN with its sign, state and payload (R60). -/
def widenConst (k : Nat) : Nat :=
  let sign := k / 2 ^ 31 % 2
  let e := k / 2 ^ 23 % 256
  let m := k % 2 ^ 23
  let mag :=
    if e = 255 then 2047 * 2 ^ 52 + m * 2 ^ 29
    else if e = 0 then
      if m = 0 then 0
      else
        let len := bitLen m
        (len + 873) * 2 ^ 52 + (m * 2 ^ (53 - len)) % 2 ^ 52
    else (e + 896) * 2 ^ 52 + m * 2 ^ 29
  sign * 2 ^ 63 + mag

/-- A floating-point F source's bits: 64 for f64, else the low 32 (R60, R119). -/
def srcFloat (s : State) (t : Thread) (ty : Nat) (v : BitVec 10) : Nat :=
  if ty = 1 then
    let n := v.toNat
    if n < 512 then (t.pair n).toNat
    else if n = 512 then 0
    else widenConst (s.const t (n - 512)).toNat
  else src32 s t v

/-- Lane l of a floating-point operand of a type: the pattern in the lane's format (R119). -/
def floatLane (ty v l : Nat) : Nat :=
  match ty with
  | 0 => v % 2 ^ 32
  | 1 => v % 2 ^ 64
  | _ => v / 2 ^ (16 * l) % 2 ^ 16

/-- The number of lanes of a floating-point type. -/
def floatLanes (ty : Nat) : Nat := if ty = 4 || ty = 5 then 2 else 1

end Sys2Proof.Machine
end

