-- ==== Sys2Proof/Machine/Flags.lean ====
section
/-!
DEFINITION. Rounding and the flags it raises (05 R118, R124 to R130): values as exact dyadic numbers, one
rounding function for every format and mode, the clamp of .sat, the sign modifiers.
-/

namespace Sys2Proof.Machine

/-- The flag bits of s.fps (R95, R127). -/
def flagNV : BitVec 5 := 16
def flagDZ : BitVec 5 := 8
def flagOF : BitVec 5 := 4
def flagUF : BitVec 5 := 2
def flagNX : BitVec 5 := 1

/-- The four rounding modes (R124). -/
inductive Rnd where
  | rn | rz | rp | rm
  deriving DecidableEq, Repr

/-- The rounding of a code (R124). -/
def rndOf (code : Nat) : Rnd :=
  match code with | 0 => .rn | 1 => .rz | 2 => .rp | _ => .rm

/-- A floating-point datum: a NaN (signalling or quiet), an infinity, or the finite value (-1)^neg m 2^e. -/
inductive FVal where
  | nan (signalling : Bool)
  | inf (neg : Bool)
  | fin (neg : Bool) (m : Nat) (e : Int)
  deriving DecidableEq, Repr

/-- A result with the flags it raises. -/
structure FRes where
  bits : Nat
  flags : BitVec 5
  deriving DecidableEq, Repr

/-- The canonical NaN of a format (R118). -/
def Fmt.nan (f : Fmt) : Nat := (2 ^ f.ebits - 1) * 2 ^ (f.prec - 1) + 2 ^ (f.prec - 2)

/-- An infinity's pattern. -/
def Fmt.infinity (f : Fmt) (neg : Bool) : Nat :=
  (2 ^ f.ebits - 1) * 2 ^ (f.prec - 1) + if neg then 2 ^ (f.width - 1) else 0

/-- A zero's pattern. -/
def Fmt.zero (f : Fmt) (neg : Bool) : Nat := if neg then 2 ^ (f.width - 1) else 0

/-- The pattern of 1.0. -/
def Fmt.one (f : Fmt) : Nat := f.bias * 2 ^ (f.prec - 1)

/-- The exponent of the smallest normal (R118). -/
def Fmt.emin (f : Fmt) : Int := 1 - (f.bias : Int)

/-- Reads a pattern as the format's datum (R118). -/
def Fmt.read (f : Fmt) (x : Nat) : FVal :=
  let neg := decide (x / 2 ^ (f.width - 1) % 2 = 1)
  let e := x / 2 ^ (f.prec - 1) % 2 ^ f.ebits
  let m := x % 2 ^ (f.prec - 1)
  if e = 2 ^ f.ebits - 1 then (if m = 0 then .inf neg else .nan (decide (m < 2 ^ (f.prec - 2))))
  else if e = 0 then .fin neg m (f.emin - ((f.prec - 1 : Nat) : Int))
  else .fin neg (m + 2 ^ (f.prec - 1)) ((e : Int) - f.bias - ((f.prec - 1 : Nat) : Int))

/-- Whether a magnitude whose exact part is k steps, with a rest r of a step h = 2 halves (compared by `cmp`:
the rest against half a step), is rounded up. -/
def roundUp (md : Rnd) (neg odd : Bool) (inexact : Bool) (cmpHalf : Ordering) : Bool :=
  match md with
  | .rn => match cmpHalf with
    | .gt => true
    | .eq => odd
    | .lt => false
  | .rz => false
  | .rp => inexact && !neg
  | .rm => inexact && neg

/-- The number of steps of 2^q nearest under a mode to m 2^e, with a sticky rest below, and whether that is
inexact. -/
def roundSteps (md : Rnd) (neg : Bool) (m : Nat) (e q : Int) (sticky : Bool) : Nat × Bool :=
  if q ≤ e then (m * 2 ^ (e - q).toNat, sticky)
  else
    let sh := min (q - e).toNat (bitLen m + 2)
    let k := m / 2 ^ sh
    let r := m % 2 ^ sh
    let half := 2 ^ (sh - 1)
    let inexact := r != 0 || sticky
    let cmpHalf := if r < half then .lt else if r = half then (if sticky then .gt else .eq) else Ordering.gt
    (if roundUp md neg (k % 2 = 1) inexact cmpHalf then k + 1 else k, inexact)

/-- The overflow result of R124. -/
def overflowBits (f : Fmt) (md : Rnd) (neg : Bool) : Nat :=
  let big := f.infinity neg - 1
  match md with
  | .rn => f.infinity neg
  | .rz => big
  | .rp => if neg then big else f.infinity neg
  | .rm => if neg then f.infinity neg else big

/-- Rounds a nonzero magnitude m 2^e (with a sticky rest) into a format: overflow, gradual underflow, flags
(R124, R125). -/
def roundMag (f : Fmt) (md : Rnd) (neg : Bool) (m : Nat) (e : Int) (sticky : Bool) : FRes :=
  let top : Int := e + (bitLen m : Int) - 1
  if (f.bias : Int) < top then { bits := overflowBits f md neg, flags := flagOF ||| flagNX }
  else
    let p1 : Int := ((f.prec - 1 : Nat) : Int)
    let q : Int := max top f.emin - p1
    let (r, inexact) := roundSteps md neg m e q sticky
    let mag := (q + p1 + (f.bias : Int) - 1).toNat * 2 ^ (f.prec - 1) + r
    if f.infinity false ≤ mag then { bits := overflowBits f md neg, flags := flagOF ||| flagNX }
    else
      let (ru, _) := roundSteps md neg m e (top - p1) sticky
      let tiny := decide (top < f.emin) && !(decide (top + 1 = f.emin) && ru == 2 ^ f.prec)
      { bits := mag + if neg then 2 ^ (f.width - 1) else 0
        flags := (if inexact then flagNX else 0) ||| (if tiny && inexact then flagUF else 0) }

/-- Whether an exact magnitude is tiny, rounded to nearest (R125). -/
def isTiny (f : Fmt) (m : Nat) (e : Int) (sticky : Bool) : Bool :=
  let top : Int := e + (bitLen m : Int) - 1
  let p1 : Int := ((f.prec - 1 : Nat) : Int)
  let (ru, _) := roundSteps .rn false m e (top - p1) sticky
  decide (top < f.emin) && !(decide (top + 1 = f.emin) && ru == 2 ^ f.prec)

/-- Rounds an exact finite value; an exact zero keeps its sign (R6). -/
def roundVal (f : Fmt) (md : Rnd) (neg : Bool) (m : Nat) (e : Int) (sticky : Bool) : FRes :=
  if m = 0 && !sticky then { bits := f.zero neg, flags := 0 } else roundMag f md neg m e sticky

/-- A NaN result with the flags of its signalling operands (R126). -/
def nanRes (f : Fmt) (flags : BitVec 5) : FRes := { bits := f.nan, flags := flags }

/-- The invalid result. -/
def invalidRes (f : Fmt) : FRes := { bits := f.nan, flags := flagNV }

/-- Whether a datum is a NaN. -/
def FVal.isNan : FVal → Bool
  | .nan _ => true
  | .inf _ => false
  | .fin _ _ _ => false

/-- Whether a datum is a signalling NaN. -/
def FVal.isSnan : FVal → Bool
  | .nan s => s
  | .inf _ => false
  | .fin _ _ _ => false

/-- The flag of the signalling NaNs among operands (R126). -/
def snanFlag (l : List FVal) : BitVec 5 := if l.any FVal.isSnan then flagNV else 0

/-- The exact product of two data; none for 0 times infinity, a NaN for a NaN operand. -/
def prodVal : FVal → FVal → Option FVal
  | .nan s, _ => some (.nan s)
  | _, .nan s => some (.nan s)
  | .inf a, .inf b => some (.inf (xor a b))
  | .inf a, .fin b m _ => if m = 0 then none else some (.inf (xor a b))
  | .fin a m _, .inf b => if m = 0 then none else some (.inf (xor a b))
  | .fin a m e, .fin b n k => some (.fin (xor a b) (m * n) (e + k))

/-- The sign of an exact zero sum: of like signs that sign, else + (− under .rm) (R124). -/
def zeroSign (md : Rnd) (signs : List Bool) : Bool :=
  if signs.all id then true else if signs.all (!·) then false else md == .rm

/-- The finite terms of a sum as sign, magnitude, exponent. -/
def finTerms (l : List FVal) : List (Bool × Nat × Int) :=
  l.filterMap (fun v => match v with
    | .fin n m e => some (n, m, e)
    | .inf _ => none
    | .nan _ => none)

/-- The lowest exponent of a list of finite terms. -/
def lowExp (l : List (Bool × Nat × Int)) : Int :=
  match l with
  | [] => 0
  | (_, _, e) :: r => r.foldl (fun acc t => min acc t.2.2) e

/-- The exact sum of finite terms, in units of 2^lowExp. -/
def exactSum (l : List (Bool × Nat × Int)) : Int :=
  let e0 := lowExp l
  l.foldl (fun acc t => let v : Int := ((t.2.1 * 2 ^ (t.2.2 - e0).toNat : Nat) : Int); if t.1 then acc - v else acc + v) 0

/-- The sum of data without a NaN, rounded once: infinities of opposite signs are invalid, an exact zero takes
`zeroSign` (R124, R127, R133, R134). -/
def sumRes (f : Fmt) (md : Rnd) (l : List FVal) : FRes :=
  let infs := l.filterMap (fun v => match v with
    | .inf n => some n
    | .fin _ _ _ => none
    | .nan _ => none)
  match infs with
  | n :: rest => if rest.all (· == n) then { bits := f.infinity n, flags := 0 } else invalidRes f
  | [] =>
    let ts := finTerms l
    let v := exactSum ts
    if v = 0 then { bits := f.zero (zeroSign md (ts.map (·.1))), flags := 0 }
    else roundMag f md (decide (v < 0)) v.natAbs (lowExp ts) false

/-- x + y, rounded once. -/
def addRes (f : Fmt) (md : Rnd) (x y : FVal) : FRes :=
  if x.isNan || y.isNan then nanRes f (snanFlag [x, y]) else sumRes f md [x, y]

/-- The negation of a datum. -/
def FVal.neg : FVal → FVal
  | .nan s => .nan s
  | .inf n => .inf (!n)
  | .fin n m e => .fin (!n) m e

/-- x × y, rounded once. -/
def mulRes (f : Fmt) (md : Rnd) (x y : FVal) : FRes :=
  match prodVal x y with
  | none => invalidRes f
  | some (.nan _) => nanRes f (snanFlag [x, y])
  | some (.inf n) => { bits := f.infinity n, flags := 0 }
  | some (.fin n m e) => roundVal f md n m e false

/-- x × y + z, rounded once; 0 × ∞ is invalid even with a quiet NaN addend (R127). -/
def fmaRes (f : Fmt) (md : Rnd) (x y z : FVal) : FRes :=
  match prodVal x y with
  | none => invalidRes f
  | some p =>
    if p.isNan || z.isNan then nanRes f (snanFlag [x, y, z]) else sumRes f md [p, z]

/-- x / y, rounded once (R133). -/
def divRes (f : Fmt) (md : Rnd) (x y : FVal) : FRes :=
  match x, y with
  | .nan _, _ => nanRes f (snanFlag [x, y])
  | _, .nan _ => nanRes f (snanFlag [x, y])
  | .inf _, .inf _ => invalidRes f
  | .inf a, .fin b _ _ => { bits := f.infinity (xor a b), flags := 0 }
  | .fin a _ _, .inf b => { bits := f.zero (xor a b), flags := 0 }
  | .fin a m e, .fin b n k =>
    if n = 0 then (if m = 0 then invalidRes f else { bits := f.infinity (xor a b), flags := flagDZ })
    else if m = 0 then { bits := f.zero (xor a b), flags := 0 }
    else
      let sh := f.prec + 3 + bitLen n
      roundMag f md (xor a b) (m * 2 ^ sh / n) (e - k - (sh : Int)) (m * 2 ^ sh % n != 0)

/-- The square root of a positive dyadic number: m 2^e and whether a rest is below. -/
def sqrtDyadic (p m : Nat) (e : Int) : Nat × Int × Bool :=
  let sh := 2 * (p + 3) + (if (e - ((2 * (p + 3) : Nat) : Int)) % 2 = 0 then 0 else 1)
  let x := m * 2 ^ sh
  let r := isqrt (bitLen x / 2 + 1) x
  (r, (e - (sh : Int)) / 2, r * r != x)

/-- sqrt x, rounded once (R133). -/
def sqrtRes (f : Fmt) (md : Rnd) (x : FVal) : FRes :=
  match x with
  | .nan _ => nanRes f (snanFlag [x])
  | .inf n => if n then invalidRes f else { bits := f.infinity false, flags := 0 }
  | .fin n m e =>
    if m = 0 then { bits := f.zero n, flags := 0 }
    else if n then invalidRes f
    else
      let (r, k, st) := sqrtDyadic f.prec m e
      roundMag f md false r k st

/-- The clamp of .sat to [0, 1] (R129). -/
def clamp01 (f : Fmt) (x : Nat) : Nat :=
  match f.read x with
  | .nan _ => 0
  | .inf n => if n then 0 else f.one
  | .fin n m _ => if n || m = 0 then 0 else if f.one < x then f.one else x

/-- A result under the saturate bit (R129). -/
def satRes (f : Fmt) (sat : Bool) (r : FRes) : FRes := if sat then { r with bits := clamp01 f r.bits } else r

/-- The negate and absolute modifiers on a pattern: they act on the sign bit alone (R62, R130). -/
def signMods (f : Fmt) (neg abs : Bool) (x : Nat) : Nat :=
  let h := 2 ^ (f.width - 1)
  let x := if abs then x % h else x
  if neg then (if x < h then x + h else x - h) else x

/-- The smaller of two data in the order of R135: −0 below +0. True when x is to be taken. -/
def leVal (x y : FVal) : Bool :=
  match x, y with
  | .inf a, _ => a || y == .inf false
  | _, .inf b => !b
  | .fin a m e, .fin b n k =>
    if m = 0 && n = 0 then a || !b
    else
      let lo := min e k
      let v := fun (s : Bool) (m : Nat) (e : Int) => let x : Int := ((m * 2 ^ (e - lo).toNat : Nat) : Int); if s then -x else x
      decide (v a m e ≤ v b n k)
  | .nan _, _ => true
  | _, .nan _ => true

/-- Minimum or maximum of two patterns (R135). -/
def minMaxRes (f : Fmt) (takeMax : Bool) (x y : Nat) : FRes :=
  let a := f.read x
  let b := f.read y
  let flags := snanFlag [a, b]
  if a.isNan && b.isNan then { bits := f.nan, flags := flags }
  else if a.isNan then { bits := y, flags := flags }
  else if b.isNan then { bits := x, flags := flags }
  else { bits := if leVal a b != takeMax then x else y, flags := flags }

/-- Numeric comparison of two data that are no NaN: less, equal, greater; zeros are equal (R137). -/
def cmpVal (x y : FVal) : Ordering :=
  match x, y with
  | .fin _ 0 _, .fin _ 0 _ => .eq
  | _, _ => if leVal x y then (if leVal y x then .eq else .lt) else .gt

end Sys2Proof.Machine
end

