-- ==== Sys2Proof/Machine/Access.lean ====
section
/-!
DEFINITION. What every access of a thread does around its own effect: effective addresses (08 R203, R204), the
watch of a debug session (18 R425), where it lands (14 R338), the operand log (07 R183 to R185), peer packets
(15 R379), and the effects of loads, stores and atomics at the place where they land (08 R205 to R207, 09 R221
to R233, 10 R245 to R249).
-/

namespace Sys2Proof.Machine

/-! ## Where an access lands -/

/-- The global virtual address an access is translated at (R338): private addresses lie in the thread's slab,
peer offsets of the own package in the own table. None for scratchpad, cluster-shared and other packages. -/
def State.gva (s : State) (t : Thread) (space a : Nat) : Option Nat :=
  match space with
  | 0 => some a
  | 5 => some a
  | 4 => (s.context t.ctx).map (fun c => c.privBase + t.slab * c.slabSize + a % 2 ^ 56)
  | 1 => if a / 2 ^ 46 % 2 ^ 10 = (s.part t.ctx.part).pkg.toNat then some (a % 2 ^ 46) else none
  | _ => none

/-- The outcome of locating an access: a place, a fault, an absent page's global address (R340). -/
inductive Landing where
  | ok (l : Loc)
  | bad (c : FClass) (malformed : Bool)
  | absent (va : Nat)
  deriving DecidableEq, Repr

/-- Where an access that passed the dereference check lands (R338, R340, R216, R217). -/
def State.land (s : State) (t : Thread) (space a0 : Nat) (w : Want) : Landing :=
  let a := s.remapped t space a0
  let p := s.part t.ctx.part
  match space with
  | 3 => let r := s.region t t.cu; .ok (.sram t.cu (r.base + a % 2 ^ 32))
  | 2 =>
    let r := s.region t (p.physicalCu (a / 2 ^ 32 % 2 ^ 24 * 4 + a / 2 ^ 20 % 2 ^ 12))
    .ok (.sram r.cu (r.base + a % 2 ^ 20))
  | _ => match s.gva t space a with
    | none => .ok (.peer (a / 2 ^ 46 % 2 ^ 10) (a % 2 ^ 46))
    | some va => match s.xlateBy (some t.cu) t.ctx.part va w with
      | .absent => .absent va
      | .bad c m => .bad c m
      | .ok pa e _ => .ok (.hbm pa (entryKind e) (entryTC e))

/-- The global virtual address that an access of a thread is translated at, if it is. -/
def State.landVa (s : State) (t : Thread) (space a : Nat) : Option Nat :=
  if space = 2 || space = 3 then none else s.gva t space (s.remapped t space a)

/-- What locating an access does besides its answer: the walk's reads, and the TLBs it fills (R341). -/
def State.touched (s : State) (t : Thread) (space a : Nat) : State :=
  match s.landVa t space a with
  | some va => s.translated (some t.cu) t.ctx.part va
  | none => s

/-- A thread's access that its translation stops (R340). -/
def State.landFault (s : State) (t : Thread) (space : Nat) (ea : Int) (c : FClass) (malformed : Bool) : Act :=
  (s.touched t space ea.toNat).transFault t ((s.landVa t space ea.toNat).getD ea.toNat) c malformed (faddr ea)

/-- A watch range of the thread's context catches an access (R425). -/
def State.watched (s : State) (t : Thread) (space a : Nat) (n : Nat) (rd wr : Bool) : Bool :=
  t.debug && !t.watchSkip && match s.context t.ctx, s.gva t space a with
    | some c, some va => c.watches.any (fun r =>
        r.kinds.getLsbD 2 && ((rd && r.kinds.getLsbD 0) || (wr && r.kinds.getLsbD 1))
          && va < r.base.toNat + r.len.toNat && r.base.toNat < va + n)
    | _, _ => false

/-- A hit: the thread parks at its word and the session hears of it (R425). -/
def State.watchStop (s : State) (t : Thread) (ea : Int) : Act :=
  let id := ((s.context t.ctx).bind (·.session)).getD 0
  .park (s.emit (.debugHit id t.id .watch (pcBits t.blk t.off) (faddr ea))) { t with watchSkip := true }
    (.debug .watch (faddr ea))

/-! ## Peer packets (R261, R378, R379) -/

/-- The reach-table entry of a package. -/
def Partition.reachEntry (p : Partition) (pkg : Nat) : BitVec 32 := (kvGet p.reach pkg).getD 0

/-- A packet leaves for a package, by a port of its entry's mask that the device chooses (R379). -/
def State.onWire (s : State) (part pkg : Nat) (p : PeerPacket) : State :=
  let ports := (List.range 12).filter (fun i => ((s.part part).reachEntry pkg).getLsbD (19 + i) && s.portOpen i)
  let (n, s) := s.draw
  let port := ports.getD (n % ports.length) 0
  s.emit (.packet pkg port { p with port := port })

/-- Sends a request on the flow of a CU to a package: its packet, with the flow's next sequence number. -/
def State.sendPeer (s : State) (cu part pkg off : Nat) (op : PeerOp) : PeerPacket × State :=
  let p := s.part part
  let same := fun (f : Flow) => f.cu == cu && f.pkg == pkg && f.tenant == p.tenant
  let q := ((s.flows.find? same).map (·.next)).getD 0
  let k : PeerPacket := { src := p.pkg.toNat, srcPart := part, cu := cu, fabric := p.fabric
                          part := (p.reachEntry pkg).toNat / 2 ^ 15 % 16, gen := p.gen, seq := q, home := none, off := off, port := 0, op := op }
  let s := if s.flows.any same then { s with flows := modWhere s.flows same (fun f => { f with next := f.next + 1 }) }
    else { s with flows := s.flows ++ [{ cu := cu, pkg := pkg, tenant := p.tenant, next := 1 }] }
  (k, s.onWire part pkg k)

/-- The class an error response names (R381). -/
def classOf (c : Byte) : FClass :=
  match c.toNat with
  | 0x21 => .pagePerm
  | 0x40 => .uncorrectable
  | _ => .owner

/-- A thread's peer request, and its result in flight. A read waits for its beat, which coalesces it by line; on its own it asks for the
smallest block that covers its bytes (R210). -/
def State.peerFlight (s : State) (t : Thread) (pkg off n : Nat) (op : PeerOp) (kind : FlightKind) (acq : Option Nat) : State :=
  let base := off / 128 * 128
  let lo := off % 128
  let (unsent, pk, s) : Option Bool × Option PeerPacket × State := match op with
    | .read _ tagged =>
      if s.gathers t then (some tagged, none, s)
      else
        let (pk, s) := s.sendPeer t.cu t.ctx.part pkg (base + grainBase lo (lo + n)) (.read (grainOf lo (lo + n)) tagged)
        (none, some pk, s)
    | .desc | .write _ _ _ | .atom _ _ _ _ | .acas _ _ _ | .acasc _ _ => let (pk, s) := s.sendPeer t.cu t.ctx.part pkg off op; (none, some pk, s)
  { s with
    nextReq := s.nextReq + 1
    flights := s.flights ++ [{ req := s.nextReq, thread := t.id, part := t.ctx.part, gen := (s.part t.ctx.part).gen
                               kind := kind, loc := .peer pkg off, n := n, blk := t.blk, off := t.off
                               packet := pk, answer := none, replay := false, acq := acq, unsent := unsent }] }

/-- The line of another package that a result in flight reads. -/
def Flight.peerLine (f : Flight) : Option (Nat × Nat) :=
  match f.loc with
  | .peer pkg off => some (pkg, off / 128)
  | .hbm _ _ _ => none
  | .sram _ _ => none

/-- The offset of a result in flight within its line. -/
def Flight.inLine (f : Flight) : Nat :=
  match f.loc with
  | .peer _ off => off % 128
  | .hbm _ _ _ => 0
  | .sram _ _ => 0

/-- One packet goes out for the reads of a beat in one line: the smallest block that covers them (R210). -/
def State.sendLine (s : State) (f : Flight) : State :=
  match s.flights.find? (·.req == f.req), f.peerLine, s.thread f.thread with
  | some g, some (pkg, line), some t =>
    match g.unsent with
    | none => s
    | some tagged =>
      let mates := s.flights.filter (fun h => h.unsent == some tagged && h.peerLine == f.peerLine && h.blk == f.blk && h.off == f.off
        && h.thread.launch == f.thread.launch && h.thread.group == f.thread.group && !s.beatGoes h.thread)
      let lo := mates.foldl (fun m h => min m h.inLine) 128
      let hi := mates.foldl (fun m h => max m (h.inLine + h.n)) 0
      let (pk, s) := s.sendPeer t.cu t.ctx.part pkg (line * 128 + grainBase lo hi) (.read (grainOf lo hi) tagged)
      { s with flights := modWhere s.flights (fun h => mates.any (·.req == h.req)) (fun h => { h with packet := some pk, unsent := none }) }
  | _, _, _ => s

/-- The peer reads of beats that are over are sent. -/
def State.sendReads (s : State) : State :=
  (s.flights.filter (fun f => f.unsent.isSome && !s.beatGoes f.thread)).foldl State.sendLine s

/-- What of an answer to a coalesced read is a result's own. -/
def Flight.share (f : Flight) (r : PeerResult) : PeerResult :=
  match r, f.packet, f.loc with
  | .data bytes tags, some pk, .peer _ off => .data ((bytes.drop (off - pk.off)).take f.n) (tags.drop (off / 16 - pk.off / 16))
  | r, _, _ => r

/-- An error answer to a thread's peer access: the fault it names (R381); an uncorrectable read under a protected launch ends that launch
(R275). -/
def State.peerError (s : State) (t : Thread) (c : FClass) (addr : Word64) : Act :=
  match (if c = .uncorrectable then s.protectedLaunch t.ctx.part else none) with
  | some l => .stop (s.rollback l [])
  | none => .err s c addr

/-- A thread's peer access: the request is sent, the thread is held at its word until the answer comes, then
the word goes on with it; an error is the fault it names (R380, R381). -/
def State.peerCall (s : State) (t : Thread) (pkg off n : Nat) (op : PeerOp) (ea : Int) (k : State → PeerResult → Act) : Act :=
  let mine := fun (f : Flight) => f.thread == t.id && f.kind == .peer && f.blk == t.blk && f.off == t.off
  match s.flights.find? mine with
  | some f => match f.answer with
    | none => s.holdFor t (·.req == f.req)
    | some r =>
      let s := { s with flights := s.flights.filter (fun f => !mine f) }
      match r with
      | .error c => s.peerError t (classOf c) (faddr ea)
      | .data _ _ => k s (f.share r)
      | .ack => k s r
  | none => (s.peerFlight t pkg off n op .peer none).holdFor t (·.req == s.nextReq)

/-- An access to another package's SO page orders the thread's RC accesses as one to an SO page here (R245): it is sent once they are
performed. A request already sent is not held again. -/
def State.peerOrdered (s : State) (t : Thread) (pkg off : Nat) : Bool :=
  !Config.peerSo pkg (off / 65536) s.time || s.orderMet t 5 false || s.sentWord t

/-- A launch that makes a peer write or a `.sys` atomic cannot be rolled back (R274). -/
def State.noRollback (s : State) (uid : Nat) : State :=
  let us := s.launches.filterMap (fun l => if l.flags.getLsbD 2 && (s.family l.uid).contains uid then some l.uid else none)
  us.foldl (fun s u => s.modLaunch u (fun l => { l with canRoll := false })) s

/-- An address of the peer window (R156). -/
def peerAddr (ea : Nat) : Bool := ea / 2 ^ 56 == 1

/-- The peer address of a result in flight. -/
def Flight.peerAddr (f : Flight) : Word64 :=
  match f.loc with
  | .peer pkg off => BitVec.ofNat 64 (2 ^ 56 + pkg * 2 ^ 46 + off)
  | .hbm _ _ _ => 0
  | .sram _ _ => 0

/-- A write through a peer address is a peer write, of the own package too (R274, R378). -/
def State.peerMark (s : State) (uid ea : Nat) : State := if peerAddr ea then s.noRollback uid else s

/-! ## Loads where they land -/

/-- A loaded value of n bytes goes to its registers (R206). -/
def Thread.loaded (t : Thread) (d n : Nat) (sign : Bool) (bytes : List Byte) : Thread :=
  let v := bytesNat bytes
  if n < 4 then t.setReg d (BitVec.ofNat 32 (if sign then wrapNat (sextNat v (8 * n)) 32 else v))
  else t.setData (n / 4) d v

/-- The tag a loaded capability gets (R207): the granule's, under LC, of a colour that is live in the tenant's table, whatever the
thread's train has still to take. -/
def State.loadTag (s : State) (t : Thread) (bytes : List Byte) (tag lc : Bool) : Cap :=
  let c : Cap := { bits := BitVec.ofNat 128 (bytesNat bytes), tag := false }
  c.withTag (tag && lc && s.colourState t.ctx.part c.colour == 1)

/-- What a load or a late result writes. -/
def State.writeLoad (s : State) (t : Thread) (k : FlightKind) (n : Nat) (bytes : List Byte) (tag : Bool) : Thread :=
  match k with
  | .load d sign => t.loaded d n sign bytes
  | .loadCap d lc => t.setQuad d (s.loadTag t bytes tag lc)
  | .peer => t
  | .store => t
  | .engine _ _ _ => t
  | .cmd _ => t

/-- The read of a late load, when its result comes (R209, R360): its registers are written. A load from another package gets its bytes
there. -/
def State.landFlight (s : State) (f : Flight) : State :=
  match f.kind, f.loc, s.thread f.thread with
  | .peer, _, _ => s
  | .store, _, _ => s
  | .engine _ _ _, _, _ => s
  | .cmd _, _, _ => s
  | _, .peer _ _, _ => s
  | k, _, some t =>
    let s := { s with flights := s.flights.filter (·.req != f.req) }
    let bytes := s.seenBytes t.sees f.loc.key f.n
    let tag := f.loc.tagged && s.seenTag t.sees (f.loc.key / 16)
    let (s, t) := s.readBy t f.acq t.sees f.loc.key f.n
    s.putThread (s.writeLoad t k f.n bytes tag)
  | _, _, none => { s with flights := s.flights.filter (·.req != f.req) }

/-- Every write of the package is performed; the late loads that one may not overtake land first (R246). -/
def State.settleWrites (s : State) : State :=
  ((s.flights.filter (fun f => s.stores.any (fun p => !p.done && f.thread == p.thread && f.req < p.req))).foldl State.landFlight s).commitAll

/-- The late loads of a thread land. -/
def State.landFlights (s : State) (id : TId) : State :=
  (s.flights.filter (fun f => f.thread == id)).foldl State.landFlight s

/-- An earlier result in flight of the thread that reads some of [pa, pa + n). -/
def Thread.flightOver (t : Thread) (pa n : Nat) (f : Flight) : Bool :=
  f.thread == t.id && !t.later f.req && match f.loc with
    | .peer _ _ => false
    | .hbm _ _ _ | .sram _ _ => f.loc.key < pa + n && pa < f.loc.key + f.n

/-- An earlier result in flight of the thread reads some of [pa, pa + n) (R246). -/
def State.ownFlightOver (s : State) (t : Thread) (pa n : Nat) : Bool := s.flights.any (t.flightOver pa n)

/-- An earlier read in flight of the thread; the request of the word it is held at is none. -/
def Thread.ownFlight (t : Thread) (f : Flight) : Bool :=
  f.ownRead && f.thread == t.id && !t.later f.req && !(f.kind == .peer && f.blk == t.blk && f.off == t.off)

/-- Whether the thread has an earlier read in flight. -/
def State.ownFlight (s : State) (t : Thread) : Bool := s.flights.any t.ownFlight

/-- An acquire of the thread whose read has not returned, as an access of a kind of page sees it. -/
def Thread.acquireOut (t : Thread) (kind : OrderKind) (f : Flight) : Bool :=
  kind != .un && f.thread == t.id && f.acq.isSome && !t.later f.req

/-- An acquire whose read has not returned holds back the thread's later accesses, but those of UN pages (R209, R249). -/
def State.acquireHolds (s : State) (t : Thread) (kind : OrderKind) : Bool := s.flights.any (t.acquireOut kind)

/-- The slice whose memory an access reaches is held in reset: the access waits until that ends (R354). -/
def State.sliceHeld (s : State) (l : Loc) : Bool :=
  match l with
  | .hbm pa _ _ => s.underReset pa
  | .sram _ _ => false
  | .peer _ _ => false

/-- A load of n bytes at its place: the read, its errors, its order; the result is written at once, or late
when the memory chooses so (R205 to R209, R243, R245, R249). `acq` is the level of an acquire's scope, `ev` the evict-first hint. -/
def State.loadAt (s : State) (t : Thread) (l : Loc) (n : Nat) (ea : Int) (acq : Option Nat) (tagged ev : Bool) (k : FlightKind) : Act :=
  match l with
  | .peer pkg off =>
    if !s.peerOrdered t pkg off then .hold s t (.order 5 false)
    else if s.acquireHolds t .rc then s.holdFor t (t.acquireOut .rc)
    else if s.memLate && !s.sentWord t then
      .go (s.peerFlight t pkg off n (.read n tagged) k (if Config.peerSo pkg (off / 65536) s.time then some 5 else acq)) t
    else s.peerCall t pkg off n (.read n tagged) ea (fun s r => match r with
      | .data bytes tags => .go s (s.writeLoad t k n bytes (tags.headD false))
      | .ack => .go s t
      | .error _ => .go s t)
  | .hbm _ _ _ | .sram _ _ =>
    let pa := l.key
    let so := l.kind == .so
    let acq := if so then some 5 else acq
    if so && !s.orderMet t 5 false then .hold s t (.order 5 false)
    else if s.acquireHolds t l.kind || s.ownFlightOver t pa n then s.holdFor t (fun f => t.acquireOut l.kind f || t.flightOver pa n f)
    else if s.sliceHeld l then s.holdAgain t
    else
      let (served, s) := match l with
        | .sram _ _ | .peer _ _ => (true, s)
        | .hbm _ _ _ => (s.settleFrame pa).beatRead t pa n ev
      let (bad, s) := match l with
        | .sram _ _ | .peer _ _ => (false, s)
        | .hbm _ _ _ => if served then s.readSeen t.sees (tagged && l.tagged) pa n else (false, s)
      if !served then s.holdAgain t
      else if bad then s.badRead t pa n (faddr ea)
      else if s.memLate && !so then
        .go { s with
          nextReq := s.nextReq + 1
          flights := s.flights ++ [{ req := s.nextReq, thread := t.id, part := t.ctx.part
                                     gen := (s.part t.ctx.part).gen, kind := k, loc := l, n := n, blk := t.blk
                                     off := t.off, packet := none, answer := none, replay := false, acq := acq, unsent := none }] } t
      else
        let (s, t) := s.readBy t acq t.sees pa n
        .go s (s.writeLoad t k n (s.seenBytes t.sees pa n) (l.tagged && s.seenTag t.sees (pa / 16)))

/-! ## Stores where they land -/

/-- A store at its place once its order is met (R222 to R224): an SO page is written at once (R245), with the other stores of the
thread's beat; any other
write enters the coherence order. What is written at once, or leaves the package, waits for every earlier read of its thread (R246). A
write to another package is sent, and the thread goes on (R261); one to an SO page there is
performed before it does (R245). -/
def State.storeHere (s : State) (t : Thread) (l : Loc) (bytes : List Byte) (tag : Option Bool) (heads : List Head) (ea : Int) : Act :=
  let n := bytes.length
  let pa := l.key
  if s.acquireHolds t l.kind then s.holdFor t (t.acquireOut l.kind)
  else if s.sliceHeld l then s.holdAgain t
  else match l with
    | .peer pkg off =>
      let op : PeerOp := .write bytes tag tag.isSome
      if s.ownFlight t then s.holdFor t t.ownFlight
      else if Config.peerSo pkg (off / 65536) s.time then
        if !s.peerOrdered t pkg off then .hold s t (.order 5 false)
        else (s.noRollback t.id.launch).peerCall t pkg off n op ea (fun s _ => .go s t)
      else .go ((s.peerFlight t pkg off n op .store none).noRollback t.id.launch) t
    | .sram cu off =>
      if s.memLate then
        if s.ownFlightOver t pa n then s.holdFor t (t.flightOver pa n) else .go (s.pushStore t .rc pa bytes tag heads none) t
      else if s.ownFlight t then s.holdFor t t.ownFlight
      else .go ((s.sramWrite cu off bytes tag).keepHeads pa bytes (heads ++ t.fenced)) t
    | .hbm pa kind _ =>
      if kind == OrderKind.so && !s.orderMet t 5 false then .hold s t (.order 5 false)
      else if kind == OrderKind.so && s.ownFlight t then s.holdFor t t.ownFlight
      else if s.ownFlightOver t pa n then s.holdFor t (t.flightOver pa n)
      else
        let s := (s.peerMark t.id.launch ea.toNat).settleFrame pa
        if kind == OrderKind.so && !s.gathers t then
          .go (((s.chargeWrite t.ctx.part pa n).writeBy t.sees pa bytes tag).keepHeads pa bytes (heads ++ t.fenced)) t
        else .go (s.pushStore t kind pa bytes tag heads none) t

/-- A store of bytes, with the tag it leaves: a release waits for its order first (R248). -/
def State.storeAt (s : State) (t : Thread) (l : Loc) (bytes : List Byte) (tag : Option Bool) (rel : Option Nat) (ea : Int) : Act :=
  match rel with
  | some level =>
    if s.orderMet t level false then s.storeHere t l bytes tag [s.headOfRelease t level false] ea else .hold s t (.order level false)
  | none => s.storeHere t l bytes tag [] ea

/-! ## Atomics where they land (R227 to R233) -/

/-- The new value of an atomic (R227). -/
def atomVal (op : Nat) (wide : Bool) (old v : Nat) : Nat :=
  let n := if wide then 64 else 32
  let f := if wide then Fmt.f64 else Fmt.f32
  let so := sextNat old n
  let sv := sextNat v n
  match op with
  | 0x0 => (old + v) % 2 ^ n
  | 0x1 => old &&& v
  | 0x2 => old ||| v
  | 0x3 => old ^^^ v
  | 0x4 => if so ≤ sv then old else v
  | 0x5 => if so ≤ sv then v else old
  | 0x6 => min old v
  | 0x7 => max old v
  | 0x8 => v
  | 0x9 => if v ≤ old then 0 else old + 1
  | 0xA => if old = 0 || v < old then v else old - 1
  | 0xB => (addRes f .rn (f.read old) (f.read v)).bits
  | 0xC => (minMaxRes f false old v).bits
  | _ => (minMaxRes f true old v).bits

/-- A read-modify-write at its place: what it reads decides what it writes, if anything, with the tag it
leaves, and what its thread gets. The read is of the newest write in the coherence order (R230), which the thread has then seen (R242);
one that may not be seen yet is waited for (R246). The write carries on the releases that it reads from (R250). `rel` and `acq` are the
levels of a release and an acquire; `scope` and `priv` say where it executes (R230); one to an SO page acts at `.sys` (R231). A `quiet` one
has no result, so that its thread does not wait for another package (R261). -/
def State.rmwAt (s : State) (t : Thread) (l : Loc) (n : Nat) (ea : Int) (rel acq : Option Nat) (scope : Nat) (priv tagged quiet : Bool)
    (packet : PeerOp) (f : State → List Byte → Bool → Option (List Byte × Option Bool))
    (fin : State → List Byte → Bool → Thread → Thread) : Act :=
  let met := match rel with
    | some level => s.orderMet t level false
    | none => true
  let own := match rel with
    | some level => [s.headOfRelease t level false]
    | none => []
  let so := l.kind == .so
  let bars := fun (s : State) => if scope = 4 || so then s.noRollback t.id.launch else s.peerMark t.id.launch ea.toNat
  let pa := l.key
  if !met && !s.sentWord t then .hold s t (.order (rel.getD 0) false)
  else if s.acquireHolds t l.kind then s.holdFor t (t.acquireOut l.kind)
  else if s.sliceHeld l then s.holdAgain t
  else match l with
    | .sram cu off =>
      if s.ownFlight t then s.holdFor t t.ownFlight
      else if s.writesHeld pa n (fun p => p.thread == t.id) then s.holdAgain t
      else
        let hs := s.headsAt seesAll pa n
        let seen := s.readsFrom t seesAll pa n
        let s0 := (bars s).commitWhere (fun p => p.touches pa n)
        let old := s0.sramRead cu off n
        let tag := s0.sramTag cu (off / 16)
        let s1 := match f s0 old tag with
          | some (bytes, b) => (s0.sramWrite cu off bytes b).keepHeads pa bytes (own ++ hs ++ t.fenced)
          | none => s0
        let (s1, t) := s1.takeHeads t acq hs seen
        .go s1 (fin s1 old tag t)
    | .peer pkg off =>
      if !s.peerOrdered t pkg off then .hold s t (.order 5 false)
      else if s.ownFlight t then s.holdFor t t.ownFlight
      else if quiet then .go ((s.peerFlight t pkg off n packet .store none).noRollback t.id.launch) t
      else (s.noRollback t.id.launch).peerCall t pkg off n packet ea (fun s r =>
        match r with
        | .data bytes tags => .go s (fin s bytes (tags.headD false) t)
        | .ack => .go s t
        | .error _ => .go s t)
    | .hbm pa kind tc =>
      if so && !s.orderMet t 5 false then .hold s t (.order 5 false)
      else if s.ownFlightOver t pa n || (so && s.ownFlight t) then s.holdFor t (fun f => t.flightOver pa n f || (so && t.ownFlight f))
      else if s.writesHeld pa n (fun p => p.thread == t.id) then s.holdAgain t
      else
        let acq := if so then some 5 else acq
        let home := scope == 2 && !priv && !so
        let (served, s0) := (s.settleFrame pa).atomicRead t.ctx.part pa n home
        if !served then s0.holdAgain t
        else
          let (bad, s1) := s0.readSeen seesAll (tagged && tc) pa n
          if bad then
            let s1 := if s0.anyPoison pa n then s1.countPoisoned pa else s1
            if quiet && (s1.protectedLaunch t.ctx.part).isNone then .go s1 t else s1.badRead t pa n (faddr ea)
          else
            let s1 := bars s1
            let old := s1.seenBytes seesAll pa n
            let tag := tc && s1.seenTag seesAll (pa / 16)
            let hs := s1.headsAt seesAll pa n
            let seen := s1.readsFrom t seesAll pa n
            let s1 := s1.markRead t pa n
            let s2 := match f s1 old tag with
              | some (bytes, b) =>
                if so then ((s1.chargeWrite t.ctx.part pa n).writeBy seesAll pa bytes b).keepHeads pa bytes (own ++ hs ++ t.fenced)
                else s1.pushStore t kind pa bytes b (own ++ hs) (some home)
              | none => s1
            let (s2, t) := s2.takeHeads t acq hs seen
            .go s2 (fin s2 old tag t)

/-! ## Deterministic launches (R233, R368) -/

/-- A line is shared: it overlaps a range of the line-ownership table loaded for the launch (R368). A location is named by its global
address, whatever the space it is reached in, a private one by its private address. -/
def State.sharedLine (s : State) (t : Thread) (space ea : Nat) : Bool :=
  match s.gva t space ea with
  | none => false
  | some va =>
    let line := (if space = 4 then ea else va) / 128 * 128
    (s.slices.any (fun c => c.own.any (fun r => r.launch == t.id.launch && r.priv == (space == 4)
      && line < r.base + r.len && r.base < line + 128)))

/-! ## Child launches (R330) -/

/-- A launch as `launch` or a command passes it to the command processor, before its descriptor's fields are
read. -/
def Launch.fresh (uid : Nat) (ctx : CtxId) (origin : Origin) (depth : Nat) (descVa : Word64) (desc : List Byte)
    (quads : List Cap) (gen : BitVec 16) (period : Word64) : Launch :=
  { uid := uid, ctx := ctx, origin := origin, depth := depth, serial := false, descVa := descVa, desc := desc
    quads := quads, phase := .waiting, page := none, groups := 0, tpg := 0, teamSize := 1, flags := 0, regsPer := 0
    spKiB := 0, obKiB := 0, handler := 0xFFFF#16, entry := 0, stages := [], ltag := 0, code := Cap.null
    record := Cap.null, consts := [], args := [], blocks := 0, codeOff := 0, gen := gen, period := period
    rollbacks := 0, canRoll := true, overflowed := false, teams := 0, count := 0, nonzero := 0, maxStatus := 0
    orStatus := 0, firstGroup := none, reds := [] }

/-- A child-table entry (R318). -/
def Team.child (m : Team) (e : Nat) : Child := m.children.getD e { used := false, seq := 0, launch := 0, result := none }

/-- The free entries of a team's child table. -/
def Team.freeChildren (m : Team) : List Nat := (List.range 32).filter (fun e => !(m.child e).used)

/-- A reserved field of a descriptor is not zero (R3, R332): bytes 0x55 to 0x57, and in a pipeline launch the reserved bytes and entries of
its stage table (R36). -/
def reservedSet (d : List Byte) : Bool :=
  let stages := (d.getD 0x54 0).toNat
  bytesNat ((d.drop 0x55).take 3) != 0
    || ((d.getD 0x47 0).getLsbD 3 && (List.range 4).any (fun i =>
      if i < stages then d.getD (0x61 + 8 * i) 0 != 0 else bytesNat ((d.drop (0x60 + 8 * i)).take 8) != 0))

/-- The launch is created and its token written: the last part of R330. A descriptor with a reserved field that is not zero faults the
thread (R3). Which free entry it claims is a free value. -/
def launchMade (s : State) (t : Thread) (d : Nat) (ea : Int) (bytes : List Byte) (tags : List Bool) : Act :=
  match s.teamOf t.id.launch t.id.group, s.launch t.id.launch with
  | some m, some l =>
    if m.freeChildren.isEmpty then .fault .queue 0
    else if reservedSet bytes then .fault .illegalOperand 0
    else
      let (n, s) := s.draw
      let e := m.freeChildren.getD (n % m.freeChildren.length) 0
      let quads := (List.range 8).map (fun i => s.loadTag t ((bytes.drop (16 * i)).take 16) (tags.getD i false) true)
      let k := Launch.fresh s.nextLaunch t.ctx (.child t.id.launch m.num e) (l.depth + 1) (faddr ea) bytes quads l.gen
        l.period
      let s := { s with nextLaunch := s.nextLaunch + 1, launches := s.launches ++ [k] }
      let s := s.modTeam t.id.launch t.id.group (fun m => { m with
        children := modAt m.children e (fun c => { c with used := true, launch := k.uid, result := none }) })
      .go s (t.setReg d (BitVec.ofNat 32 (e + 256 * (m.child e).seq.toNat)))
  | _, _ => .fault .privilege 0

/-- The steps of `launch` from the descriptor page on (R330): tag-capable, a free entry, the release at `.prt`,
the read of the descriptor with its tags. Another package checks its page when it is asked, so that check 5 follows its answer. -/
def launchAt (s : State) (t : Thread) (l : Loc) (d : Nat) (ea : Int) : Act :=
  let full := ((s.teamOf t.id.launch t.id.group).map (fun m => m.freeChildren.isEmpty)).getD true
  let (bare, far) := match l with
    | .hbm _ _ tc => (!tc, false)
    | .sram _ _ => (false, false)
    | .peer _ _ => (false, true)
  if bare then .fault .pagePerm (faddr ea)
  else if full && !far then .fault .queue 0
  else if s.acquireHolds t .rc then s.holdFor t (t.acquireOut .rc)
  else if !s.orderMet t 3 false && !s.sentWord t then .hold s t (.order 3 false)
  else match l with
    | .sram cu off =>
      launchMade s t d ea (s.seenBytes t.sees (sramKey cu off) 128)
        ((List.range 8).map (fun i => s.seenTag t.sees (sramKey cu off / 16 + i)))
    | .peer pkg off =>
      if !s.peerOrdered t pkg off then .hold s t (.order 5 false)
      else s.peerCall t pkg off 128 .desc ea (fun s r => match r with
        | .data bytes tags => launchMade s t d ea bytes tags
        | .ack => .go s t
        | .error _ => .go s t)
    | .hbm pa kind _ =>
      if kind == OrderKind.so && !s.orderMet t 5 false then .hold s t (.order 5 false)
      else if s.sliceHeld l then s.holdAgain t
      else
        let (bad, s) := ((s.settleFrame pa).chargeRead t.ctx.part pa 128).readSeen t.sees true pa 128
        if bad then s.badRead t pa 128 (faddr ea)
        else
          let (s, t) := s.readBy t (if kind == OrderKind.so then some 5 else none) t.sees pa 128
          launchMade s t d ea (s.seenBytes t.sees pa 128) ((List.range 8).map (fun i => s.seenTag t.sees (pa / 16 + i)))

/-! ## One logged or issued access -/

/-- Bits of a logged modifier. -/
def OpLog.bit (o : OpLog) (n : Nat) : Bool := o.mod.getLsbD n
/-- Bits [hi:lo] of a logged modifier. -/
def OpLog.bits (o : OpLog) (hi lo : Nat) : Nat := o.mod.toNat / 2 ^ lo % 2 ^ (hi + 1 - lo)

/-- An address the view forms (R204): row r, column q; whether the column lies beyond the row. -/
def viewAddr (x : Cap) (r q : Nat) : Int × Bool :=
  let es := 2 ^ x.esize
  if x.pitch = 0 then (((x.cursor + (r + q) * es : Nat) : Int), false)
  else
    let rb := 2 ^ x.pitch * es
    if 2 ^ x.pitch ≤ q then (((x.cursor + r * rb + q * es : Nat) : Int), true)
    else
      let gr := 16 * 2 ^ (x.swizzle - 1)
      let ng := rb / gr
      let inner := if x.swizzle != 0 && 2 ≤ ng then (q * es) ^^^ (r % ng * gr) else q * es
      (((x.cursor + r * rb + inner : Nat) : Int), false)

/-- The width of an access in bytes (R202, R219, R226). -/
def OpLog.width (o : OpLog) : Nat :=
  match o.op.toNat with
  | 0x40 => 2 ^ o.bits 2 0
  | 0x80 => 2 ^ o.bits 2 0
  | 0x42 => 2 ^ o.cap.esize
  | 0x82 => 2 ^ o.cap.esize
  | 0x83 => if o.bit 1 then 8 else 4
  | 0x84 => if o.bit 1 then 8 else 4
  | 0x85 => if o.bit 1 then 8 else 4
  | 0x06 => 128
  | _ => 16

/-- The effective address, and whether a view's column lies beyond its row (R203, R204, R220, R226). -/
def OpLog.ea (o : OpLog) : Int × Bool :=
  let idx := sextNat o.idx.toNat 32
  let cur : Int := ((o.cap.cursor : Nat) : Int)
  match o.op.toNat with
  | 0x42 => viewAddr o.cap o.idx.toNat o.col.toNat
  | 0x82 => viewAddr o.cap o.idx.toNat o.col.toNat
  | 0x40 | 0x41 | 0x80 | 0x81 => (cur + idx * (if o.bit 4 then ((2 ^ o.cap.esize : Nat) : Int) else 1), false)
  | _ => (cur + idx * (o.width : Int), false)

/-- The address lies in the global, peer or cluster-shared window (R221). A negative address lies in none. -/
def needsGL (ea : Int) : Bool := let h := ea.toNat / 2 ^ 56; 0 ≤ ea && (h == 0 || h == 1 || h == 0xFC)

/-- The permissions an access asks (R155, R205, R221, R229). A tagged quad that is to be stored with its tag
needs SC of the capability and GL of the quad. -/
def State.askOf (s : State) (t : Thread) (o : OpLog) (quad : Cap) : Ask :=
  let (ea, column) := o.ea
  let n := o.width
  let tagged := quad.tag && !s.rev t quad
  let base : Ask := { need := permLD, ea := ea, n := n, al := n, lacks := false, column := column }
  match o.op.toNat with
  | 0x40 | 0x41 | 0x42 => base
  | 0x06 => { base with need := permLD + permLC }
  | 0x80 | 0x82 => { base with need := permST }
  | 0x81 => { base with need := permST + if tagged then permSC else 0
                        lacks := tagged && needsGL ea && !quad.holds permGL }
  | 0x85 => { base with need := permST + permAT }
  | 0x86 => { base with need := permLD + permST + permAT + if tagged then permSC else 0
                        lacks := tagged && needsGL ea && !quad.holds permGL }
  | _ => { base with need := permLD + permST + permAT }

/-- What an access asks of its page. -/
def OpLog.want (o : OpLog) : Want :=
  match o.op.toNat with
  | 0x40 | 0x41 | 0x42 | 0x06 => .read
  | 0x81 | 0x86 => .tagWrite
  | _ => .write

/-- Kinds of a page request (R351). -/
def OpLog.kinds (o : OpLog) : Byte :=
  match o.op.toNat with
  | 0x40 | 0x41 | 0x42 | 0x06 => kindRead
  | 0x80 | 0x82 => kindWrite
  | 0x81 => kindWrite ||| kindTag
  | 0x86 => kindRead ||| kindWrite ||| kindTag
  | 0x85 => kindWrite
  | _ => kindRead ||| kindWrite

/-- The result of an access: an end of its word, or an absent page. -/
inductive MemRes where
  | done (a : Act)
  | absent (page : Nat)
  deriving DecidableEq, Repr

/-- The scope of an ordered load or store, by its code (R69). -/
def relLevel (b : Bool) (code : Nat) : Option Nat := if b then some (code + 1) else none

/-- THE ACCESS (R205, R221, R229): watch (R425, which names no `launch`), translation, effect, after the dereference check. `quads` are the
quads a tagged store or compare uses: the one stored, the one expected. `acasc` takes a sealed expected or new quad as `stc` takes one:
R159 does not name it among the words that accept one, and R228 and R229 give it no check for one (DESIGN CHOICE, log entry 68). -/
def State.perform (s : State) (t : Thread) (o : OpLog) (stored expected : Cap) : MemRes :=
  let q := s.askOf t o stored
  let ea := q.ea
  let n := q.n
  let x := o.cap
  let op := o.op.toNat
  match s.deref t x q with
  | some c => .done (.fault c (faddr ea))
  | none =>
    let load := op < 0x80
    if op != 0x06 && s.watched t x.space (s.remapped t x.space ea.toNat) n (load || op != 0x80 && op != 0x81 && op != 0x82) (!load) then
      .done (s.watchStop t ea)
    else match s.land t x.space ea.toNat o.want with
      | .bad c m => .done (s.landFault t x.space ea c m)
      | .absent va => .absent (va / 65536)
      | .ok l =>
        let s := s.touched t x.space ea.toNat
        let d := o.dst.toNat
        let wide := o.bit 1
        let regs := if wide then 2 else 1
        let old := fun (b : List Byte) (t : Thread) => t.setData regs d (bytesNat b)
        let rel := if o.bits 7 6 / 2 = 1 then some (o.bits 10 8 + 1) else none
        let acq := if o.bits 7 6 % 2 = 1 then some (o.bits 10 8 + 1) else none
        let ld := relLevel (o.bit 5) (o.bits 8 6)
        let scope := o.bits 10 8
        let priv := x.space == 4
        let v := o.data.toNat % 2 ^ (8 * n)
        let v2 := o.data2.toNat % 2 ^ (8 * n)
        .done <| match op with
        | 0x06 => launchAt s t l d ea
        | 0x40 => s.loadAt t l n ea ld false (o.bit 10) (.load d (o.bit 3))
        | 0x42 => s.loadAt t l n ea ld false (o.bit 10) (.load d (o.bit 3))
        | 0x41 => s.loadAt t l 16 ea ld true (o.bit 10) (.loadCap d (x.holds permLC))
        | 0x80 => s.storeAt t l (natBytes n o.data.toNat) none (relLevel (o.bit 5) (o.bits 8 6)) ea
        | 0x82 => s.storeAt t l (natBytes n o.data.toNat) none (relLevel (o.bit 5) (o.bits 8 6)) ea
        | 0x81 => s.storeAt t l (natBytes 16 stored.bits.toNat) (some (stored.tag && !s.rev t stored))
            (relLevel (o.bit 5) (o.bits 8 6)) ea
        | 0x83 => s.rmwAt t l n ea rel acq scope priv false false (.atom (BitVec.ofNat 4 (o.bits 5 2)) wide (BitVec.ofNat 64 v) false)
            (fun _ b _ => some (natBytes n (atomVal (o.bits 5 2) wide (bytesNat b) v), none)) (fun _ b _ t => old b t)
        | 0x84 => s.rmwAt t l n ea rel acq scope priv false false (.acas wide (BitVec.ofNat 64 v) (BitVec.ofNat 64 v2))
            (fun _ b _ => if bytesNat b = v then some (natBytes n v2, none) else none) (fun _ b _ t => old b t)
        | 0x85 =>
          let det := ((s.launch t.id.launch).map (fun k => k.flags.getLsbD 0)).getD false
          if det && (o.bits 5 2 == 0 || o.bits 5 2 == 0xB) && s.sharedLine t x.space ea.toNat then
            match l with
            | .hbm _ _ _ => .go (s.modLaunch t.id.launch (fun k => { k with
                reds := k.reds ++ [{ group := t.id.group, thread := t.id.num, va := (s.gva t x.space ea.toNat).getD 0, wide := wide
                                     op := BitVec.ofNat 4 (o.bits 5 2), v := BitVec.ofNat 64 v }] })) t
            | .sram _ _ => .go s t
            | .peer _ _ => .go s t
          else
            s.rmwAt t l n ea rel acq scope priv false true (.atom (BitVec.ofNat 4 (o.bits 5 2)) wide (BitVec.ofNat 64 v) true)
              (fun _ b _ => some (natBytes n (atomVal (o.bits 5 2) wide (bytesNat b) v), none)) (fun _ _ _ t => t)
        | _ =>
          s.rmwAt t l 16 ea rel acq scope priv true false (.acasc expected (stored.withTag (stored.tag && !s.rev t stored)))
            (fun _ b tag => if bytesNat b = expected.bits.toNat && tag == expected.tag
              then some (natBytes 16 stored.bits.toNat, some (stored.tag && !s.rev t stored)) else none)
            (fun s b tag t => s.put t d (s.loadTag t b tag (x.holds permLC)) (s.loadTag t b tag (x.holds permLC)).tag)

/-- The registers an access writes (R184). -/
def OpLog.pend (o : OpLog) : List Nat :=
  let run := fun (n : Nat) => (List.range n).map (o.dst.toNat + ·)
  match o.op.toNat with
  | 0x40 | 0x42 => run ((o.width + 3) / 4)
  | 0x41 => run 4
  | 0x06 => run 1
  | 0x83 | 0x84 => run (o.width / 4)
  | _ => []

/-- The word uses the page the thread's logged access waits for (R184). -/
def State.onLogPage (s : State) (t : Thread) (space a : Nat) : Bool :=
  match t.log, s.gva t space (s.remapped t space a) with
  | some g, some va => va / 65536 == g.page
  | _, _ => false

/-- The thread's access uses that page. -/
def State.logPage (s : State) (t : Thread) (o : OpLog) : Bool :=
  decide (0 ≤ o.ea.1) && s.onLogPage t o.cap.space o.ea.1.toNat

/-- A guard-true memory word that can be logged (R184, R205, R211, R221, R225, R229, R232). An access to the page that the log waits
for parks before any check (R184). -/
def State.accessWord (s : State) (t : Thread) (o : OpLog) (stored expected : Cap) : Act :=
  if s.logPage t o then logStop s t .secondFault
  else match s.perform t o stored expected with
    | .done a => a
    | .absent page =>
      if t.log.isSome then logStop s t .secondFault
      else if s.requestsFull t.ctx.part page then .hold s t (.page (page * 65536))
      else
        let n := s.nextReq
        let s := ({ s with nextReq := n + 1 }.askPage (some t.id) t.ctx page o.kinds).perf t.ctx t.cu 0x08 1
        .go s { t with log := some { o with page := page, addr := faddr o.ea.1, req := n, ready := false }, pending := o.pend }

/-- A word at which a thread waited for a page that its host called invalid takes PAGE_PERM (R232, R353). -/
def pageRefused (t : Thread) (ea : Int) : Option Act :=
  if t.pageFail.isSome then some (.faultAt { t with pageFail := none } .pagePerm (faddr ea) t.blk t.off) else none

end Sys2Proof.Machine
end

