-- ==== Sys2Proof/Machine/Loads.lean ====
section
/-!
DEFINITION. The loads (08 R202 to R211), the stores (09 R219 to R225), the atomics (R226 to R233), and the
replay of a logged access (07 R185).
-/

namespace Sys2Proof.Machine

/-- The operation of a word as the operand log holds it (R183). -/
def logOf (op : Nat) (w : XWord) (t : Thread) : OpLog :=
  { cap := t.quad w.a.toNat, idx := 0, col := 0, data := 0, data2 := 0, dataTag := false, blk := t.blk, off := t.off
    op := BitVec.ofNat 8 op, mod := w.mod, dst := w.d, page := 0, failed := none, addr := 0, req := 0, ready := false }

/-- The optional index (R203, R226): none with the no-index bit. -/
def indexOf (w : XWord) (t : Thread) (none : Nat) : Word := if w.bit none then 0 else t.reg w.b.toNat

/-- ld (R206). -/
def execLd (w : XWord) (s : State) : Host.Outcome State Fault Refusal :=
  issue (.x 0x040 w) s fun s t =>
    s.accessWord t { logOf 0x40 w t with idx := indexOf w t 9 } Cap.null Cap.null

/-- ldc (R207). -/
def execLdc (w : XWord) (s : State) : Host.Outcome State Fault Refusal :=
  issue (.x 0x041 w) s fun s t =>
    s.accessWord t { logOf 0x41 w t with idx := indexOf w t 9 } Cap.null Cap.null

/-- The registers of a view's element: two of 8 bytes, four of 16, else one (R206, R219); a size code above 4 stands in no
tagged capability. -/
def viewRegCount (esize : Nat) : Nat := match esize with | 3 => 2 | 4 => 4 | _ => 1

/-- A view's data register must suit its element's width and lie within the allocation (R206, R219). -/
def viewRegOk (t : Thread) (d esize : Nat) : Bool :=
  let k := viewRegCount esize
  d % k == 0 && d + k ≤ t.nregs

/-- The registers of a view's data. -/
def viewRegs (d esize : Nat) : List Nat := (List.range (viewRegCount esize)).map (d + ·)

/-- A register a result in flight will write. -/
def State.flightRegs (s : State) (t : Thread) (regs : List Nat) : Bool :=
  s.flights.any (fun f => f.thread = t.id && f.writes regs)

/-- A word of a view (R204): the register checks at the width the view gives, then the access. One that the log blocks parks before any
check of step 6 (R184). -/
def viewWord (s : State) (t : Thread) (d : Nat) (o : OpLog) (k : Act) : Act :=
  let x := o.cap
  if s.logPage t o then logStop s t .secondFault
  else if !viewRegOk t d x.esize then .fault .illegalOperand 0
  else if (viewRegs d x.esize).any t.pending.contains then logStop s t .pending
  else if s.flightRegs t (viewRegs d x.esize) then s.holdFor t (·.writes (viewRegs d x.esize))
  else k

/-- ldv (R204). -/
def execLdv (w : XWord) (s : State) : Host.Outcome State Fault Refusal :=
  issue (.x 0x042 w) s fun s t =>
    let o := { logOf 0x42 w t with idx := t.reg w.b.toNat, col := t.reg w.c.toNat }
    viewWord s t w.d.toNat o (s.accessWord t o Cap.null Cap.null)

/-- st (R222). -/
def execSt (w : XWord) (s : State) : Host.Outcome State Fault Refusal :=
  issue (.x 0x080 w) s fun s t =>
    let k := widthRegs (w.bits 2 0)
    s.accessWord t { logOf 0x80 w t with idx := indexOf w t 9, data := BitVec.ofNat 128 (t.data k w.c.toNat) } Cap.null Cap.null

/-- stc (R223). -/
def execStc (w : XWord) (s : State) : Host.Outcome State Fault Refusal :=
  issue (.x 0x081 w) s fun s t =>
    let q := t.quad w.c.toNat
    s.accessWord t { logOf 0x81 w t with idx := indexOf w t 9, data := q.bits, dataTag := q.tag } q Cap.null

/-- stv (R222). -/
def execStv (w : XWord) (s : State) : Host.Outcome State Fault Refusal :=
  issue (.x 0x082 w) s fun s t =>
    let x := t.quad w.a.toNat
    let k := viewRegCount x.esize
    let o := { logOf 0x82 w t with
      idx := t.reg w.b.toNat, col := t.reg w.c.toNat, data := BitVec.ofNat 128 (t.data k w.d.toNat) }
    viewWord s t w.d.toNat o (s.accessWord t o Cap.null Cap.null)

/-- The operand of an atomic at its width. -/
def atomData (w : XWord) (t : Thread) (n : Nat) : BitVec 128 := BitVec.ofNat 128 (t.data (if w.bit 1 then 2 else 1) n)

/-- atom (R228). -/
def execAtom (w : XWord) (s : State) : Host.Outcome State Fault Refusal :=
  issue (.x 0x083 w) s fun s t =>
    s.accessWord t { logOf 0x83 w t with idx := indexOf w t 0, data := atomData w t w.c.toNat } Cap.null Cap.null

/-- acas (R228): the compare value, then the new value after it. -/
def execAcas (w : XWord) (s : State) : Host.Outcome State Fault Refusal :=
  issue (.x 0x084 w) s fun s t =>
    let k := if w.bit 1 then 2 else 1
    s.accessWord t { logOf 0x84 w t with
      idx := indexOf w t 0, data := atomData w t w.c.toNat, data2 := atomData w t (w.c.toNat + k) } Cap.null Cap.null

/-- red (R228). -/
def execRed (w : XWord) (s : State) : Host.Outcome State Fault Refusal :=
  issue (.x 0x085 w) s fun s t =>
    s.accessWord t { logOf 0x85 w t with idx := indexOf w t 0, data := atomData w t w.c.toNat } Cap.null Cap.null

/-- A thread that cannot log an absent page waits for it at its word (R232, R234). -/
def State.awaitPage (s : State) (t : Thread) (page : Nat) (kinds : Byte) : Act :=
  if t.log.isSome then logStop s t .secondFault
  else if s.requestsFull t.ctx.part page then .hold s t (.page (page * 65536))
  else .park (s.askPage (some t.id) t.ctx page kinds) t (.late (.page (page * 65536)))

/-- acasc (R228, R232): never logged. -/
def execAcasc (w : XWord) (s : State) : Host.Outcome State Fault Refusal :=
  issue (.x 0x086 w) s fun s t =>
    let expected := t.quad w.c.toNat
    let stored := t.quad (w.c.toNat + 4)
    let o := { logOf 0x86 w t with idx := indexOf w t 0, data := expected.bits, data2 := stored.bits }
    if s.logPage t o then logStop s t .secondFault
    else match pageRefused t o.ea.1 with
      | some a => a
      | none => match s.perform t o stored expected with
        | .done a => a
        | .absent page => s.awaitPage t page o.kinds

/-! ## Replay (R185) -/

/-- A logged access is performed once its page is present, as though issued with the logged operands (R185); it follows in order the
accesses that its thread issued before it was logged, and not those since (R247). What it ends in; or, where its page is absent again,
its new request, which waits for a place as any does (R352). -/
def State.replayOnce (s : State) (t : Thread) (o : OpLog) : State × Option Act :=
  let q : Cap := { bits := o.data, tag := o.dataTag }
  match s.perform { t with watchSkip := true, replayOf := some o.req } o q Cap.null with
  | .absent page =>
    if s.requestsFull t.ctx.part page then (s, none)
    else ((s.requestPage t.ctx page o.kinds).putThread { t with log := some { o with page := page, ready := false } }, none)
  | .done a => (s, some a)

/-- The thread after its replay. -/
def State.replayed (s : State) (id : TId) (t0 : Thread) : Act → State
  | .go s t => s.putThread { t with log := none, pending := [], watchSkip := t0.watchSkip, replayOf := none }
  | .fault c addr => s.modThread id (fun t => { t with log := t.log.map (fun o => { o with failed := some c, addr := addr }) })
  | .err s c addr => s.modThread id (fun t => { t with log := t.log.map (fun o => { o with failed := some c, addr := addr }) })
  | .stop s => s
  | .hold s _ _ => s
  | .jump _ _ _ => s
  | .faultAt _ _ _ _ _ => s
  | .park _ _ _ => s
  | .parkNext _ _ _ => s
  | .exit _ _ => s
  | .back _ _ _ => s

/-- A thread whose reason was its log goes on once the log is invalid or its replay failed (R182). -/
def State.logCleared (s : State) (id : TId) : State :=
  match s.thread id with
  | none => s
  | some t =>
    if !t.logDone then s
    else match t.run with
      | .parked .pending _ => s.wakeAt t
      | .parked .secondFault _ => s.wakeAt t
      | .exiting _ => s.settleExit t
      | _ => s

/-- The replay of a thread's logged access, if it has one. An access that has to wait, for its order or for an answer, is tried again
when that has come. -/
def State.replayThread (s : State) (id : TId) : State :=
  match s.thread id with
  | none => s
  | some t => match t.log with
    | none => s
    | some o =>
      if o.failed.isSome then s
      else
        let s := s.modThread id (fun t => { t with log := some { o with ready := true } })
        match s.replayOnce { t with log := some { o with ready := true } } { o with ready := true } with
        | (s, none) => s
        | (_, some (.hold s _ _)) => s
        | (s, some a) => (s.replayed id t a).logCleared id

/-- The replays that are due and had to wait are tried again (R185). -/
def State.retryReplays (s : State) : State :=
  (s.threads.filter (fun t => t.log.any (fun o => o.ready && o.failed.isNone))).foldl (fun s t => s.replayThread t.id) s

end Sys2Proof.Machine
end

