-- ==== Sys2Proof/Machine/Fences.lean ====
section
/-!
DEFINITION. `fence` and `drain` (10 R253 to R256).
-/

namespace Sys2Proof.Machine

/-- What a fence does once its condition is met: the reads before it are acquires of its scope (all kinds but `.rel`), the writes
after it releases of its scope (all kinds but `.acq`) (R248, R249, R254). A read that has not returned yet holds back, as an acquire does,
what the fence is to order after it. -/
def fenceDone (s : State) (t : Thread) (kind level : Nat) : Act :=
  let mine := fun (f : Flight) => f.ownRead && f.thread == t.id && (kind == 4 || !f.un)
  let s := if kind = 1 then s
    else (({ s with flights := modWhere s.flights mine (fun f => { f with acq := some (max (f.acq.getD 0) level) }) } : State)).synchronise t level t.got
  let own := if kind = 0 then [] else [s.headOfRelease t level (kind == 4)]
  .go s { t with fenced := (own ++ t.fenced).filter s.liveHead, got := t.got.filter s.liveHead }

/-- fence (R254): once parked and its condition met, it completes at once (R253). -/
def execFence (w : XWord) (s : State) : Host.Outcome State Fault Refusal :=
  issue (.x 0x089 w) s fun s t =>
    let level := w.bits 8 6 + 1
    let kind := w.bits 2 0
    if t.mark.isSome || s.fenceMet t kind level then fenceDone s t kind level else .hold s t (.fence kind level)

/-- The path of R256 covers an operation's destination; a cluster-shared address names the CU that its context's remap table gives
(R402). -/
def EngineOp.onPath (p lcu : Nat) (remap : Nat → Nat) : EngineOp → Bool :=
  let place := fun (d : Place) => match d with
    | .ob _ _ => p == 4 || p == 5
    | .mem c ea => match c.space with
      | 3 => p == 0 || p == 1 || p == 5
      | 2 => p == 1 || p == 5 || (p == 0 && remap (ea / 2 ^ 32 % 2 ^ 24 * 4 + ea / 2 ^ 20 % 2 ^ 12) == lcu)
      | 1 => p == 3 || p == 5
      | _ => p == 2 || p == 5
  fun o => match o with
    | .cpy d _ _ _ => place d
    | .cpyv d _ _ _ _ _ => place d
    | .cpyg d _ _ _ => place d
    | .cpyf d _ _ => place d
    | .mst d _ _ _ => place d
    | .wfill _ _ _ _ => p == 4 || p == 5
    | .join _ _ => false
    | .mmo _ _ _ => false
    | .mzro _ => false
    | .obset _ _ _ => false
    | .obrel _ => false

/-- Every operation of the context on the CU issued before a serial number, with a destination on the path, has
been performed (R256). -/
def State.drained (s : State) (t : Thread) (path before : Nat) : Bool :=
  match s.context t.ctx with
  | none => true
  | some c => c.queues.all (fun q => q.cu != t.cu
      || q.entries.all (fun e => before ≤ e.serial || !e.op.onPath path (s.lcu t) (fun k => c.remap.getD k k)))

/-- The serial number before which a drain's operations were issued: taken when it is first issued. -/
def State.drainFrom (s : State) (t : Thread) : Nat :=
  t.mark.getD s.nextSerial

/-- A valid engine fault record is delivered (R286). -/
def engFaultAct (t : Thread) (r : EngineFault) : Act := .faultAt { t with engFault := none } r.cls r.addr r.blk r.off

/-- drain (R256). -/
def execDrain (w : XWord) (s : State) : Host.Outcome State Fault Refusal :=
  issue (.x 0x08A w) s fun s t =>
    let path := w.bits 2 0
    let n := s.drainFrom t
    match t.engFault with
    | some r => engFaultAct t r
    | none => if s.drained t path n then .go s t else .hold s { t with mark := some n } (.drain path n)

end Sys2Proof.Machine
end

