-- ==== Sys2Proof/Machine/Control.lean ====
section
/-!
DEFINITION. Control flow (07 R191 to R200) and the return from the handler (17 R411).
-/

namespace Sys2Proof.Machine

/-- The block count of the thread's launch (R176). -/
def State.blocks (s : State) (t : Thread) : Nat := ((s.launch t.id.launch).map (·.blocks)).getD 0

/-- A branch to a block id: ILLEGAL_TARGET when it is N or above (R180, R190). -/
def branchTo (s : State) (t : Thread) (b : Nat) : Act :=
  if s.blocks t ≤ b then .fault .illegalTarget (BitVec.ofNat 64 b) else .jump s t (BitVec.ofNat 16 b)

/-- A block operand in a register (R192): the fault it takes, or the block id. -/
def blockOf (s : State) (t : Thread) (v : Word) : Act ⊕ Nat :=
  if 65536 ≤ v.toNat || s.blocks t ≤ v.toNat then .inl (.fault .illegalTarget (v.setWidth 64)) else .inr v.toNat

/-- bra (R193). -/
def execBra (w : IWord) (s : State) : Host.Outcome State Fault Refusal :=
  issue (.i 0x20 w) s fun s t => branchTo s t (w.imm.toNat % 65536)

/-- brc (R193). -/
def execBrc (w : IWord) (s : State) : Host.Outcome State Fault Refusal :=
  issue (.i 0x21 w) s fun s t =>
    let q := xor (t.pred (w.a.toNat % 16)) (w.a.getLsbD 4)
    branchTo s t (if q then w.imm.toNat % 65536 else w.imm.toNat / 65536)

/-- call (R194): the link, then the branch. Where both its blocks are bad, s.faddr names the continuation, which it reads first; the
spec is silent there (DESIGN CHOICE, log entry 66). -/
def execCall (w : IWord) (s : State) : Host.Outcome State Fault Refusal :=
  issue (.i 0x22 w) s fun s t =>
    let v := w.imm.toNat / 65536
    if s.blocks t ≤ v then .fault .illegalTarget (BitVec.ofNat 64 v)
    else branchTo s (t.setReg w.d.toNat (BitVec.ofNat 32 v)) (w.imm.toNat % 65536)

/-- A terminating `exit`: it waits for the thread's engine operations, then delivers their fault, else ends the
thread (R196, R286). It waits for the answers to its peer writes too, so that none of their errors is lost (DESIGN CHOICE, log
entry 22). -/
def exitAct (s : State) (t : Thread) (st : Byte) : Act :=
  if !t.opsDone then .hold s t .ops
  else if s.peerWritesOut t.id then s.holdFor t (·.kind == .store)
  else match t.engFault with
    | some r => engFaultAct t r
    | none => .exit t st

/-- exit, I form (R196). -/
def execExitI (w : IWord) (s : State) : Host.Outcome State Fault Refusal :=
  issue (.i 0x23 w) s fun s t => exitAct s t (w.imm.setWidth 8)

/-- trap (R197). -/
def execTrap (w : IWord) (s : State) : Host.Outcome State Fault Refusal :=
  issue (.i 0x24 w) s fun _ _ => .fault .trap ((w.imm.setWidth 16).setWidth 64)

/-- brx (R192, R193). -/
def execBrx (w : XWord) (s : State) : Host.Outcome State Fault Refusal :=
  issue (.x 0x180 w) s fun s t =>
    match blockOf s t (t.reg w.a.toNat) with
    | .inl a => a
    | .inr b => branchTo s t b

/-- callx (R192, R194): both registers are read before the link is written. Where both are bad, s.faddr names the callee; the spec is
silent there (DESIGN CHOICE, log entry 66). -/
def execCallx (w : XWord) (s : State) : Host.Outcome State Fault Refusal :=
  issue (.x 0x181 w) s fun s t =>
    match blockOf s t (t.reg w.a.toNat) with
    | .inl a => a
    | .inr b => match blockOf s t (t.reg w.b.toNat) with
      | .inl a => a
      | .inr v => branchTo s (t.setReg w.d.toNat (BitVec.ofNat 32 v)) b

/-- ret (R192, R193). -/
def execRet (w : XWord) (s : State) : Host.Outcome State Fault Refusal :=
  issue (.x 0x182 w) s fun s t =>
    match blockOf s t (t.reg w.a.toNat) with
    | .inl a => a
    | .inr b => branchTo s t b

/-- exit, X form (R196). -/
def execExitX (w : XWord) (s : State) : Host.Outcome State Fault Refusal :=
  issue (.x 0x183 w) s fun s t => exitAct s t ((t.reg w.a.toNat).setWidth 8)

/-- nop (R198). -/
def execNop (w : XWord) (s : State) : Host.Outcome State Fault Refusal :=
  issue (.x 0x184 w) s fun s t => .go s t

/-- brk (R199). -/
def execBrk (w : XWord) (s : State) : Host.Outcome State Fault Refusal :=
  issue (.x 0x187 w) s fun s t =>
    let code : Word64 := w.mod.setWidth 64
    if t.debug then
      .parkNext (s.emit (.debugHit (s.sessionOf t) t.id .breakpoint (pcBits t.blk t.off) code)) t (.debug .breakpoint code)
    else .go s t

/-- idle (R198). -/
def execIdle (w : XWord) (s : State) : Host.Outcome State Fault Refusal :=
  issue (.x 0x188 w) s fun s t => .parkNext s t (.idle (s.now t.cu + 16 * max w.mod.toNat 1))

/-- The thread elected at a train's word: chosen among the threads that have still to issue it (R200). -/
def electNum (c : Code) (s : State) (t : Thread) : Nat :=
  match (s.trains.find? (inTrain t)).bind (·.elected) with
  | some n => n
  | none => ((s.trainMates t).filter (fun u => guardTrue u c)).foldl (fun m u => min m u.id.num) t.id.num

/-- elect (R200). -/
def execElect (w : XWord) (s : State) : Host.Outcome State Fault Refusal :=
  issue (.x 0x1C0 w) s fun s t =>
    let n := electNum (.x 0x1C0 w) s t
    .go { s with trains := modWhere s.trains (inTrain t) (fun r => { r with elected := some n }) }
      (t.setPred w.d.toNat (n == t.id.num))

/-- rti (R411). -/
def execRti (w : XWord) (s : State) : Host.Outcome State Fault Refusal :=
  issue (.x 0x186 w) s fun s t =>
    let v := t.reg w.a.toNat
    let off := v.toNat / 65536 % 1024
    if !t.inHandler then .fault .privilege 0
    else if v.toNat / 2 ^ 26 != 0 || (!w.bit 0 && off != 0) then .fault .illegalOperand 0
    else if s.blocks t ≤ v.toNat % 65536 then .fault .illegalTarget (BitVec.ofNat 64 (v.toNat % 65536))
    else .back t (v.setWidth 16) (if w.bit 0 then some (BitVec.ofNat 10 off) else none)

end Sys2Proof.Machine
end

