-- ==== Sys2Proof/Machine/Counters.lean ====
section
/-!
DEFINITION. Counters, clocks and special registers: `wait`, `clk`, `rds`, `wrs`, `perfc` (16 R383 to R389).
-/

namespace Sys2Proof.Machine

/-- The condition of a `wait` (R384). -/
def Thread.waitMet (t : Thread) (all : Bool) (w n : Nat) : Bool :=
  if all then (List.range 4).all (fun i => (t.cnt i).toNat ≤ n) else (t.cnt w).toNat ≤ n

/-- wait (R384, R385): before it completes it acts as `fence.all.grp`. -/
def execWait (w : XWord) (s : State) : Host.Outcome State Fault Refusal :=
  issue (.x 0x140 w) s fun s t =>
    let k := w.bits 9 8
    let n := w.bits 7 0
    match t.engFault with
    | some r => engFaultAct t r
    | none =>
      if !t.waitMet (w.bit 10) k n then .park s t (.wait (w.bit 10) k n)
      else if s.fenceMet t 4 1 then fenceDone s t 4 1
      else .hold s t (.fence 4 1)

/-- A launch's flag bit. -/
def State.launchFlag (s : State) (t : Thread) (b : Nat) : Bool :=
  ((s.launch t.id.launch).map (fun l => l.flags.getLsbD b)).getD false

/-- What `clk` reads (R386), and the state that remembers the context's latest reading of the time count. -/
def State.clock (s : State) (t : Thread) (cyc : Bool) : Word64 × State :=
  if s.launchFlag t 0 then (((s.launch t.id.launch).map (·.period)).getD 0, s)
  else if cyc then (BitVec.ofNat 64 (s.now t.cu), s)
  else
    let off := ((s.context t.ctx).map (·.clkOff)).getD 0
    let v := BitVec.ofNat 64 s.time + off
    (v, s.modContext t.ctx (fun c => { c with lastClk := v }))

/-- clk (R386). -/
def execClk (w : XWord) (s : State) : Host.Outcome State Fault Refusal :=
  issue (.x 0x141 w) s fun s t =>
    let (v, s) := s.clock t (w.bit 0)
    .go s (t.setPair w.d.toNat v)

/-- s.mode (R95). -/
def State.modeOf (s : State) (t : Thread) : Nat :=
  ((s.launch t.id.launch).map (·.flags.toNat)).getD 0 + (if t.inHandler then 16 else 0) + if t.debug then 32 else 0

/-- s.aown (R95). -/
def State.aownOf (s : State) (t : Thread) : Nat :=
  (List.range 16).foldl (fun acc i => if ((s.cu t.cu).tiles[i]?).bind (·.owner) = some t.ctx then acc + 2 ^ i else acc) 0

/-- The value of a special register other than s.clk (R25, R95, R387). -/
def State.special (s : State) (t : Thread) (n : Nat) : Nat :=
  let lcu := s.lcu t
  match n with
  | 0x00 => t.id.num
  | 0x01 => t.id.group
  | 0x02 => t.id.group / s.teamSize t.id.launch
  | 0x03 => lcu
  | 0x04 => lcu / 4
  | 0x05 => lcu / 12
  | 0x06 => t.role.toNat
  | 0x07 => ((s.launch t.id.launch).map (·.depth)).getD 0
  | 0x08 => t.ctx.id
  | 0x09 => (s.part t.ctx.part).gen.toNat
  | 0x0B => (pcBits t.blk t.off).toNat
  | 0x0C => t.fps.toNat
  | 0x0D => t.fcode.toNat
  | 0x0E => t.faddr.toNat
  | 0x0F => t.fblk.toNat
  | 0x10 => s.modeOf t
  | 0x11 => s.aownOf t
  | 0x12 => (t.w3 ++ t.w2 ++ t.w1 ++ t.w0 : BitVec 32).toNat
  | _ => 0

/-- rds (R387). -/
def execRds (w : XWord) (s : State) : Host.Outcome State Fault Refusal :=
  issue (.x 0x142 w) s fun s t =>
    let n := w.bits 5 0
    if n = 0x0A then
      let (v, s) := s.clock t false
      .go s (t.setPair w.d.toNat v)
    else .go s (t.setVal (n == 0x0E) w.d.toNat (s.special t n))

/-- wrs (R387, R95): only s.fps is writable. -/
def execWrs (w : XWord) (s : State) : Host.Outcome State Fault Refusal :=
  issue (.x 0x143 w) s fun s t =>
    if w.bits 5 0 = 0x0C then .go s { t with fps := (t.reg w.a.toNat).setWidth 5 } else .fault .privilege 0

/-- A performance counter at reset (R382). -/
def PerfCounter.reset : PerfCounter := { val := 0, sel := 0, recent := [] }

/-- The counters of a context on a CU. -/
def State.perfSet (s : State) (ctx : CtxId) (cu : Nat) : List PerfCounter :=
  (((s.context ctx).bind (fun c => c.perf.find? (·.cu == cu))).map (·.counters)).getD (List.replicate 8 PerfCounter.reset)

/-- Replaces the counters of a context on a CU. -/
def State.putPerf (s : State) (ctx : CtxId) (cu : Nat) (l : List PerfCounter) : State :=
  s.modContext ctx (fun c =>
    if c.perf.any (·.cu == cu) then { c with perf := modWhere c.perf (·.cu == cu) (fun p => { p with counters := l }) }
    else { c with perf := c.perf ++ [{ cu := cu, counters := l, moved := 0 }] })

/-- What a read of a counter returns (R388): of the occurrences of the last 64 cycles it may leave any out. -/
def PerfCounter.reading (k : PerfCounter) (now free : Nat) : BitVec 48 :=
  let late := (k.recent.filter (fun r => (now : Int) < r.1 + 64)).foldl (fun n r => n + r.2) 0
  k.val - BitVec.ofNat 48 (free % (late + 1))

/-- perfc.rd (R388). -/
def execPerfcRd (w : XWord) (s : State) : Host.Outcome State Fault Refusal :=
  issue (.x 0x144 w) s fun s t =>
    let k := (s.perfSet t.ctx t.cu).getD (w.bits 2 0) PerfCounter.reset
    let (n, s') := s.draw
    .go s' (t.setPair w.d.toNat ((k.reading (s.now t.cu) n).setWidth 64))

/-- perfc.sel (R388). -/
def execPerfcSel (w : XWord) (s : State) : Host.Outcome State Fault Refusal :=
  issue (.x 0x144 w) s fun s t =>
    let sel : Byte := (t.reg w.a.toNat).setWidth 8
    if 16 ≤ sel.toNat then .fault .illegalOperand 0
    else .go (s.putPerf t.ctx t.cu ((s.perfSet t.ctx t.cu).set (w.bits 2 0) { val := 0, sel := sel, recent := [] })) t

end Sys2Proof.Machine
end

