-- ==== Sys2Proof/Machine/Rings.lean ====
section
/-!
DEFINITION. Rings (13 R319 to R326), barriers (R327, R328), child launches (R330, R331).
-/

namespace Sys2Proof.Machine

/-! ## Instances -/

/-- A ring instance: the CU and the offset in its data SRAM, and the slot count (R319). -/
structure Ring where
  cu : Nat
  base : Nat
  slots : Nat
  deriving DecidableEq, Repr

/-- Handle h of a context (R361). -/
def State.handle (s : State) (ctx : CtxId) (h : Nat) : Nat := (((s.context ctx).map (fun (c : Context) => c.handles.getD h 0)).getD 0).toNat

/-- The kind of a handle entry: 0 free, 1 ring, 2 team barrier. -/
def hKind (e : Nat) : Nat := bitsOf e 1 0

/-- The instance a ring handle names for a team (R319): none unless it lies wholly in the team's region on the
home group's CU. -/
def Team.ring (m : Team) (e : Nat) : Option Ring :=
  let slots := bitsOf e 15 8
  let off := bitsOf e 39 24 * 16
  if hKind e != 1 then none
  else match m.place[bitsOf e 19 18]? with
    | none => none
    | some cu => match m.regions.find? (·.cu == cu) with
      | none => none
      | some r => if off + 16 + 8 * slots ≤ r.size then some { cu := cu, base := r.base + off, slots := slots } else none

/-- A byte of an instance. -/
def State.ringByte (s : State) (r : Ring) (i : Nat) : Nat := (memRead (s.cu r.cu).sram (r.base + i)).toNat

/-- Writes bytes of an instance; the tags of the granules are cleared (R362). -/
def State.ringPut (s : State) (r : Ring) (i : Nat) (bytes : List Byte) : State := s.sramWrite r.cu (r.base + i) bytes none

/-- The four counters: pacq, prel, cacq, crel (R320). -/
structure RingCnt where
  pacq : Nat
  prel : Nat
  cacq : Nat
  crel : Nat
  deriving DecidableEq, Repr

/-- The counters of an instance. -/
def State.ringCnt (s : State) (r : Ring) : RingCnt :=
  { pacq := s.ringByte r 0, prel := s.ringByte r 1, cacq := s.ringByte r 2, crel := s.ringByte r 3 }

/-- The send allowance (R320). -/
def RingCnt.send (c : RingCnt) (n : Nat) : Int := (n : Int) - ((((c.pacq : Int) - c.crel) % ((2 * n : Nat) : Int)))

/-- The receive allowance (R320). -/
def RingCnt.recv (c : RingCnt) (n : Nat) : Int := ((c.prel : Int) - c.cacq) % ((2 * n : Nat) : Int)

/-- The checks of R321 on counters, reserved fields and allowances. -/
def State.ringOk (s : State) (r : Ring) : Bool :=
  let c := s.ringCnt r
  let n := r.slots
  c.pacq < 2 * n && c.prel < 2 * n && c.cacq < 2 * n && c.crel < 2 * n
    && (List.range 12).all (fun i => s.ringByte r (4 + i) == 0)
    && (List.range n).all (fun i => s.ringByte r (0x14 + 8 * i) < 32
        && (List.range 3).all (fun k => s.ringByte r (0x15 + 8 * i + k) == 0))
    && 0 ≤ c.send n && c.send n ≤ (n : Int) && 0 ≤ c.recv n && c.recv n ≤ (n : Int)

/-- The state byte of slot i. -/
def State.slotState (s : State) (r : Ring) (i : Nat) : Nat := s.ringByte r (0x14 + 8 * i)

/-- The state byte of a full slot (R320). -/
def fullState (role phase : Nat) : Nat := 1 + 2 * role + 8 * phase

/-! ## Operations at the home (R321, R324) -/

/-- A ring operation as the home performs it. -/
inductive HomeOp where
  | push (w : Word)
  | pop
  | acq (cons : Bool)
  | rel (cons : Bool) (slot : Nat) (w : Option Word)
  deriving DecidableEq, Repr

/-- Its outcome: done with a result (a word or a slot index), to wait, QUEUE for the operation alone, or the
instance fails its checks. -/
inductive HomeRes where
  | done (s : State) (v : Word)
  | wait
  | queue
  | broken
  deriving DecidableEq, Repr

/-- Writes one counter, modulo 2S. -/
def State.bump (s : State) (r : Ring) (k v : Nat) : State := s.ringPut r k [BitVec.ofNat 8 ((v + 1) % (2 * r.slots))]

/-- ONE OPERATION AT THE HOME (R321, R324), by a thread of a role. The instance, and the slot that the operation uses, are checked
first; a side that has claimed a slot, none where one is released, or a wrong slot, is the operation's own QUEUE. -/
def State.homeOp (s : State) (r : Ring) (role : Nat) (op : HomeOp) : HomeRes :=
  let n := r.slots
  let c := s.ringCnt r
  let byte := fun (x : Nat) => BitVec.ofNat 8 x
  if !s.ringOk r then .broken
  else match op with
    | .push w =>
      let i := c.pacq % n
      if c.send n != 0 && s.slotState r i != 0 then .broken
      else if c.pacq != c.prel then .queue
      else if c.send n = 0 then .wait
      else
        let s := s.ringPut r (0x10 + 8 * i) (natBytes 4 w.toNat ++ [byte (fullState role (c.pacq / n))])
        .done ((s.bump r 0 c.pacq).bump r 1 c.prel) 0
    | .pop =>
      let i := c.cacq % n
      let st := s.slotState r i
      if c.recv n != 0 && (st % 2 = 0 || st.testBit 4 || bitsOf st 3 3 != c.cacq / n) then .broken
      else if c.cacq != c.crel then .queue
      else if c.recv n = 0 then .wait
      else
        let w := BitVec.ofNat 32 (memNat (s.cu r.cu).sram (r.base + 0x10 + 8 * i) 4)
        .done (((s.ringPut r (0x14 + 8 * i) [0]).bump r 2 c.cacq).bump r 3 c.crel) w
    | .acq false =>
      let i := c.pacq % n
      if c.send n = 0 then .wait
      else if s.slotState r i != 0 then .broken
      else .done ((s.ringPut r (0x14 + 8 * i) [16]).bump r 0 c.pacq) (BitVec.ofNat 32 i)
    | .acq true =>
      let i := c.cacq % n
      let st := s.slotState r i
      if c.recv n = 0 then .wait
      else if st % 2 = 0 || st.testBit 4 || bitsOf st 3 3 != c.cacq / n then .broken
      else .done ((s.ringPut r (0x14 + 8 * i) [byte (st + 16)]).bump r 2 c.cacq) (BitVec.ofNat 32 i)
    | .rel false slot w =>
      let i := c.prel % n
      if c.prel = c.pacq then (if (if c.send n != 0 then s.slotState r i == 0 else s.slotState r i % 2 == 1) then .queue else .broken)
      else if s.slotState r i != 16 then .broken
      else if slot != i then .queue
      else
        let s := match w with
          | some v => s.ringPut r (0x10 + 8 * i) (natBytes 4 v.toNat)
          | none => s
        .done ((s.ringPut r (0x14 + 8 * i) [byte (fullState role (c.prel / n))]).bump r 1 c.prel) 0
    | .rel true slot _ =>
      let i := c.crel % n
      let st := s.slotState r i
      if c.crel = c.cacq then
        (if (if c.recv n != 0 then st % 2 = 1 && !st.testBit 4 && bitsOf st 3 3 == c.crel / n else st == 0 || st == 16) then .queue else .broken)
      else if st % 2 = 0 || !st.testBit 4 then .broken
      else if slot != i then .queue
      else .done ((s.ringPut r (0x14 + 8 * i) [0]).bump r 3 c.crel) 0

/-- A slot, in the coherence order. -/
def Ring.slotKey (r : Ring) (i : Nat) : Nat := sramKey r.cu (r.base + 0x10 + 8 * i)

/-- The order that an operation gives (R325): `qpush` and `strel.prod` release at `.clu`, and the acquisition that takes the slot
synchronises with them. `c` holds the counters before it. -/
def State.ringOrder (s : State) (r : Ring) (c : RingCnt) (t : Thread) (op : HomeOp) : State × Thread :=
  let fill := fun (i : Nat) => (s.keepHeads (r.slotKey i) (List.replicate 8 0) (s.headOfRelease t 2 false :: t.fenced), t)
  let take := fun (i : Nat) => s.readBy t (some 2) t.sees (r.slotKey i) 8
  match op with
  | .push _ => fill (c.pacq % r.slots)
  | .rel false _ _ => fill (c.prel % r.slots)
  | .pop => take (c.cacq % r.slots)
  | .acq true => take (c.cacq % r.slots)
  | .acq false => (s, t)
  | .rel true _ _ => (s, t)

/-! ## Waiters (R322) -/

/-- The instance a waiter is parked on. -/
def State.waitRing (s : State) (m : Team) (ctx : CtxId) (w : RingWait) : Option Ring := m.ring (s.handle ctx w.handle)

/-- A parked operation, as the home performs it. -/
def RingOp.home : RingOp → HomeOp
  | .push w => .push w
  | .pop _ => .pop
  | .acqProd _ => .acq false
  | .acqCons _ => .acq true

/-- Gives a served waiter its result (R322). -/
def Thread.ringResult (t : Thread) (op : RingOp) (v : Word) : Thread :=
  match op with
  | .push _ => t
  | .pop d => t.setReg d v
  | .acqProd d => t.setReg d v
  | .acqCons d => t.setReg d v

/-- Takes a thread off a team's waiting list. -/
def State.unwait (s : State) (launch group : Nat) (id : TId) : State :=
  s.modTeam launch group (fun m => { m with waits := m.waits.filter (·.thread != id) })

/-- Every thread parked on an instance takes QUEUE (R321). -/
def State.breakRing (s : State) (launch group : Nat) (ctx : CtxId) (r : Ring) : State :=
  match s.teamOf launch group with
  | none => s
  | some m =>
    (m.waits.filter (fun w => s.waitRing m ctx w == some r)).foldl (fun s w =>
      let s := s.unwait launch group w.thread
      match s.thread w.thread with
      | some t => s.deliverNow t .queue 0 t.blk t.off
      | none => s) s

/-- An operation could not go on: it still waits. A parked `qpush` or `qpop` whose allowance is 0 waits whatever
its side has claimed. -/
def State.stillWaits (s : State) (r : Ring) (op : RingOp) : Bool :=
  let c := s.ringCnt r
  s.ringOk r && match op with
    | .push _ => c.send r.slots = 0
    | .acqProd _ => c.send r.slots = 0
    | .pop _ => c.recv r.slots = 0
    | .acqCons _ => c.recv r.slots = 0

/-- The home serves the earliest waiter that can be served, again and again (R322). -/
def serveRing : Nat → State → Nat → Nat → CtxId → Ring → State
  | 0, s, _, _, _, _ => s
  | n + 1, s, launch, group, ctx, r =>
    match s.teamOf launch group with
    | none => s
    | some m =>
      match (m.waits.filter (fun w => s.waitRing m ctx w == some r)).find? (fun w => !s.stillWaits r w.op) with
      | none => s
      | some w => match s.thread w.thread with
        | none => serveRing n (s.unwait launch group w.thread) launch group ctx r
        | some t =>
          let c := s.ringCnt r
          match s.homeOp r (t.role.toNat % 4) w.op.home with
          | .broken => s.breakRing launch group ctx r
          | .wait => s
          | .queue =>
            let s := s.unwait launch group w.thread
            serveRing n (s.deliverNow t .queue 0 t.blk t.off) launch group ctx r
          | .done s v =>
            let (s, t) := (s.unwait launch group w.thread).ringOrder r c t w.op.home
            serveRing n (s.resumeNext (t.ringResult w.op v)) launch group ctx r

/-! ## The stage bonus (R326) -/

/-- The bonus of a stage of a team. -/
def State.stageBonus (s : State) (m : Team) (ctx : CtxId) (stage : Nat) : Nat :=
  let hs := ((s.context ctx).map (·.handles)).getD []
  let share := fun (pick : Nat → Bool) (allow : RingCnt → Nat → Int) =>
    hs.foldl (fun acc h => match m.ring h.toNat with
      | some r =>
        if pick h.toNat then
          min acc (if s.ringOk r then (8 * (allow (s.ringCnt r) r.slots)).toNat / r.slots else 0)
        else acc
      | none => acc) 8
  min 15 (share (fun e => bitsOf e 23 22 == stage) RingCnt.recv + share (fun e => bitsOf e 21 20 == stage) RingCnt.send)

/-- Recomputes the bonus of every group of a team of a pipeline launch (R326). -/
def State.refreshBonus (s : State) (launch group : Nat) (ctx : CtxId) : State :=
  match s.teamOf launch group, s.launch launch with
  | some m, some l =>
    if l.flags.getLsbD 3 then
      let mine := fun (g : Group) => g.launch == launch && g.num / s.teamSize launch == m.num
      { s with groups := modWhere s.groups mine (fun (g : Group) => { g with bonus := s.stageBonus m ctx g.stage }) }
    else s
  | _, _ => s

/-! ## The ring instructions (R323 to R325) -/

/-- What the four instructions share: the handle, its instance and its stage, order, then the operation; the
waiters are served after it, and the stage bonus is computed again whatever it came to (R326). The thread's own stores to the instance are
performed before it (R246). `nb` is the predicate a `.nb` form writes, `wait` what a blocking form parks with. -/
def ringWord (s : State) (t : Thread) (h : Nat) (cons rel : Bool) (op : HomeOp) (nb : Option Nat) (wait : Option RingOp)
    (fin : Thread → Word → Thread) : Act :=
  let e := s.handle t.ctx h
  match s.teamOf t.id.launch t.id.group with
  | none => .fault .handle 0
  | some m =>
    match m.ring e with
    | none => .fault .handle 0
    | some r =>
      let stage := t.role.toNat / 4
      let want := if cons then bitsOf e 23 22 else bitsOf e 21 20
      if s.launchFlag t 3 && stage != want then .fault .queue 0
      else if rel && !s.orderMet t 2 false then .hold s t (.order 2 false)
      else if s.ownFlight t then s.holdFor t t.ownFlight
      else
        let s := s.commitWhere (fun p => p.thread == t.id && p.touches (sramKey r.cu r.base) (16 + 8 * r.slots))
        let c := s.ringCnt r
        let bonus := fun (s : State) => s.refreshBonus t.id.launch t.id.group t.ctx
        match s.homeOp r (t.role.toNat % 4) op with
        | .broken => .err (bonus (s.breakRing t.id.launch t.id.group t.ctx r)) .queue 0
        | .queue => .err (bonus s) .queue 0
        | .wait => match nb, wait with
          | some q, _ => .go (bonus s) (t.setPred q false)
          | none, some op =>
            .park (bonus (s.modTeam t.id.launch t.id.group (fun m => { m with
              waits := m.waits ++ [{ handle := h, thread := t.id, op := op }] }))) t (.ring h op)
          | none, none => .err (bonus s) .queue 0
        | .done s v =>
          let (s, t) := s.ringOrder r c (fin t v) op
          let t := match nb with
            | some q => t.setPred q true
            | none => t
          let s := serveRing m.waits.length s t.id.launch t.id.group t.ctx r
          .go (bonus s) t

/-- The handle of a ring word. -/
def ringHandle (w : XWord) : Nat := w.bits 5 0

/-- qpush (R324). -/
def execQpush (w : XWord) (s : State) : Host.Outcome State Fault Refusal :=
  issue (.x 0x100 w) s fun s t =>
    let v := t.reg w.a.toNat
    ringWord s t (ringHandle w) false true (.push v) (if w.bit 6 then some w.d.toNat else none) (some (.push v)) (fun t _ => t)

/-- qpop (R324). -/
def execQpop (w : XWord) (s : State) : Host.Outcome State Fault Refusal :=
  issue (.x 0x101 w) s fun s t =>
    let d := w.d.toNat
    ringWord s t (ringHandle w) true false .pop (if w.bit 6 then some w.c.toNat else none) (some (.pop d)) (fun t v => t.setReg d v)

/-- stacq (R324). -/
def execStacq (w : XWord) (s : State) : Host.Outcome State Fault Refusal :=
  issue (.x 0x102 w) s fun s t =>
    let d := w.d.toNat
    ringWord s t (ringHandle w) (w.bit 7) false (.acq (w.bit 7)) (if w.bit 6 then some w.c.toNat else none)
      (some (if w.bit 7 then .acqCons d else .acqProd d)) (fun t v => t.setReg d v)

/-- strel (R324). -/
def execStrel (w : XWord) (s : State) : Host.Outcome State Fault Refusal :=
  issue (.x 0x103 w) s fun s t =>
    ringWord s t (ringHandle w) (w.bit 7) (!w.bit 7)
      (.rel (w.bit 7) (t.reg w.a.toNat).toNat (if w.bit 8 then some (t.reg w.b.toNat) else none)) none none (fun t _ => t)

/-! ## Barriers -/

/-- The thread parks at a barrier; the state goes on from there. -/
def barrierPark (s : State) (t : Thread) (r : Reason) (k : State → State) : Act :=
  .stop (k (s.parkAt { t with issued := true, steps := false } r))

/-- bar (R327). -/
def execBar (w : XWord) (s : State) : Host.Outcome State Fault Refusal :=
  issue (.x 0x104 w) s fun s t =>
    let l := t.id.launch
    let g := t.id.group
    if !s.orderMet t 1 false then .hold s t (.order 1 false)
    else barrierPark (s.modGroup l g (fun x => { x with arrived := x.arrived ||| maskBit t.id.num })) t .barrier (·.checkBar l g)

/-- A thread's arrival at a team barrier. -/
def Team.arrive (m : Team) (h group num : Nat) : Team :=
  let same := fun (a : Arrival) => a.handle == h && a.group == group
  if m.arrivals.any same then
    { m with arrivals := modWhere m.arrivals same (fun a => { a with mask := a.mask ||| maskBit num }) }
  else { m with arrivals := m.arrivals ++ [{ handle := h, group := group, mask := maskBit num }] }

/-- hbar (R328). -/
def execHbar (w : XWord) (s : State) : Host.Outcome State Fault Refusal :=
  issue (.x 0x105 w) s fun s t =>
    let h := w.bits 5 0
    let e := s.handle t.ctx h
    let l := t.id.launch
    let g := t.id.group
    if hKind e != 2 then .fault .handle 0
    else if s.launchFlag t 3 && !(bitsOf e 11 8).testBit (t.role.toNat / 4) then .fault .queue 0
    else if !s.orderMet t 2 false then .hold s t (.order 2 false)
    else barrierPark (s.modTeam l g (·.arrive h g t.id.num)) t (.teamBarrier h) (·.checkHbar l g h t.ctx)

/-! ## Child launches -/

/-- launch (R330). One that the log blocks parks before any check (R184). -/
def execLaunch (w : XWord) (s : State) : Host.Outcome State Fault Refusal :=
  issue (.x 0x106 w) s fun s t =>
    let depth := ((s.launch t.id.launch).map (·.depth)).getD 0
    if s.logPage t (logOf 0x06 w t) then logStop s t .secondFault
    else if t.id.num != 0 || t.id.group % s.teamSize t.id.launch != 0 then .fault .privilege 0
    else if 10 ≤ depth then .fault .nestDepth 0
    else s.accessWord t (logOf 0x06 w t) Cap.null Cap.null

/-- join (R331): it issues again once the child has its outcome (R182). -/
def execJoin (w : XWord) (s : State) : Host.Outcome State Fault Refusal :=
  issue (.x 0x107 w) s fun s t =>
    let v := (t.reg w.a.toNat).toNat
    let e := v % 32
    match s.teamOf t.id.launch t.id.group with
    | none => .fault .handle 0
    | some m =>
      let c := m.child e
      if !c.used || v / 256 % 256 != c.seq.toNat || v / 32 % 8 != 0 || v / 65536 != 0 then .fault .handle 0
      else match c.result with
        | none => .park s t (.join e w.d.toNat)
        | some r =>
          .go (s.modTeam t.id.launch t.id.group (fun m => { m with
            children := modAt m.children e (fun c => { c with used := false, seq := c.seq + 1, result := none }) }))
            (t.setReg w.d.toNat (r.setWidth 32))

end Sys2Proof.Machine
end

