-- ==== Sys2Proof/Machine/CopyIssue.lean ====
section
/-!
DEFINITION. Issue of engine instructions (12 R283, R284), the copy instructions and `qfen` (R290 to R296).
-/

namespace Sys2Proof.Machine

/-! ## Queues -/

/-- Entries a queue holds (R281). -/
def queueCapacity (q : Nat) : Nat := if q = 4 then 16 else 32

/-- The entries of a context's queue on a CU. -/
def State.queue (s : State) (ctx : CtxId) (cu q : Nat) : List EngineEntry :=
  (((s.context ctx).bind (fun c => c.queues.find? (fun x => x.cu == cu && x.q == q))).map (·.entries)).getD []

/-- Changes a queue's entries. -/
def State.modQueue (s : State) (ctx : CtxId) (cu q : Nat) (f : List EngineEntry → List EngineEntry) : State :=
  let same := fun (x : EngineQueue) => x.cu == cu && x.q == q
  s.modContext ctx (fun c =>
    if c.queues.any same then
      { c with queues := modWhere c.queues same (fun x => { x with entries := f x.entries }) }
    else { c with queues := c.queues ++ [{ cu := cu, q := q, entries := f [] }] })

/-- A thread's new operation enters its queues, and its counter goes up (R283 steps 4 and 5). A queue that is
full, or a counter at 255, holds the thread (R284, R383); the issue acts as a release (R257), and an acquire of the thread in flight
holds it (R249). -/
def engineIssue (s : State) (t : Thread) (qs : List Nat) (ctr : Nat) (op : Nat → EngineOp) (before : State → State) : Act :=
  let level := if qs.all (· == 4) then 1 else 3
  if s.acquireHolds t .rc then s.holdFor t (t.acquireOut .rc)
  else if !s.orderMet t level false then .hold s t (.order level false)
  else if (t.cnt ctr).toNat = 255 then .hold s t (.counter ctr)
  else match qs.find? (fun q => queueCapacity q ≤ (s.queue t.ctx t.cu q).length) with
    | some q => .hold s t (.queue q)
    | none =>
      let e : EngineEntry := { thread := t.id, ctr := ctr, blk := t.blk, off := t.off, op := op s.nextSerial
                               begun := false, progress := 0, page := none, assist := false, serial := s.nextSerial
                               prior := [], before := s.covered t false, replay := false }
      let s := before { s with nextSerial := s.nextSerial + 1 }
      .go (qs.foldl (fun s q => s.modQueue t.ctx t.cu q (· ++ [e])) s) (t.setCnt ctr (t.cnt ctr + 1))

/-- An operation performed at issue (R291, R383): its issue acts as a release, and nothing else happens. -/
def issueEmpty (s : State) (t : Thread) (level : Nat) : Act :=
  if s.acquireHolds t .rc then s.holdFor t (t.acquireOut .rc)
  else if s.orderMet t level false then .go s t
  else .hold s t (.order level false)

/-- A role may use an engine (R38): 0 copy, 1 matrix; a plain launch's threads use both. -/
def roleMay (t : Thread) (engine : Nat) : Bool := t.role.toNat % 4 == engine || t.role.toNat % 4 == 3

/-! ## Checks -/

/-- Steps 1 to 4 of R157. -/
def State.derefHead (s : State) (t : Thread) (x : Cap) (need : Nat) : Option FClass :=
  if !x.tag then some .tag
  else if x.otype != 0 then some .sealed
  else if s.rev t x then some .revoked
  else if !x.holds need then some .perm
  else none

/-- A check's outcome: the fault and its address. -/
abbrev Check := Option (FClass × Word64)

/-- The first check that fails. -/
def firstFail : List Check → Check
  | [] => none
  | some f :: _ => some f
  | none :: l => firstFail l

/-- R157 over [cursor, cursor + n); steps 1 to 4 alone for no bytes (R291). -/
def State.rangeCheck (s : State) (t : Thread) (x : Cap) (need n al : Nat) : Check :=
  let r := if n = 0 then s.derefHead t x need
    else s.deref t x { need := need, ea := (x.cursor : Int), n := n, al := al, lacks := false, column := false }
  r.map (fun c => (c, BitVec.ofNat 64 x.cursor))

/-- A condition that must hold. -/
def need (ok : Bool) (c : FClass) (addr : Word64) : Check := if ok then none else some (c, addr)

/-- The group's reservations (R281). -/
def State.resvs (s : State) (t : Thread) : List Resv := ((s.group t.id.launch t.id.group).map (·.resvs)).getD []

/-- The reservation number and the offset of an operand-buffer reference (R290). -/
def refNum (r : Word) : Nat := r.toNat / 2 ^ 24 % 16
def refOff (r : Word) : Nat := r.toNat % 2 ^ 24

/-- The live, not releasing reservation a reference names (R290, R292). -/
def State.resvOf (s : State) (t : Thread) (r : Word) : Option Resv :=
  if r.toNat / 2 ^ 28 != 0 then none
  else ((s.resvs t)[refNum r]?).filter (fun v => v.live && !v.releasing)

/-- The checks of R292: the reservation, a stride if there is one, then the range. -/
def State.refCheck (s : State) (t : Thread) (r : Word) (n : Nat) (stride : Bool) : Check :=
  let a := r.setWidth 64
  match s.resvOf t r with
  | none => some (.queue, a)
  | some v => if !stride then some (.queue, a) else need (n = 0 || refOff r + n ≤ v.size) .bounds a

/-- The destination of a copy: a place and its checks. -/
def State.destCheck (s : State) (t : Thread) (w : XWord) (n : Nat) : Check :=
  if w.bit 10 then s.refCheck t (t.reg w.d.toNat) n true else s.rangeCheck t (t.quad w.d.toNat) permST n 1

/-- The destination operand. -/
def copyDest (t : Thread) (w : XWord) : Place :=
  if w.bit 10 then .ob (refNum (t.reg w.d.toNat)) (refOff (t.reg w.d.toNat))
  else .mem (t.quad w.d.toNat) (t.quad w.d.toNat).cursor

/-- A copy instruction: its role, its checks, then its queue; an operation of no bytes is performed at issue. -/
def copyWord (op : Nat) (w : XWord) (s : State) (checks : State → Thread → Check) (empty : Thread → Bool)
    (mk : Thread → EngineOp) : Host.Outcome State Fault Refusal :=
  issue (.x op w) s fun s t =>
    if !roleMay t 0 then .fault .role 0
    else match checks s t with
      | some (c, a) => .fault c a
      | none => if empty t then issueEmpty s t 3 else engineIssue s t [w.bits 1 0] (w.bits 5 4) (fun _ => mk t) id

/-! ## The copy instructions (R291) -/

/-- cpy. -/
def execCpy (w : XWord) (s : State) : Host.Outcome State Fault Refusal :=
  let n := fun (t : Thread) => (t.reg w.b.toNat).toNat
  let src := fun (t : Thread) => t.quad w.a.toNat
  copyWord 0x0C0 w s
    (fun s t =>
      let dst := t.quad w.d.toNat
      let bad := if (src t).cursor % 16 != 0 || n t % 16 != 0 then (src t).cursor else dst.cursor
      firstFail
        [ s.rangeCheck t (src t) permLD (n t) 1, s.destCheck t w (n t),
          need (!w.bit 8 || n t = 0 || ((src t).cursor % 16 = 0 && n t % 16 = 0 && dst.cursor % 16 = 0)) .align
            (BitVec.ofNat 64 bad) ])
    (fun t => n t = 0)
    (fun t => .cpy (copyDest t w) (.mem (src t) (src t).cursor) (n t) (w.bit 8))

/-- cpyv: rows, columns, and the stride of an `.ob` destination. -/
def execCpyv (w : XWord) (s : State) : Host.Outcome State Fault Refusal :=
  let rows := fun (t : Thread) => (t.reg w.b.toNat).toNat
  let cols := fun (t : Thread) => (t.reg (w.b.toNat + 1)).toNat
  let src := fun (t : Thread) => t.quad w.a.toNat
  let stride := fun (t : Thread) => if w.bit 10 then (t.reg w.c.toNat).toNat else 0
  copyWord 0x0C1 w s
    (fun s t =>
      let x := src t
      let y := t.quad w.d.toNat
      let ob := w.bit 10
      let tr := w.bit 8
      let es := 2 ^ x.esize
      let none? := rows t = 0 || cols t = 0
      let span := fun (c : Cap) (r : Nat) => if none? then 0 else r * 2 ^ c.pitch * 2 ^ c.esize
      let shape := 1 ≤ x.pitch && (if tr then rows t else cols t) ≤ 2 ^ x.pitch
        && (ob || (1 ≤ y.pitch && y.esize = x.esize && cols t ≤ 2 ^ y.pitch))
      let step := stride t % 16 = 0 && cols t * es ≤ stride t
      firstFail
        [ need shape .queue 0,
          s.rangeCheck t x permLD (span x (if tr then cols t else rows t)) 1,
          (if ob then s.refCheck t (t.reg w.d.toNat) (if none? then 0 else rows t * stride t) (none? || step)
           else s.rangeCheck t y permST (span y (rows t)) 1),
          need (none? || x.cursor % es = 0) .align (BitVec.ofNat 64 x.cursor),
          need (none? || ob || y.cursor % es = 0) .align (BitVec.ofNat 64 y.cursor) ])
    (fun t => rows t = 0 || cols t = 0)
    (fun t => .cpyv (copyDest t w) (.mem (src t) (src t).cursor) (rows t) (cols t) (w.bit 8) (stride t))

/-- cpyg: the source's steps 1 to 4, 6 and 7 at its cursor. -/
def execCpyg (w : XWord) (s : State) : Host.Outcome State Fault Refusal :=
  let m := fun (t : Thread) => (t.reg w.c.toNat).toNat
  copyWord 0x0C2 w s
    (fun s t =>
      let x := t.quad w.a.toNat
      let y := t.quad w.d.toNat
      let i := t.quad w.b.toNat
      let es := 2 ^ x.esize
      let some? := m t != 0
      let a := BitVec.ofNat 64 x.cursor
      let at0 := s.remapped t x.space x.cursor
      firstFail
        [ s.rangeCheck t i permLD (4 * m t) 4,
          s.rangeCheck t y permST (m t * es) 1,
          (s.derefHead t x permLD).map (fun c => (c, a)),
          need (!some? || s.inWindow t x.space at0 1) .window a,
          need (!some? || s.local? t x.space at0) .spaceForeign a,
          need (!some? || x.cursor % es = 0) .align a,
          need (!some? || y.cursor % es = 0) .align (BitVec.ofNat 64 y.cursor) ])
    (fun t => m t = 0)
    (fun t => .cpyg (copyDest t w) (.mem (t.quad w.a.toNat) (t.quad w.a.toNat).cursor)
      (.mem (t.quad w.b.toNat) (t.quad w.b.toNat).cursor) (m t))

/-- cpyf. -/
def execCpyf (w : XWord) (s : State) : Host.Outcome State Fault Refusal :=
  let n := fun (t : Thread) => (t.reg w.b.toNat).toNat
  copyWord 0x0C3 w s (fun s t => s.destCheck t w (n t)) (fun t => n t = 0)
    (fun t => .cpyf (copyDest t w) (t.reg w.a.toNat) (n t))

/-- qfen (R296): one join entry in each named queue; none named, performed at issue. -/
def execQfen (w : XWord) (s : State) : Host.Outcome State Fault Refusal :=
  issue (.x 0x0C4 w) s fun s t =>
    let mask := (t.reg w.a.toNat).toNat % 32
    let qs := (List.range 5).filter (fun q => mask.testBit q)
    if t.role.toNat % 4 == 2 then .fault .role 0
    else if qs.isEmpty then issueEmpty s t 1
    else engineIssue s t qs (w.bits 5 4) (fun n => .join n mask) id

end Sys2Proof.Machine
end

