-- ==== Sys2Proof/Machine/MatrixIssue.lean ====
section
/-!
DEFINITION. The matrix instructions at issue (12 R297, R300, R301, R308 to R316), and tile ownership at
`mget` (R306, R313; 24 R449).
-/

namespace Sys2Proof.Machine

/-! ## Formats and the parameter block -/

/-- The byte size of an element of an A, B or C format (R297); qn4 is half a byte and is not asked for. -/
def fmtBytes (f : Nat) : Nat := match f with | 0 => 2 | 1 => 2 | 2 => 4 | 3 => 8 | 7 => 4 | _ => 1

/-- An accepted combination of A, B and C (R297). -/
def comboOk (a b c : Nat) : Bool :=
  (a == 0 && b == 0 && c == 2) || (a == 1 && b == 1 && c == 2) || (a == 2 && b == 2 && c == 2)
    || (a == 3 && b == 3 && c == 3) || ((a == 4 || a == 5) && (b == 4 || b == 5) && c == 7)
    || (a == 0 && b == 6 && c == 2)

/-- K of a combination, by its A format (R297). -/
def stepK (a : Nat) : Nat := match a with | 2 => 32 | 3 => 16 | _ => 64

/-- The fields of a parameter block (R301). -/
structure MmoBlock where
  a : Nat
  b : Nat
  c : Nat
  flags : Nat
  acc : Nat
  n : Nat
  slot : Nat
  key : Nat
  aRef : Word
  stride : Nat
  scale : Word
  super : Word
  deriving DecidableEq, Repr

/-- A field of a block. -/
def blockNat (bs : List Byte) (o n : Nat) : Nat := bytesNat ((bs.drop o).take n)

/-- Reads a block. -/
def readBlock (bs : List Byte) : MmoBlock :=
  { a := blockNat bs 0 1, b := blockNat bs 1 1, c := blockNat bs 2 1, flags := blockNat bs 3 1, acc := blockNat bs 4 1
    n := blockNat bs 5 1 + 1, slot := blockNat bs 6 1, key := blockNat bs 7 1, aRef := BitVec.ofNat 32 (blockNat bs 8 4)
    stride := blockNat bs 12 2, scale := BitVec.ofNat 32 (blockNat bs 16 4), super := BitVec.ofNat 32 (blockNat bs 20 4) }

/-- The permitted values of R301; m is the context's allotment. -/
def blockOk (bs : List Byte) (p : MmoBlock) (m : Nat) : Bool :=
  let q := p.b == 6
  comboOk p.a p.b p.c && p.flags < 8 && p.acc < 16 && (p.c != 3 || p.acc % 2 == 0) && p.slot < m
    && (p.flags.testBit 2 || p.key == 0) && p.aRef.toNat % 16 == 0 && p.stride % 16 == 0
    && blockNat bs 14 2 == 0 && blockNat bs 24 40 == 0
    && (if q then p.super.toNat % 4 == 0 else p.scale == 0 && p.super == 0)

/-- The context's weight-slot allotment on a CU (R282): the first slot and the count. -/
def State.allot (s : State) (ctx : CtxId) (cu : Nat) : Nat × Nat :=
  match (s.context ctx).bind (fun c => c.allots.find? (·.cu == cu)) with
  | some a => (a.first, a.count)
  | none => (0, 0)

/-- The references of a block (R310). -/
def State.blockRefs (s : State) (t : Thread) (p : MmoBlock) : Check :=
  let typed : Check := match s.resvOf t p.aRef with
    | some v => need (v.fmt.toNat == p.a || v.fmt == 0xFF) .queue (p.aRef.setWidth 64)
    | none => none
  firstFail
    [ (s.refCheck t p.aRef 0 true), typed,
      s.refCheck t p.aRef (31 * p.stride + p.n * stepK p.a * fmtBytes p.a) true,
      (if p.b = 6 then s.refCheck t p.scale (p.n * 32) true else none),
      (if p.b = 6 then s.refCheck t p.super 128 true else none) ]

/-! ## Issue -/

/-- A matrix instruction that enqueues. -/
def matrixWord (op : Nat) (w : XWord) (s : State) (f : State → Thread → Act) : Host.Outcome State Fault Refusal :=
  issue (.x op w) s fun s t => if !roleMay t 1 then .fault .role 0 else f s t

/-- Enqueues on the matrix queue. -/
def matrixIssue (s : State) (t : Thread) (w : XWord) (op : EngineOp) (before : State → State) : Act :=
  engineIssue s t [4] (w.bits 5 4) (fun _ => op) before

/-- The effective address of a bracketed form (R308): the index in bytes. -/
def bracketEa (w : XWord) (t : Thread) : Int := ((t.quad w.a.toNat).cursor : Int) + sextNat (indexOf w t 9).toNat 32

/-- A quad whose cursor is the effective address. -/
def Place.at (x : Cap) (ea : Int) : Place := .mem x ea.toNat

/-- wfill (R309). -/
def execWfill (w : XWord) (s : State) : Host.Outcome State Fault Refusal :=
  matrixWord 0x0C5 w s fun s t =>
    let slot := (t.reg w.d.toNat).toNat
    let len := (t.reg w.c.toNat).toNat
    let sparse := w.bit 10
    let ea := bracketEa w t
    let fits := if sparse then 288 ≤ len && len ≤ 4384 else 16 ≤ len && len ≤ 4096
    if (s.allot t.ctx t.cu).2 ≤ slot then .fault .queue 0
    else if !fits || len % 16 != 0 then .fault .queue 0
    else match s.deref t (t.quad w.a.toNat)
        { need := permLD + permWT, ea := ea, n := len, al := 16, lacks := false, column := false } with
      | some c => .fault c (faddr ea)
      | none => matrixIssue s t w (.wfill slot (.at (t.quad w.a.toNat) ea) len sparse) id

/-- mmo (R310): the block is read whole at issue. -/
def execMmo (w : XWord) (s : State) : Host.Outcome State Fault Refusal :=
  matrixWord 0x0C8 w s fun s t =>
    let x := t.quad w.a.toNat
    let ea := bracketEa w t
    match s.deref t x { need := permLD, ea := ea, n := 64, al := 64, lacks := false, column := false } with
    | some c => .fault c (faddr ea)
    | none =>
      if x.space != spcScratch then .fault .perm (faddr ea)
      else match s.land t x.space ea.toNat .read with
        | .ok (.sram cu off) =>
          let bs := s.seenBytes t.sees (sramKey cu off) 64
          let p := readBlock bs
          if !blockOk bs p (s.allot t.ctx t.cu).2 then .fault .illegalOperand 0
          else match s.blockRefs t p with
            | some (c, a) => .fault c a
            | none => matrixIssue s t w (.mmo x ea.toNat bs) id
        | _ => .fault .perm (faddr ea)

/-- The element size of `mst`'s F (R308). -/
def mstSize (f : Nat) : Nat := match f with | 0 => 4 | 1 => 2 | 2 => 2 | 3 => 8 | _ => 4

/-- mst (R311). -/
def execMst (w : XWord) (s : State) : Host.Outcome State Fault Refusal :=
  matrixWord 0x0C9 w s fun s t =>
    let f := w.bits 8 6
    let tile := w.bits 3 0
    let size := mstSize f
    if w.bit 10 then
      let r := t.reg w.a.toNat
      let stride := (t.reg w.b.toNat).toNat
      match s.refCheck t r (32 * stride) (stride % 16 = 0 && 32 * size ≤ stride) with
      | some (c, a) => .fault c a
      | none => matrixIssue s t w (.mst (.ob (refNum r) (refOff r)) f tile stride) id
    else
      let x := t.quad w.a.toNat
      let ea := bracketEa w t
      match s.derefHead t x permST with
      | some c => .fault c (faddr ea)
      | none =>
        if 2 ^ x.esize != size || x.pitch < 5 then .fault .queue 0
        else match s.deref t x
            { need := permST, ea := ea, n := 32 * 2 ^ x.pitch * size, al := size, lacks := false, column := false } with
          | some c => .fault c (faddr ea)
          | none => matrixIssue s t w (.mst (.at x ea) f tile 0) id

/-- mzro (R312). -/
def execMzro (w : XWord) (s : State) : Host.Outcome State Fault Refusal :=
  matrixWord 0x0CA w s fun s t =>
    let mask : BitVec 16 := (t.reg w.a.toNat).setWidth 16
    if mask = 0 then issueEmpty s t 1 else matrixIssue s t w (.mzro mask) id

/-! ## Tiles -/

/-- A tile of a CU. -/
def State.tile (s : State) (cu i : Nat) : Tile := (s.cu cu).tiles.getD i Tile.reset

/-- Changes a tile of a CU. -/
def State.modTile (s : State) (cu i : Nat) (f : Tile → Tile) : State :=
  s.modCu cu (fun c => { c with tiles := modAt c.tiles i f })

/-- Element (r, c) of a tile. -/
def Tile.el (t : Tile) (r c : Nat) : Nat := memNat t.data (128 * r + 4 * c) 4

/-- A tile owned by another context, so that its use takes a first-use trap (R306). -/
def State.tileForeign (s : State) (cu i : Nat) (ctx : CtxId) : Bool :=
  match (s.tile cu i).owner with
  | some o => o != ctx
  | none => false

/-- The context's saved content of a tile, if its content bit is set; the bit and the record are given up. -/
def State.takeSaved (s : State) (ctx : CtxId) (i : Nat) : Option SpilledTile × State :=
  match s.context ctx with
  | none => (none, s)
  | some c =>
    if c.tileMap.getLsbD i then
      (c.spilled.find? (·.tile == i), s.modContext ctx (fun c => { c with
        tileMap := c.tileMap &&& ~~~(1#16 <<< i), spilled := c.spilled.filter (·.tile != i) }))
    else (none, s)

/-- A context takes a tile owned by none or by itself: it becomes the owner, and its saved content is loaded
unless the use is `mzro`, which discards it (R306, R449). -/
def State.ownTile (s : State) (cu i : Nat) (ctx : CtxId) (load : Bool) : State :=
  if (s.tile cu i).owner = some ctx then s
  else
    let (rec?, s) := s.takeSaved ctx i
    match rec? with
    | some r => s.modTile cu i (fun _ =>
        if load then { owner := some ctx, flags := r.flags, data := r.data } else { owner := some ctx, flags := 0, data := [] })
    | none => s.modTile cu i (fun t => { t with owner := some ctx })

/-- The tiles `mget` and `mst` use: a pair for a 64-bit element. -/
def tilePair (wide : Bool) (i : Nat) : List Nat := if wide then [i, i + 1] else [i]

/-- The serial number before which an `mget`'s matrix operations were issued. -/
def State.mgetFrom (s : State) (t : Thread) : Nat :=
  t.mark.getD s.nextSerial

/-- Every matrix operation of the context on the CU issued before a serial number has been performed (R313). -/
def State.matrixDone (s : State) (t : Thread) (n : Nat) : Bool := (s.queue t.ctx t.cu 4).all (fun e => n ≤ e.serial)

/-- mget (R313): a tile of another context waits for the first-use trap. -/
def execMget (w : XWord) (s : State) : Host.Outcome State Fault Refusal :=
  matrixWord 0x0CB w s fun s t =>
    let k := w.bits 7 6
    let i := w.bits 3 0
    let pos := (t.reg w.a.toNat).toNat
    let n := s.mgetFrom t
    if !s.matrixDone t n then .hold s { t with mark := some n } (.mget n)
    else match t.engFault with
      | some r => engFaultAct t r
      | none =>
        let is := tilePair (k == 1) i
        match is.find? (fun j => s.tileForeign t.cu j t.ctx) with
        | some j => .hold s { t with mark := some n } (.tile j n)
        | none =>
          let s := is.foldl (fun s j => s.ownTile t.cu j t.ctx true) s
          let el := fun (j : Nat) => (s.tile t.cu j).el (pos % 32) (pos / 32 % 32)
          match k with
          | 0 => .go s (t.setReg w.d.toNat (BitVec.ofNat 32 (el i)))
          | 1 => .go s (t.setPair w.d.toNat (BitVec.ofNat 64 (el i + 2 ^ 32 * el (i + 1))))
          | _ => .go s (t.setReg w.d.toNat ((s.tile t.cu i).flags.setWidth 32))

/-! ## Reservations -/

/-- A free reservation. -/
def Resv.free : Resv := { live := false, releasing := false, size := 0, fmt := 0, off := 0 }

/-- A range of the quota meets no reservation. -/
def resvFits (l : List Resv) (off size : Nat) : Bool :=
  l.all (fun v => !v.live || off + size ≤ v.off || v.off + v.size ≤ off)

/-- obres (R314). -/
def execObres (w : XWord) (s : State) : Host.Outcome State Fault Refusal :=
  matrixWord 0x0CC w s fun s t =>
    let size := (t.reg w.a.toNat).toNat
    let fmt : Byte := (t.reg w.b.toNat).setWidth 8
    let quota := ((s.group t.id.launch t.id.group).map (·.obSize)).getD 0
    let l := s.resvs t
    if size = 0 || size % 256 != 0 || quota < size then .fault .reserve 0
    else if 6 ≤ fmt.toNat && fmt != 0xFF then .fault .queue 0
    else
      let num := (List.range 16).find? (fun i => !(l.getD i Resv.free).live)
      let off := ((List.range (quota / 256)).map (· * 256)).find? (fun o => o + size ≤ quota && resvFits l o size)
      match num, off with
      | some i, some o =>
        .go (s.modGroup t.id.launch t.id.group (fun g => { g with
          resvs := g.resvs.set i { live := true, releasing := false, size := size, fmt := fmt, off := o } }))
          (t.setReg w.d.toNat (BitVec.ofNat 32 i))
      | _, _ => .fault .reserve 0

/-- obrel (R315): the reservation is releasing from its issue on. -/
def execObrel (w : XWord) (s : State) : Host.Outcome State Fault Refusal :=
  matrixWord 0x0CD w s fun s t =>
    let v := (t.reg w.a.toNat).toNat
    let r := (s.resvs t).getD v Resv.free
    if 16 ≤ v || !r.live || r.releasing then .fault .queue 0
    else matrixIssue s t w (.obrel v) (fun s => s.modGroup t.id.launch t.id.group (fun g => { g with
      resvs := modAt g.resvs v (fun x => { x with releasing := true }) }))

/-- obset (R316). -/
def execObset (w : XWord) (s : State) : Host.Outcome State Fault Refusal :=
  matrixWord 0x0CE w s fun s t =>
    let n := 2 ^ w.bits 2 0
    let r := t.reg w.a.toNat
    match firstFail [s.refCheck t r n true, need (refOff r % n = 0) .align (r.setWidth 64)] with
    | some (c, a) => .fault c a
    | none => matrixIssue s t w (.obset (refNum r) (refOff r) (natBytes n (t.data (widthRegs (w.bits 2 0)) w.c.toNat))) id

end Sys2Proof.Machine
end

