-- ==== Sys2Proof/Machine/Waits.lean ====
section
/-!
DEFINITION. When the reason of a parked thread clears (07 R182; 16 R384), for the reasons that end with
something the machine does elsewhere: an order met, an entry or a count freed, an operation performed.
-/

namespace Sys2Proof.Machine

/-- The condition of a "late result" reason holds (R182). A firmware call and an absent page end by events of
their own. -/
def State.lateMet (s : State) (t : Thread) (c : LateCond) : Bool :=
  match c with
  | .flight reqs => s.flights.all (fun f => !reqs.contains f.req || f.answer.isSome)
  | .order level un => s.orderMet t level un
  | .fence kind level => s.fenceMet t kind level
  | .drain path before => s.drained t path before
  | .queue q => decide ((s.queue t.ctx t.cu q).length < queueCapacity q)
  | .counter w => (t.cnt w).toNat < 255
  | .mget n => s.matrixDone t n
  | .tile i _ => !s.tileForeign t.cu i t.ctx
  | .ops => t.opsDone
  | .call => false
  | .page va => !s.requestsFull t.ctx.part (va / 65536) && !(s.vf t.ctx.part).reqs.any (·.page == va / 65536)

/-- The reason of a parked thread has cleared. -/
def State.reasonMet (s : State) (t : Thread) : Bool :=
  match t.run with
  | .parked (.late .call) _ => t.mark.isSome
  | .parked (.late c) _ => s.lateMet t c
  | .parked (.wait all w n) _ => t.waitMet all w n || t.engFault.isSome
  | .parked (.join e _) _ => (((s.teamOf t.id.launch t.id.group).map (fun m => (m.child e).result.isSome)).getD false)
  | _ => false

/-- A thread parked at a fence remembers that its condition has been met (R253). -/
def Thread.fenceDue (t : Thread) : Thread :=
  match t.run with
  | .parked (.late (.fence _ _)) _ => { t with mark := some 0 }
  | _ => t

/-- A thread whose reason has cleared becomes eligible at its word, or past a call that firmware has answered (R182, R410). -/
def State.wakeOne (s : State) (t : Thread) : State :=
  match t.run with
  | .parked (.late .call) _ => s.resumeNext t
  | _ => s.wakeAt t.fenceDue

/-- Threads whose reasons have cleared become eligible (R182). -/
def State.wakeMet (s : State) : State := (s.threads.filter s.reasonMet).foldl State.wakeOne s

/-- Threads that a fault is ending leave once nothing holds them (R190). -/
def State.settleAll (s : State) : State :=
  (s.threads.filter (fun t => match t.run with
    | .exiting _ => true
    | _ => false)).foldl (fun s t => match s.thread t.id with
      | some t => s.settleExit t
      | none => s) s

/-- Every access of a partition translated before is performed (R343). -/
def State.settlePart (s : State) (part : Nat) : State :=
  (((s.flights.filter (fun f => f.part == part)).foldl State.landFlight s).settleWrites).wakeMet

end Sys2Proof.Machine
end

