-- ==== Sys2Proof/Machine/Syscalls.lean ====
section
/-!
DEFINITION. The firmware calls of a thread: `sysc.map`, `sysc.alloc`, `sysc.revoke`, `sysc.lown` (17 R410; 14
R346; 15 R364, R365, R368). Every call is a release and an acquire at `.sys`, and parks its thread until firmware has answered.
-/

namespace Sys2Proof.Machine

/-- What every call shares: its release and its acquire at `.sys`, before which an acquire in flight returns (R249, R410). What the thread
has read before becomes an acquire of `.sys`, as a fence makes it. -/
def callWord (w : XWord) (s : State) (check : State → Thread → Option Act) (body : State → Thread → Act) :
    Host.Outcome State Fault Refusal :=
  issue (.x 0x185 w) s fun s t =>
    match check s t with
    | some a => a
    | none =>
      if s.acquireHolds t .rc then s.holdFor t (t.acquireOut .rc)
      else if s.orderMet t 5 false || s.sentWord t then body (s.synchronise t 5 t.got) t
      else .hold s t (.order 5 false)

/-- Firmware has written the result of a call: the thread parks with reason "late result", which clears at once (R182, R410). -/
def callDone (s : State) (t : Thread) : Act := .park s { t with mark := some 0 } (.late .call)

/-- sysc.map (R410, R346): the record's address goes to firmware, and the thread waits for it. -/
def execSyscMap (w : XWord) (s : State) : Host.Outcome State Fault Refusal :=
  callWord w s
    (fun s t =>
      let x := t.quad w.a.toNat
      (s.deref t x { need := permLD + permST, ea := (x.cursor : Int), n := 32, al := 32, lacks := x.space != 0
                     column := false }).map (fun c => .fault c (BitVec.ofNat 64 x.cursor)))
    (fun s t =>
      .park (s.modVf t.ctx.part (fun v => { v with
        mapCalls := v.mapCalls ++ [{ caller := some t.id, addr := BitVec.ofNat 64 (t.quad w.a.toNat).cursor, status := none, kept := [], manifest := [] }] })) t (.late .call))

/-- Changes a colour of the tenant of a partition. -/
def State.modColour (s : State) (part k : Nat) (f : Colour → Colour) : State :=
  s.modTenant (s.part part).tenant (fun n => { n with colours := modAt n.colours k f })

/-- A colour of the tenant of a partition. -/
def State.colour (s : State) (part k : Nat) : Colour :=
  ((s.tenantOf part).bind (fun n => n.colours[k]?)).getD { state := 0, epoch := 0, lo := 0, hi := 0 }

/-- sysc.alloc (R410, R364). -/
def execSyscAlloc (w : XWord) (s : State) : Host.Outcome State Fault Refusal :=
  callWord w s
    (fun s t =>
      let x := t.quad w.a.toNat
      match deriveCheck x with
      | some c => some (.fault c 0)
      | none => if s.colourState t.ctx.part x.colour = 1 then none else some (.fault .revoked 0))
    (fun s t =>
      let x := t.quad w.a.toNat
      match ((List.range 15).map (· + 1)).find? (fun k => s.colourState t.ctx.part k == 0) with
      | none => callDone s (t.setQuad w.d.toNat Cap.null)
      | some k =>
        let b := x.decode
        callDone (s.modColour t.ctx.part k (fun c => { c with state := 1, epoch := c.epoch + 1, lo := b.1, hi := b.2 }))
          (t.setQuad w.d.toNat ((x.withField 7 4 k).withTag true)))

/-- The other packages that the reach tables of a tenant's partitions name (R365, R378). -/
def State.otherPackages (s : State) (tenant : Nat) : List Nat :=
  ((List.range 16).flatMap (fun p =>
    let e := s.part p
    if e.state != 0 && e.tenant == tenant then
      (e.reach.filter (fun r => reachValid r.2 && r.1 != e.pkg.toNat)).map (·.1)
    else [])).eraseDups

/-- The running trains of a tenant have still to take a colour's marking or sweep (R93, R161). -/
def State.trainsOld (s : State) (tenant k : Nat) : State :=
  let mine := fun (r : Train) => match s.launch r.launch with
    | some l => (s.part l.ctx.part).tenant == tenant
    | none => false
  { s with trains := modWhere s.trains mine (fun (r : Train) => { r with old := k :: r.old.erase k }) }

/-- A running train of a tenant has still to take it. -/
def State.someOld (s : State) (tenant k : Nat) : Bool :=
  s.trains.any (fun r => r.old.contains k && match s.launch r.launch with
    | some l => (s.part l.ctx.part).tenant == tenant
    | none => false)

/-- The packages whose acknowledgement of a colour's marking, or sweep, is still to come, of those that have to give one; what came early is
used up (R365, R366). -/
def Tenant.await (n : Tenant) (k : Nat) (sweep : Bool) (pkgs : List Nat) : List Nat × Tenant :=
  (pkgs.filter (fun p => !n.acks.contains (k, sweep, p)), { n with acks := n.acks.filter (fun a => !(a.1 == k && a.2.1 == sweep)) })

/-- Marking begins (R365): the own table; the package that received the call tells every other. -/
def State.beginRevoke (s : State) (tenant k : Nat) (caller : Option (TId × Nat)) : State :=
  let pkgs := s.otherPackages tenant
  let s := s.modTenant tenant (fun n =>
    let (await, n) := n.await k false pkgs
    { n with
      colours := modAt n.colours k (fun c => { c with state := 2 })
      revs := n.revs ++ [{ colour := k, phase := .marking await false, caller := caller }] })
  (if caller.isSome then pkgs else []).foldl (fun s p => s.emit (.marking p tenant k)) (s.trainsOld tenant k)

/-- sysc.revoke (R410, R364): the thread waits until the colour is free again. -/
def execSyscRevoke (w : XWord) (s : State) : Host.Outcome State Fault Refusal :=
  callWord w s
    (fun _ t => (deriveCheck (t.quad w.a.toNat)).map (fun c => .fault c 0))
    (fun s t =>
      let x := t.quad w.a.toNat
      let k := x.colour
      let c := s.colour t.ctx.part k
      if k = 0 || c.state != 1 || x.decode != (c.lo, c.hi) then callDone s (t.setReg w.d.toNat 1)
      else .park (s.beginRevoke (s.part t.ctx.part).tenant k (some (t.id, w.d.toNat))) t (.late .call))

/-- A range of the list is good (R368): base and length are nonzero multiples of 128, in global or private
space. -/
def lownOk (b l : Nat) : Bool :=
  let hi := b / 2 ^ 56
  b != 0 && l != 0 && b % 128 == 0 && l % 128 == 0 && (hi == 0 || hi == 0xFE) && b + l ≤ (hi + 1) * 2 ^ 56

/-- The entries of a list of ranges. -/
def lownEntries (bs : List Byte) (n : Nat) : List (Nat × Nat) :=
  (List.range n).map (fun i => (blockNat bs (16 * i) 8, blockNat bs (16 * i + 8) 8))

/-- What the word has asked of another package is over. -/
def State.endAsked (s : State) (t : Thread) : State :=
  { s with flights := s.flights.filter (fun f => !(f.thread == t.id && f.kind == .peer && f.blk == t.blk && f.off == t.off)) }

/-- What `sysc.lown` does with the list it has read. -/
def lownSet (w : XWord) (s : State) (t : Thread) (bs : List Byte) (n : Nat) : Act :=
  let l := lownEntries bs n
  let s := s.endAsked t
  if l.all (fun e => lownOk e.1 e.2) then
    callDone (s.modContext t.ctx (fun c => { c with lown := l })) (t.setReg w.d.toNat 0)
  else callDone s (t.setReg w.d.toNat 1)

/-- Reads the 16-byte entries of a list one by one, each where it lands, as acquires of `.sys`; what stops the read otherwise. An entry in
another package is asked for by itself, and its answer kept until the list is whole. -/
def lownRead (w : XWord) (x : Cap) (n : Nat) : List Nat → State → Thread → List Byte → Act
  | [], s, t, acc => lownSet w s t acc n
  | i :: is, s, t, acc =>
    let ea := x.cursor + 16 * i
    match s.land t x.space ea .read with
    | .bad c m => .err ((if m then s.emit (.malformedEntry t.ctx.part (ea / 65536)) else s).endAsked t) c (BitVec.ofNat 64 ea)
    | .absent va => s.awaitPage t (va / 65536) kindRead
    | .ok (.sram cu off) =>
      let key := sramKey cu off
      let (s, t) := s.readBy t (some 5) t.sees key 16
      lownRead w x n is s t (acc ++ s.seenBytes t.sees key 16)
    | .ok (.peer pkg off) =>
      match s.flights.find? (fun f => f.thread == t.id && f.kind == .peer && f.blk == t.blk && f.off == t.off && f.loc == .peer pkg off) with
      | none => (s.peerFlight t pkg off 16 (.read 16 false) .peer none).holdFor t (·.req == s.nextReq)
      | some f => match f.answer with
        | none => s.holdFor t (·.req == f.req)
        | some r => match f.share r with
          | .data bytes _ => lownRead w x n is s t (acc ++ bytes)
          | .ack => lownRead w x n is s t acc
          | .error c => (s.endAsked t).peerError t (classOf c) (BitVec.ofNat 64 ea)
    | .ok (.hbm pa kind tc) =>
      if s.sliceHeld (.hbm pa kind tc) then s.holdAgain t
      else
        let (bad, s) := ((s.settleFrame pa).chargeRead t.ctx.part pa 16).readSeen t.sees false pa 16
        if bad then (s.endAsked t).badRead t pa 16 (BitVec.ofNat 64 ea)
        else
          let (s, t) := s.readBy t (some 5) t.sees pa 16
          lownRead w x n is s t (acc ++ s.seenBytes t.sees pa 16)

/-- The list of `sysc.lown` lies in part in the page that the thread's logged access waits for (R184). -/
def State.listBlocked (s : State) (t : Thread) (x : Cap) (n : Nat) : Bool :=
  (List.range n).any (fun i => s.onLogPage t x.space (x.cursor + 16 * i))

/-- sysc.lown (R410, R368). -/
def execSyscLown (w : XWord) (s : State) : Host.Outcome State Fault Refusal :=
  let count := fun (t : Thread) => (t.reg w.b.toNat).toNat
  callWord w s
    (fun s t => if 64 < count t then none
      else if s.listBlocked t (t.quad w.a.toNat) (count t) then some (logStop s t .secondFault)
      else (s.rangeCheck t (t.quad w.a.toNat) permLD (16 * count t) 16).map (fun r => .fault r.1 r.2))
    (fun s t =>
      if 64 < count t then callDone s (t.setReg w.d.toNat 1)
      else match pageRefused t ((t.quad w.a.toNat).cursor : Int) with
        | some a => a
        | none => lownRead w (t.quad w.a.toNat) (count t) (List.range (count t)) s t [])

end Sys2Proof.Machine
end

