-- ==== Sys2Proof/Machine/Selector.lean ====
section
/-!
DEFINITION. The selector (07 R181, R186 to R188): which train a CU forms next.
-/

namespace Sys2Proof.Machine

/-- Train slots of a CU: 4 tracks of 8 (R186). -/
def trainSlots : Nat := 32

/-- A list of keys comes before another, key by key. -/
def keysBefore : List Int → List Int → Bool
  | [], _ => false
  | _ :: _, [] => false
  | a :: as, b :: bs => if a = b then keysBefore as bs else decide (a < b)

/-- The element with the first keys; of equals, the first listed. -/
def firstBy {α : Type} (key : α → List Int) (l : List α) : Option α :=
  l.foldl (fun (m : Option α) x => match m with
    | none => some x
    | some y => if keysBefore (key x) (key y) then some x else some y) none

/-- A peer access of a context that its restore performs again and that has no answer yet (R402 step 4). -/
def State.replaying (s : State) (ctx : CtxId) (f : Flight) : Bool :=
  f.replay && f.answer.isNone && (s.launch f.thread.launch).any (·.ctx == ctx)

/-- A context is on its CUs (R396). -/
def State.resident (s : State) (ctx : CtxId) : Bool := ((s.context ctx).map (fun c => c.life == .resident)).getD false

/-- A context issues: it is on its CUs (R396), and the accesses and the copies that its restore performs have been performed (R402). -/
def State.issues (s : State) (ctx : CtxId) : Bool :=
  s.resident ctx && !s.flights.any (s.replaying ctx)
    && ((s.context ctx).map (fun c => c.queues.all (fun q => q.entries.all (fun e => !e.replay)))).getD true

/-- A siding position with eligible threads (R182): since when the earliest of them, and how often the
selector has passed it over. -/
structure Siding where
  ctx : CtxId
  launch : Nat
  group : Nat
  blk : BitVec 16
  off : BitVec 10
  since : Int
  passed : Nat
  nums : List Nat
  deriving DecidableEq, Repr

/-- A thread is eligible at its position: since when, and how often passed over. -/
def Thread.eligible (t : Thread) : Option (Int × Nat) :=
  match t.run with
  | .eligible since passed => some (since, passed)
  | _ => none

/-- Adds an eligible thread to the siding positions. -/
def addSiding (l : List Siding) (t : Thread) (since : Int) (passed : Nat) : List Siding :=
  let same := fun (p : Siding) => p.launch == t.id.launch && p.group == t.id.group && p.blk == t.blk && p.off == t.off
  if l.any same then
    modWhere l same (fun p => { p with since := min p.since since, passed := max p.passed passed, nums := setAdd p.nums t.id.num })
  else l ++ [{ ctx := t.ctx, launch := t.id.launch, group := t.id.group, blk := t.blk, off := t.off, since := since
               passed := passed, nums := [t.id.num] }]

/-- The siding positions of a CU with eligible threads. -/
def State.sidings (s : State) (cu : Nat) : List Siding :=
  (s.threads.filter (fun t => t.cu == cu && s.issues t.ctx)).foldl (fun l t => match t.eligible with
    | some (since, passed) => addSiding l t since passed
    | none => l) []

/-- The platform entries of a CU that may be served. -/
def State.entries (s : State) (cu : Nat) : List Plat := s.plats.filter (fun p => p.cu == cu && s.issues p.ctx)

/-- A group's priority (R187). -/
def State.priority (s : State) (ctx : CtxId) (launch group : Nat) : Nat :=
  ((s.context ctx).map (fun c => c.prio.toNat)).getD 0 * 16 + ((s.group launch group).map (·.bonus)).getD 0

/-- A spilled entry is exchanged with the newest resident one (R181), of equal stamps with the one listed first (log entry 64). -/
def State.exchange (s : State) (x : Plat) : State :=
  if x.spilled then
    let s := match newestPlat (s.plats.filter (fun p => p.cu == x.cu && !p.spilled)) with
      | some p =>
        let s : State := { s with plats := modWhere s.plats p.same (fun q => { q with spilled := true }) }
        s.perf p.ctx p.cu 0x0A 1
      | none => s
    { s with plats := modWhere s.plats x.same (fun q => { q with spilled := false }) }
  else s

/-- A train of the named threads of a group at a place (R40, R41): from a platform entry the block's header is
checked first, and so is an offset of unknown length (R71, R411); an attachment takes effect here (R424), and the
sweep of a colour reaches the threads (R93). -/
def State.formTrain (s : State) (cu : Nat) (ctx : CtxId) (launch group : Nat) (blk : BitVec 16) (off : BitVec 10)
    (nums : List Nat) (plat : Bool) : State :=
  let mine := fun (t : Thread) => t.id.launch == launch && t.id.group == group && nums.contains t.id.num
  let bare := plat || s.threads.any (fun t => mine t && t.blkLen == 0)
  let debug := ((s.context ctx).map (fun c => c.session.isSome)).getD false
  let s := s.modThreads mine (fun (t : Thread) => { (s.sweeping ctx.part).foldl Thread.sweepTags t with
    run := .train none, blkLen := if plat then 0 else t.blkLen, debug := debug })
  let r : Train := { cu := cu, launch := launch, group := group, blk := blk, off := off, lanes := nums, todo := nums
                     done := [], elected := none, since := s.now cu, page := none, check := bare, head := plat, word := none, old := []
                     pos := nums, reqs := [], turned := false, tried := [] }
  let s : State := { s with trains := s.trains ++ [r] }
  s.perf ctx cu 0x02 1

/-- The 64 lowest of a list in ascending order (R40). -/
def lowest64 (l : List Nat) : List Nat := l.take 64

/-- A train from a siding position (R186); the position has been served, so the selections that passed its threads over are
consecutive no more (R188). -/
def State.fromSiding (s : State) (cu : Nat) (p : Siding) : State :=
  let there := fun (t : Thread) => t.cu == cu && t.id.launch == p.launch && t.id.group == p.group && t.blk == p.blk && t.off == p.off
  let s := s.modThreads there (fun t => match t.run with
    | .eligible a _ => { t with run := .eligible a 0 }
    | _ => t)
  s.formTrain cu p.ctx p.launch p.group p.blk p.off (lowest64 p.nums) false

/-- Threads leave a platform entry for a train. -/
def State.fromPlat (s : State) (x : Plat) (nums : List Nat) (f : Plat → Plat) : State :=
  let gone := nums.foldl (fun m n => m ||| maskBit n) 0
  let s := { s with plats := modWhere s.plats x.same (fun p => f { p with mask := p.mask &&& ~~~gone }) }
  (s.settlePlats x.cu).formTrain x.cu x.ctx x.launch x.group x.blk 1 nums true

/-- A train from the lowest threads of an entry (R186). -/
def State.fromLowest (s : State) (x : Plat) : State := s.fromPlat x (lowest64 (maskNums x.mask)) id

/-- A train from an aged entry: from its cursor round (R186). It has been served, so the selections that passed it over are consecutive no
more (R188). -/
def State.serveAged (s : State) (x : Plat) : State :=
  let s := s.exchange x
  let all := maskNums x.mask
  let nums := lowest64 (all.filter (fun n => x.cursor.toNat ≤ n) ++ all.filter (fun n => n < x.cursor.toNat))
  let now := s.now x.cu
  s.fromPlat x nums (fun p => { p with
    cursor := BitVec.ofNat 10 ((nums.getLast?).getD 0 + 1), stamp := if p.mask = 0 then p.stamp else now, passed := 0 })

/-- What the selector chooses (R186, R188). -/
inductive Choice where
  | siding (p : Siding)
  | aged (x : Plat)
  | low (x : Plat)
  deriving DecidableEq, Repr

/-- The selector's policy while a group of a launch without the deterministic flag is resident (R186). Two siding positions whose
earliest threads cleared in one cycle, which the spec does not order, come by context, group, block, offset; and where context, group
and block are equal, the launch read first comes first; so it does under rule 3 between groups of equal priority and number of one
context's launches, before the lower block (DESIGN CHOICE, log entry 65). -/
def State.selectFair (s : State) (cu : Nat) : Option Choice :=
  let now : Int := s.now cu
  let lf := (s.cu cu).fairness
  let es := s.entries cu
  let aged := fun (n : Nat) => firstBy (fun (p : Plat) => [p.stamp, (p.ctx.part : Int), p.ctx.id, p.group, p.blk.toNat, p.launch])
    (es.filter (fun p => p.stamp + n ≤ now))
  match aged (2 * lf) with
  | some x => some (.aged x)
  | none => match firstBy (fun (p : Siding) => [p.since, (p.ctx.part : Int), p.ctx.id, p.group, p.blk.toNat, p.off.toNat, p.launch])
      (s.sidings cu) with
    | some p => some (.siding p)
    | none => match aged lf with
      | some x => some (.aged x)
      | none => (firstBy (fun (p : Plat) => [((64 - s.priority p.ctx p.launch p.group : Nat) : Int), (p.ctx.part : Int), p.ctx.id, p.group, p.launch, p.blk.toNat])
          (es.filter (fun p => !p.spilled))).map .low

/-- Every resident group of a CU belongs to a deterministic launch (R188). -/
def State.governed (s : State) (cu : Nat) : Bool :=
  (s.groups.filter (fun g => g.cu == cu)).all (fun g =>
    ((s.launch g.launch).map (fun l => l.flags.getLsbD 0)).getD false)

/-- The keys of R188. -/
def State.fixedKeys (s : State) (cu : Nat) (ctx : CtxId) (launch group : Nat) (blk : BitVec 16) (off : Nat) : List Int :=
  [((64 - s.priority ctx launch group : Nat) : Int), (ctx.part : Int), ctx.id, (s.cu cu).order.idxOf launch, launch, group, blk.toNat, off]

/-- The selector's policy on a CU of deterministic launches alone (R188). -/
def State.selectFixed (s : State) (cu : Nat) : Option Choice :=
  let key := fun (c : Choice) => match c with
    | .siding p => s.fixedKeys cu p.ctx p.launch p.group p.blk p.off.toNat
    | .aged x => s.fixedKeys cu x.ctx x.launch x.group x.blk 0
    | .low x => s.fixedKeys cu x.ctx x.launch x.group x.blk 0
  let passed := fun (c : Choice) => match c with
    | .siding p => p.passed
    | .aged x => x.passed
    | .low x => x.passed
  let all := (s.entries cu).map Choice.low ++ (s.sidings cu).map Choice.siding
  match firstBy (fun c => -((passed c : Nat) : Int) :: key c) (all.filter (fun c => 256 ≤ passed c)) with
  | some c => some c
  | none => firstBy key (all.filter (fun c => match c with
    | .low x => !x.spilled
    | .aged x => !x.spilled
    | .siding _ => true))

/-- A group of the CU has a thread parked for debug: its selections do not count (R426). -/
def State.debugParked (s : State) (cu : Nat) : Bool :=
  s.threads.any (fun t => t.cu == cu && match t.run with
    | .parked (.debug _ _) _ => true
    | _ => false)

/-- Every candidate of a CU has been passed over once more (R188). -/
def State.passOver (s : State) (cu : Nat) : State :=
  if s.debugParked cu then s
  else
    let bump := fun (t : Thread) => match t.run with
      | .eligible a n => { t with run := .eligible a (n + 1) }
      | _ => t
    { s with
      plats := modWhere s.plats (fun p => p.cu == cu) (fun (p : Plat) => { p with passed := p.passed + 1 })
      threads := modWhere s.threads (fun t => t.cu == cu) bump }

/-- What the selector would choose. -/
def State.choice (s : State) (cu : Nat) : Option Choice :=
  if trainSlots ≤ (s.trains.filter (fun r => r.cu == cu)).length then none
  else if s.governed cu then s.selectFixed cu
  else s.selectFair cu

/-- TRAIN_FORM (R186, R188): a free slot takes the selector's choice; every selection of the CU passes the other candidates over. -/
def execTrainForm (cu : Nat) (s : State) : Host.Outcome State Fault Refusal :=
  match s.choice cu with
  | none => .next s
  | some c =>
    let s := (s.passOver cu).modCu cu (fun k => { k with selections := k.selections + 1 })
    .next (match c with
      | .siding p => s.fromSiding cu p
      | .aged x => s.serveAged x
      | .low x => (s.exchange x).fromPlat x (lowest64 (maskNums x.mask)) (fun p => { p with passed := 0 }))

/-! ## Holds and time (R182, R198, R235) -/

/-- LATE_RESULT_PARK (R182): a thread held at one word for more than 512 cycles parks. -/
def execLateResultPark (t : TId) (s : State) : Host.Outcome State Fault Refusal :=
  match s.thread t with
  | none => .next s
  | some u => match u.run with
    | .train (some h) => .next (if h.since + 512 < s.now u.cu then (s.parkAt u (.late h.cond)).wakeMet else s)
    | _ => .next s

/-- IDLE_EXPIRY (R198). -/
def execIdleExpiry (t : TId) (s : State) : Host.Outcome State Fault Refusal :=
  match s.thread t with
  | none => .next s
  | some u => match u.run with
    | .parked (.idle till) _ => .next (if till ≤ s.now u.cu then s.wakeAt u else s)
    | _ => .next s

/-- WADR_TIMEOUT (R235): the sleeper goes on with 3. A wake in the cycle in which its time runs out comes first (R236), so the time-out
takes effect once that cycle is over. -/
def execWadrTimeout (t : TId) (s : State) : Host.Outcome State Fault Refusal :=
  match s.thread t with
  | none => .next s
  | some u => match u.run with
    | .parked (.monitor _ (some till)) _ =>
      .next (if till < s.now u.cu then (s.unwatch (fun _ id => id = t)).wakeThread t 3 else s)
    | _ => .next s

end Sys2Proof.Machine
end

