-- ==== Sys2Proof/Machine/Fetch.lean ====
section
/-!
DEFINITION. Instruction fetch (07 R176 to R178), the header check (03 R71), and what a thread's turn at its
word comes to before the word's meaning (03 R73 steps 1 and 2). Turning the train to its next thread and word
(02 R41). Time.
-/

namespace Sys2Proof.Machine

/-! ## Fetch -/

/-- What a fetch gives: a value, an absent page, a fault, the state after a rollback, or a wait for a slice under reset (R178, R275,
R354). -/
inductive Fetched where
  | got (v : Nat) (s : State)
  | absent (va : Nat)
  | bad (c : FClass) (malformed : Bool) (va : Nat) (s : State)
  | rolled (s : State)
  | wait
  deriving DecidableEq, Repr

/-- Fetches n bytes at a global virtual address (R178, R340). -/
def State.fetchAt (s : State) (part cu va n : Nat) : Fetched :=
  match s.xlateBy (some cu) part va .fetch with
  | .absent => .absent va
  | .bad c m =>
    let s := s.translated (some cu) part va
    match s.walkLost part va c with
    | some s => .rolled s
    | none => .bad c m va s
  | .ok pa _ _ =>
    let (bad, s1) := (((s.translated (some cu) part va).settleFrame pa).chargeRead part pa n).readCheck false pa n
    if s.underReset pa then .wait
    else if bad then
      match s1.protectedLaunch part with
      | some l => .rolled (s1.rollback l (s1.badGranules pa n))
      | none => .bad .uncorrectable false va s1
    else .got (bytesNat (s1.seenBytes (fetchSees part) pa n)) s1

/-- Fetches a block's timetable entry (R176). -/
def State.fetchEntry (s : State) (l : Launch) (cu : Nat) (blk : BitVec 16) : Fetched :=
  s.fetchAt l.ctx.part cu (l.code.decode.1 + 0x10 + 4 * blk.toNat) 4

/-- Fetches a word of the code space (R176). -/
def State.fetchWord (s : State) (l : Launch) (cu n : Nat) : Fetched :=
  s.fetchAt l.ctx.part cu (l.code.decode.1 + l.codeOff + 8 * n) 8

/-- The checks of a block's header (R71). -/
def headerOk (blk : BitVec 16) (h : Nat) : Bool :=
  bitsOf h 63 54 == 0 && bitsOf h 53 38 == blk.toNat && 2 ≤ bitsOf h 37 28 && bitsOf h 8 0 == 0
    && bitsOf h 27 19 ≤ bitsOf h 18 10

/-- The block length a header gives (R70). -/
def headerLen (h : Nat) : Nat := bitsOf h 37 28

/-! ## A thread's turn -/

/-- The members of a train. -/
def State.members (s : State) (r : Train) : List Thread :=
  s.allThreads.filter (fun t => inTrain t r)

/-- Changes the train that holds a thread. -/
def State.modTrain (s : State) (t : Thread) (f : Train → Train) : State := { s with trains := modWhere s.trains (inTrain t) f }

/-- Every thread of a train takes a fault (R71, R178). -/
def State.faultTrain (s : State) (r : Train) (c : FClass) (addr : Word64) (off : Option (BitVec 10)) : State :=
  (s.members r).foldl (fun s t => match s.thread t.id with
    | some t => s.deliverNow { t with issued := true } c addr t.blk (off.getD t.off)
    | none => s) s

/-- The issuing thread goes back among the others. -/
def State.putBack (s : State) : State :=
  match s.cur with
  | some t => { s with cur := none, threads := s.threads ++ [t] }
  | none => s

/-- What a fetch that gives no value does to its train (R178): the train is held while the page is absent, or all
its threads fault. -/
def State.fetchFails (s : State) (t : Thread) (r : Train) : Fetched → State
  | .got _ s => s
  | .absent va =>
    if s.requestsFull t.ctx.part (va / 65536) then (s.modTrain t (fun r => { r with turned := true })).putBack
    else ((s.requestPage t.ctx (va / 65536) kindFetch).modTrain t (fun r => { r with page := some va })).putBack
  | .bad c m va s =>
    (if m then s.emit (.malformedEntry t.ctx.part (va / 65536)) else s).faultTrain r c (BitVec.ofNat 64 va) none
  | .rolled s => s
  | .wait => (s.modTrain t (fun r => { r with turned := true })).putBack

/-- The outcome of a turn: a word to run, or the state it comes to. -/
inductive Turn where
  | run (i : Instr) (s : State)
  | done (s : State)
  deriving DecidableEq, Repr

/-- Steps 1 and 2 of R73, and an undefined function of `sysc` (R410). -/
def State.turnOf (s : State) (t : Thread) (w : Word64) : Turn :=
  match decode w with
  | .instr i => .run i s
  | .illegal => .done (conclude s t (.fault .illegalInstruction 0))
  | .header => .done (conclude s t (.fault .headerExecuted 0))
  | .badFunction x => .done (conclude s t (if t.guard x.guard then .fault .illegalOperand 0 else .go s t))

/-- The header check of a train that starts at a block, its header read; for threads at a word of a block whose length they do not
know, its length, and where its header lies (R71, R176, R411). -/
def State.checkHeader (s : State) (t : Thread) (r : Train) (e h : Nat) : State :=
  if r.head && !headerOk r.blk h then s.faultTrain r .illegalTarget 0 (some 0)
  else
    let n := headerLen h
    let s := s.modThreads (fun u => inTrain u r && u.blkLen == 0) (fun (u : Thread) => { u with blkLen := n, start := e })
    let s := s.modTrain t (fun r => { r with check := false })
    if r.off = 0 || n ≤ r.off.toNat then s.faultTrain r .illegalTarget 0 none else s

/-- The timetable entry and the header of a train's block are fetched. -/
def State.startBlock (s : State) (t : Thread) (r : Train) (l : Launch) : State :=
  match s.fetchEntry l r.cu r.blk with
  | .got e s => match s.fetchWord l r.cu e with
    | .got h s => s.checkHeader t r e h
    | f => s.fetchFails t r f
  | f => s.fetchFails t r f

/-- Beats, lanes, words issued once and lanes compared are counted as a word issues (R389). -/
def State.countWord (s : State) (t : Thread) (r : Train) (c : Code) : State :=
  let n := r.lanes.length
  let once := issuesOnce c
  let compared := if once then 1 else ((s.members r).filter (fun u => checked s u c)).length
  let s := (s.perf t.ctx r.cu 0x03 (if once then 1 else (n + 15) / 16)).perf t.ctx r.cu 0x04 (if once then 1 else n)
  let s := if once then s.perf t.ctx r.cu 0x05 1 else s
  if s.launchFlag t 1 then s.perf t.ctx r.cu 0x0F compared else s

/-- The turn of the issuing thread: its train's header check, its word's fetch, its decoding. -/
def State.turn? (s : State) (t : Thread) : Turn :=
  match s.trains.find? (inTrain t), s.launch t.id.launch with
  | some r, some l =>
    if r.check then .done (s.startBlock t r l)
    else match r.word with
      | some w => s.turnOf t w
      | none => match s.fetchWord l r.cu (t.start + r.off.toNat) with
        | .got v s =>
          let w := BitVec.ofNat 64 v
          let s := s.modTrain t (fun r => { r with word := some w })
          let s := match decode w with
            | .instr i => s.countWord t r i.code
            | .illegal => s
            | .header => s
            | .badFunction _ => s
          s.turnOf t w
        | f => .done (s.fetchFails t r f)
  | _, _ => .done s.putBack

/-! ## Turning on -/

/-- A thread's run in a train without a hold. -/
def Thread.moved (t : Thread) : Bool :=
  match t.run with
  | .train none => true
  | _ => false

/-- A train all of whose threads have issued their word turns to the next one, from its first lane on (R40, R283); it has issued a word in
this nanosecond. -/
def Train.next (r : Train) : Train :=
  if r.todo.isEmpty then
    { r with off := r.off + 1, todo := r.lanes, done := [], elected := none, word := none, pos := r.lanes, reqs := [], turned := true }
  else r

/-- The page requests of beats that are over are written (R443), and their peer reads sent (R210); trains whose threads have left are gone, and those whose last thread to
issue has issued or left turn on (R41, R43). -/
def State.sweepTrains (s : State) : State :=
  let s := s.endBeats.sendReads
  { s with trains := (s.trains.filter (fun r => !r.lanes.isEmpty)).map Train.next }

/-- A thread of a train is held at its word: its beat, in ascending lane order, comes after the others (R40, R43, R224, R231, R283). -/
def Train.heldBack (r : Train) (n : Nat) : Train :=
  { r with todo := r.todo.filter (fun k => r.beatOf k != r.beatOf n) ++ r.todo.filter (fun k => r.beatOf k == r.beatOf n)
           tried := r.tried ++ r.todo.filter (fun k => r.beatOf k == r.beatOf n) }

/-- The issuing thread goes back; the train turns to its next thread, and once all have issued to the next word; a train without
threads ends (R41, R43). A thread held at its word holds back the lanes after it in its beat alone. -/
def State.rotate (s : State) (t : Thread) : State :=
  let n := t.id.num
  let s := s.putBack
  (s.modTrain t (fun r =>
    if t.moved then { r with todo := r.todo.erase n, done := r.done ++ [n] } else r.heldBack n)).sweepTrains

/-- One nanosecond passes: the time count, and each running slice's cycles (R15, R382, R427); every train may issue again. -/
def State.tick (s : State) : State :=
  let was := s
  let s : State := { s with
    time := s.time + 1
    trains := s.trains.map (fun (r : Train) => { r with turned := false, tried := [] })
    slices := s.slices.map (fun (c : Slice) => if c.powered && !c.held then { c with tenths := c.tenths + c.clock } else c) }
  { s with contexts := s.contexts.map (fun (c : Context) =>
      if c.life == .resident then
        { c with perf := c.perf.map (fun (p : PerfSet) =>
            let n := s.now p.cu
            { p with counters := p.counters.map (fun (x : PerfCounter) => if x.sel == 0x01 then x.count n (n - was.now p.cu) else x) }) }
      else c) }

/-- A train may go on in this nanosecond: it waits for no page, its context issues, and it has a word or a thread left to try. -/
def State.trainReady (s : State) (r : Train) : Bool :=
  r.page.isNone && !r.turned && r.todo.any (fun n => !r.tried.contains n)
    && ((s.launch r.launch).map (fun l => s.issues l.ctx)).getD false

/-- A train's next thread becomes the issuing one. -/
def State.pickFrom (s : State) (r : Train) : State :=
  match s.threads.find? (fun t => inTrain t r && r.todo.head? == some t.id.num) with
  | some t => { s with cur := some { t with issued := false }, threads := s.threads.filter (fun u => u.id != t.id) }
  | none => s.sweepTrains

end Sys2Proof.Machine
end

