-- ==== Sys2Proof/Machine/Placed.lean ====
section
/-!
DEFINITION. The thread, launch and context that a word placed for the next step runs in (State.withFetchWord).
-/

namespace Sys2Proof.Machine

/-- The thread that runs a placed word: thread 0 of a plain launch, every register zero. -/
def placedThread (ctx : CtxId) (launch : Nat) : Thread :=
  { id := { launch := launch, group := 0, num := 0 }, ctx := ctx, cu := 0, slot := 0, slab := 0, role := 3
    regs := List.replicate 512 0, tags := List.replicate 128 false, preds := 0, fps := 0, fcode := 0, faddr := 0, fblk := 0
    inHandler := false, debug := false, blk := 0, off := 1, blkLen := 1023, start := 0, run := .train none, pending := [], log := none
    w0 := 0, w1 := 0, w2 := 0, w3 := 0, engFault := none, pageFail := none, watchSkip := false, mark := none, peerFault := none
    got := [], fenced := [], seen := [], replayOf := none, steps := false, issued := false }

/-- The launch of a placed word: one group of one thread, its code object at address 0, no handler block. -/
def placedLaunch (ctx : CtxId) (uid : Nat) : Launch :=
  { Launch.fresh uid ctx (.queue 0 0 0) 0 0 [] [] 0 0 with
    phase := .running, groups := 1, tpg := 1, regsPer := 512
    code := (((Cap.null.withField 29 22 permEX).withField 21 19 spcCode).withBounds
      { e := 43, b := 0, t := 8192, bl := 0, tl := 2 ^ 56 }).withTag true
    consts := List.replicate 64 0, blocks := 1, codeOff := 0x18, teams := 1 }

/-- The context of a placed word. -/
def placedContext (ctx : CtxId) : Context :=
  { id := ctx, tenant := 0, prio := 0, life := .resident, handles := List.replicate 64 0, slabSize := 4096
    privBase := 2 ^ 40, slabFrames := [], roots := [], remap := List.range 12, tileMap := 0, spilled := [], replay := []
    lown := [], session := none, watches := [], perf := [], queues := [], allots := [], clkOff := 0, lastClk := 0
    image := none }

end Sys2Proof.Machine
end

