-- ==== Sys2Proof/Machine/EngineRun.lean ====
section
/-!
DEFINITION. What engine operations share as they are performed (12 R285 to R289, R295): the accesses of an
engine for the issuing thread, its end with or without a fault, an absent page; and `qfen` joins (R296).
-/

namespace Sys2Proof.Machine

/-! ## The end of an operation -/

/-- One outstanding operation of a thread less; a fault goes into its record if that is invalid (R285). -/
def Thread.opEnds (t : Thread) (e : EngineEntry) (f : Option (FClass × Word64)) : Thread :=
  let t := t.setCnt e.ctr (t.cnt e.ctr - 1)
  match f, t.engFault with
  | some (c, a), none => { t with engFault := some { cls := c, addr := a, blk := e.blk, off := e.off } }
  | _, _ => t

/-- Changes a thread that lies in a saved image. -/
def State.modSaved (s : State) (id : TId) (f : Thread → Thread) : State :=
  { s with contexts := s.contexts.map (fun (c : Context) => { c with
      image := c.image.map (fun (i : Image) => { i with threads := modWhere i.threads (·.id = id) f }) }) }

/-- An operation is performed, or its fault recorded (R285): what waited for it goes on. -/
def State.opDone (s : State) (e : EngineEntry) (f : Option (FClass × Word64)) : State :=
  (((s.modThread e.thread (fun t => t.opEnds e f)).modSaved e.thread (fun t => t.opEnds e f)).settleAll).wakeMet

/-- The results of an engine's peer accesses in a queue are no longer needed. -/
def State.dropEngineFlights (s : State) (c : CtxId) (cu q : Nat) : State :=
  { s with flights := s.flights.filter (fun f => f.kind != .engine c cu q) }

/-- A weight fill that ends in a recorded fault leaves its slot invalid (R309), in the image of a saved context (R396). -/
def State.voidSlot (s : State) (c : CtxId) (cu : Nat) (e : EngineEntry) (f : Option (FClass × Word64)) : State :=
  let void := fun (w : WSlot) => { w with valid := false }
  match e.op, f with
  | .wfill slot _ _ _, some _ =>
    if (s.context c).any (·.image.isSome) then
      s.modContext c (fun x => { x with image := x.image.map (fun (i : Image) => { i with
        wslots := modWhere i.wslots (·.1 == cu) (fun u => (u.1, modAt u.2 slot void)) }) })
    else s.modCu cu (fun k => { k with wslots := modAt k.wslots ((s.allot c cu).1 + slot) void })
  | _, _ => s

/-- The head of a queue ends. -/
def State.endHead (s : State) (c : CtxId) (cu q : Nat) (e : EngineEntry) (f : Option (FClass × Word64)) : State :=
  (((s.voidSlot c cu e f).dropEngineFlights c cu q).modQueue c cu q (·.drop 1)).opDone e f

/-- The head of a queue changes. -/
def State.putHead (s : State) (c : CtxId) (cu q : Nat) (e : EngineEntry) : State :=
  s.modQueue c cu q (fun l => e :: l.drop 1)

/-- The queue is held at an absent page (R287), as far as it has come; the request is made, or waits for a place (R352). -/
def State.holdHead (s : State) (c : CtxId) (cu q : Nat) (e : EngineEntry) (va : Nat × Nat) (kinds : Byte) : State :=
  if s.requestsFull c.part (va.1 / 65536) then s.putHead c cu q { e with begun := true }
  else (s.requestPage c (va.1 / 65536) (kinds ||| kindEngine)).putHead c cu q { e with begun := true, page := some (va.1 / 65536, va.2) }

/-- A context's threads have stopped, and what it has in flight settles (R396). -/
def State.settles (s : State) (c : CtxId) : Bool := ((s.context c).map (fun x => x.life == .quiet)).getD false

/-- A copy has moved a part of a chunk of 256 bytes (R289). -/
def EngineEntry.midChunk (e : EngineEntry) : Bool :=
  match e.op with
  | .cpyv _ (.mem x _) _ _ _ _ => e.progress * 2 ^ x.esize % 256 != 0
  | .cpyg _ (.mem x _) _ _ => e.progress * 2 ^ x.esize % 256 != 0
  | _ => false

/-- The operation at the head of a queue that may go on: its context is on its CUs, or it is one that its restore goes on with first (R402);
or its context has stopped, and a matrix operation in flight is to complete, a copy to come to the end of its chunk (R396); no page holds
it. -/
def State.headOf (s : State) (c : CtxId) (cu q : Nat) : Option (EngineEntry × Thread) :=
  match (s.queue c cu q).head? with
  | some e => if (s.issues c || (s.resident c && e.replay) || (s.settles c && (q = 4 || e.midChunk) && e.begun)) && e.page.isNone then (s.thread e.thread).map (fun t => (e, t)) else none
  | none => none

/-- The capabilities of an operation, with the addresses it uses them at; an `mmo`'s is that of its parameter block. -/
def EngineOp.caps (o : EngineOp) : List (Cap × Nat) :=
  let one := fun (p : Place) => match p with
    | .mem c ea => [(c, ea)]
    | .ob _ _ => []
  match o with
  | .cpy d a _ _ => one a ++ one d
  | .cpyv d a _ _ _ _ => one a ++ one d
  | .cpyg d a i _ => one i ++ one d ++ one a
  | .cpyf d _ _ => one d
  | .wfill _ a _ _ => one a
  | .mst d _ _ _ => one d
  | .join _ _ => []
  | .mmo c ea _ => [(c, ea)]
  | .mzro _ => []
  | .obset _ _ _ => []
  | .obrel _ => []

/-- Changes the capability operands of an operation. -/
def EngineOp.mapCaps (o : EngineOp) (f : Cap → Cap) : EngineOp :=
  let one := fun (p : Place) => match p with
    | .mem c ea => .mem (f c) ea
    | .ob r off => .ob r off
  match o with
  | .cpy d a n t => .cpy (one d) (one a) n t
  | .cpyv d a r c t st => .cpyv (one d) (one a) r c t st
  | .cpyg d a i m => .cpyg (one d) (one a) (one i) m
  | .cpyf d p n => .cpyf (one d) p n
  | .wfill k a n sp => .wfill k (one a) n sp
  | .mst d fmt tile st => .mst (one d) fmt tile st
  | .mmo c ea b => .mmo (f c) ea b
  | .join id mask => .join id mask
  | .mzro m => .mzro m
  | .obset r off bs => .obset r off bs
  | .obrel r => .obrel r

/-- A capability operand of an operation not yet begun has a revoking colour (R288), or has come back from an image without its tag (R367),
which faults TAG as a replay's does (R157, R185). -/
def State.opRevoked (s : State) (c : CtxId) (e : EngineEntry) : Option (FClass × Word64) :=
  if e.begun then none
  else (e.op.caps.find? (fun x => !x.1.tag || s.colourState c.part x.1.colour == 2)).map (fun x =>
    (if x.1.tag then .revoked else .tag, BitVec.ofNat 64 x.2))

/-! ## Accesses -/

/-- What an engine's access comes to; an absent page with its global address and the address used. -/
inductive Eng (α : Type) where
  | ok (a : α) (s : State)
  | absent (va : Nat × Nat) (s : State)
  | bad (c : FClass) (addr : Nat) (s : State)
  | wait (s : State)
  | rolled (s : State)

/-- An access of an engine to some bytes of a capability's space touches an SO page, and is an SO access in all its bytes (R244). -/
def State.soAccess (s : State) (t : Thread) (space ea n : Nat) (w : Want) : Bool :=
  [ea, ea + n - 1].any (fun a => match s.land t space a w with
    | .ok (.peer pkg off) => Config.peerSo pkg (off / 65536) s.time
    | .ok l => l.kind == .so
    | .bad _ _ => false
    | .absent _ => false)

/-- An operation's SO access has to wait: a write that happens before it is still to be performed (R245, R257, R258). -/
def State.soHeld (s : State) (e : EngineEntry) : Bool := e.before.any s.pendingReq

/-- The pending writes that happen before the releases that an SO read of an engine reads from (R245, R250). -/
def State.soReads (s : State) (t : Thread) (cu space ea n : Nat) : List Nat :=
  ((List.range n).flatMap (fun i => match s.land t space (ea + i) .read with
    | .ok (.hbm pa _ _) => (s.headsAt (engineSees t.ctx cu) pa 1).filter (fun h => s.inInstance h.level h.thread h.ctx h.cu t.id t.ctx cu)
    | .ok (.sram _ _) => []
    | .ok (.peer _ _) => []
    | .bad _ _ => []
    | .absent _ => [])).flatMap (·.covers)

/-- An operation and those behind it in its queue come after some pending writes. -/
def State.engineAfter (s : State) (c : CtxId) (cu q : Nat) (reqs : List Nat) : State :=
  if reqs.isEmpty then s else s.modQueue c cu q (·.map (fun e => { e with before := (e.before ++ reqs).eraseDups }))

/-- A peer access of an engine: sent once, its answer waited for. -/
def State.enginePeer (s : State) (t : Thread) (cu q pkg off n : Nat) (op : PeerOp) : Option PeerResult × State :=
  let mine := fun (f : Flight) => f.kind == .engine t.ctx cu q && f.loc == .peer pkg off && f.packet.any (fun p => p.op == op)
  match s.flights.find? mine with
  | some f => (f.answer, s)
  | none =>
    let (pk, s) := s.sendPeer cu t.ctx.part pkg off op
    (none, { s with
      nextReq := s.nextReq + 1
      flights := s.flights ++ [{ req := s.nextReq, thread := t.id, part := t.ctx.part, gen := (s.part t.ctx.part).gen
                                 kind := .engine t.ctx cu q, loc := .peer pkg off, n := n, blk := t.blk, off := t.off
                                 packet := some pk, answer := none, replay := false, acq := none, unsent := none }] })

/-- The places of a location's bytes, as `EngineEntry.prior` numbers them. -/
def Loc.placeKey : Loc → Nat → Option Nat
  | .hbm pa _ _, i => some (2 * (pa + i))
  | .sram cu off, i => some (2 * (cu * 2 ^ 20 + off + i) + 1)
  | .peer _ _, _ => none

/-- Bytes an engine reads at a place where they land, with the tags of their granules. -/
def State.engineReadAt (s : State) (t : Thread) (cu q : Nat) (l : Loc) (n ea : Nat) (tagged : Bool) : Eng (List Byte × List Bool) :=
  match l with
  | .sram k off => .ok (s.seenBytes (engineSees t.ctx cu) (sramKey k off) n,
      (granulesOf (sramKey k off) n).map (s.seenTag (engineSees t.ctx cu))) s
  | .peer pkg off => match s.enginePeer t cu q pkg off n (.read n tagged) with
    | (none, s) => .wait s
    | (some (.data bytes tags), s) => .ok (bytes, tags) s
    | (some .ack, s) => .wait s
    | (some (.error c), s) => match (if classOf c = .uncorrectable then s.protectedLaunch t.ctx.part else none) with
      | some l => .rolled (s.rollback l [])
      | none => .bad (classOf c) ea s
  | .hbm pa _ tc =>
    if s.underReset pa then .wait s
    else
    let (served, s) := (s.settleFrame pa).readLines t.ctx.part pa n
    let (bad, s) := s.readSeen (engineSees t.ctx cu) (tagged && tc) pa n
    if !served then .wait s
    else if bad then
      match s.protectedLaunch t.ctx.part with
      | some l => .rolled (s.rollback l (s.badGranules pa n))
      | none => .bad .uncorrectable ea s
    else .ok (s.seenBytes (engineSees t.ctx cu) pa n,
      (granulesOf pa n).map (fun g => tc && s.seenTag (engineSees t.ctx cu) g)) s

/-- Where an engine's access of a capability's space lands. -/
def State.engineLand (s : State) (t : Thread) (space ea : Nat) (w : Want) : Eng Loc :=
  let va := (s.landVa t space ea).getD ea
  let s1 := s.touched t space ea
  match s.land t space ea w with
  | .ok l => .ok l s1
  | .bad c m => match s1.walkLost t.ctx.part va c with
    | some s => .rolled s
    | none => .bad c ea (if m then s1.emit (.malformedEntry t.ctx.part (va / 65536)) else s1)
  | .absent va => .absent (va, ea) s

/-- The operand-buffer byte of a reservation's offset on the CU. -/
def State.obByte (s : State) (t : Thread) (resv off : Nat) : Nat :=
  match s.group t.id.launch t.id.group with
  | some g => g.obBase + (g.resvs.getD resv Resv.free).off + off
  | none => 0

/-- Writes operand-buffer bytes of a CU. -/
def State.obWrite (s : State) (cu at_ : Nat) (bytes : List Byte) : State :=
  s.modCu cu (fun c => { c with ob := memWriteN c.ob at_ bytes })

/-- The bytes of a location as an engine finds them, with their keys: what an operation is about to overwrite. -/
def State.priorOf (s : State) (c : CtxId) (cu : Nat) (l : Loc) (n : Nat) : List (Nat × Byte) :=
  match l with
  | .hbm pa _ _ =>
    let s := s.settleFrame pa
    (List.range n).map (fun i => (2 * (pa + i), s.seenByte (engineSees c cu) (pa + i)))
  | .sram k off => (List.range n).map (fun i => (2 * (k * 2 ^ 20 + off + i) + 1, s.seenByte (engineSees c cu) (sramKey k (off + i))))
  | .peer _ _ => []

/-- Keeps the first value of each place. -/
def keepPrior (old new : List (Nat × Byte)) : List (Nat × Byte) := new.foldl (fun l x => if (kvGet l x.1).isSome then l else kvPut l x.1 x.2) old

/-- A written piece: where, its bytes, and the tag it leaves. -/
structure EngPiece where
  loc : Loc
  bytes : List Byte
  tag : Option Bool
  deriving DecidableEq, Repr

/-- An engine writes a piece: with respect to every observer at once, or by a peer request. -/
def State.engineWrite (s : State) (t : Thread) (cu q ea : Nat) (p : EngPiece) : Eng Unit :=
  match p.loc with
  | .sram k off => .ok () (s.sramWrite k off p.bytes p.tag)
  | .hbm pa _ tc =>
    if s.underReset pa then .wait s
    else .ok () ((((s.peerMark t.id.launch ea).settleFrame pa).chargeWrite t.ctx.part pa p.bytes.length).writeBy
      (engineSees t.ctx cu) pa p.bytes (if tc then p.tag else none))
  | .peer pkg off => match (s.noRollback t.id.launch).enginePeer t cu q pkg off p.bytes.length (.write p.bytes p.tag false) with
    | (none, s) => .wait s
    | (some (.error c), s) => .bad (classOf c) ea s
    | (some (.data _ _), s) => .ok () s
    | (some .ack, s) => .ok () s

/-- A matrix engine spends cycles on an operation other than a multiplication; how many, the spec leaves open (R317, R389). -/
def State.spend (s : State) (c : CtxId) (cu : Nat) : State :=
  let (n, s) := s.draw
  s.perf c cu 0x0B n

/-! ## Joins -/

/-- QFEN_JOIN (R296): performed once it is the head of every queue it names. -/
def execQfenJoin (c : CtxId) (cu id : Nat) (s : State) : Host.Outcome State Fault Refusal :=
  let isIt := fun (e : EngineEntry) => match e.op with
    | .join n _ => n == id
    | _ => false
  let qs := (List.range 5).filter (fun q => (s.queue c cu q).any isIt)
  match (qs.flatMap (fun q => s.queue c cu q)).find? isIt with
  | none => .next s
  | some e =>
    if s.issues c && qs.all (fun q => ((s.queue c cu q).head?).any isIt) then
      let s := if qs.contains 4 then s.spend c cu else s
      .next ((qs.foldl (fun s q => s.modQueue c cu q (·.drop 1)) s).opDone e none)
    else .next s

end Sys2Proof.Machine
end

