-- ==== Sys2Proof/Machine/Copies.lean ====
section
/-!
DEFINITION. The copy engines (12 R287 to R295): a queue's head operation is performed chunk by chunk, or
element by element.
-/

namespace Sys2Proof.Machine

/-- One step of an operation: bytes from a source place, or given, to a destination place. -/
structure Move where
  dst : Place
  src : Option (Cap × Nat)
  fill : List Byte
  n : Nat
  tags : Bool
  deriving DecidableEq, Repr

/-- What an operation does next. -/
inductive Next where
  | move (m : Move)
  | finished
  | index (c : Cap) (ea : Nat) (k : Nat)

/-- A place a number of bytes on. -/
def Place.plus (p : Place) (n : Nat) : Place :=
  match p with
  | .mem c ea => .mem c (ea + n)
  | .ob r off => .ob r (off + n)

/-- The capability and address of a memory place. -/
def Place.cap (p : Place) : Option (Cap × Nat) :=
  match p with
  | .mem c ea => some (c, ea)
  | .ob _ _ => none

/-- The pattern's bytes from a byte number on (R293). -/
def patternBytes (v : Word) (i n : Nat) : List Byte :=
  (List.range n).map (fun k => BitVec.ofNat 8 (v.toNat / 2 ^ (8 * ((i + k) % 4))))

/-- The next chunk of 256 bytes, or element (R289, R293). -/
def nextOf (o : EngineOp) (i : Nat) : Next :=
  match o with
  | .cpy d a n tags =>
    if n ≤ 256 * i then .finished
    else .move { dst := d.plus (256 * i), src := (a.plus (256 * i)).cap, fill := [], n := min 256 (n - 256 * i), tags := tags }
  | .cpyf d v n =>
    if n ≤ 256 * i then .finished
    else
      let k := min 256 (n - 256 * i)
      .move { dst := d.plus (256 * i), src := none, fill := patternBytes v (256 * i) k, n := k, tags := false }
  | .cpyv d a rows cols tr stride => match a with
    | .ob _ _ => .finished
    | .mem x _ =>
      if rows * cols ≤ i then .finished
      else
        let r := i / cols
        let c := i % cols
        let es := 2 ^ x.esize
        let from_ := (viewAddr x (if tr then c else r) (if tr then r else c)).1.toNat
        let to_ := match d with
          | .ob k off => Place.ob k (off + r * stride + c * es)
          | .mem y _ => .mem y (viewAddr y r c).1.toNat
        .move { dst := to_, src := some (x, from_), fill := [], n := es, tags := false }
  | .cpyg _ _ idx m => if m ≤ i then .finished else match idx with
    | .mem c ea => .index c (ea + 4 * i) i
    | .ob _ _ => .finished
  | _ => .finished

/-- Where a chunk is cut: at the pages of its source and of its destination, at each granule of a tagged copy. -/
def cutsOf (m : Move) : List Nat :=
  let da := (m.dst.cap).map (·.2)
  let sa := m.src.map (·.2)
  let edge := fun (a : Option Nat) (i : Nat) => match a with
    | some v => (v + i) % 65536 == 0
    | none => false
  (List.range m.n).filter (fun i => i = 0 || edge da i || edge sa i || (m.tags && i % 16 == 0))

/-- The pieces of a chunk: offset and length. -/
def piecesOf (m : Move) : List (Nat × Nat) :=
  let cuts := cutsOf m
  (cuts.zip (cuts.drop 1 ++ [m.n])).map (fun p => (p.1, p.2 - p.1))

/-- The tag a granule carries in a tagged copy (R294); the package that owns peer memory applies its own replica (R380). -/
def State.carried (s : State) (t : Thread) (src dst : Cap) (l : Loc) (bytes : List Byte) (tag : Bool) : Bool :=
  let c : Cap := { bits := BitVec.ofNat 128 (bytesNat bytes), tag := true }
  let away := match l with
    | .peer _ _ => true
    | .hbm _ _ _ => false
    | .sram _ _ => false
  tag && src.holds permLC && dst.holds permSC && (away || s.colourState t.ctx.part c.colour == 1)
    && (c.holds permGL || !(dst.space < 3))

/-- A byte read where the operation has written before may be the one from before it began (R295). -/
def mixPrior (prior : List (Nat × Byte)) (l : Loc) (bytes : List Byte) (free : Nat) : List Byte :=
  bytes.mapIdx (fun i b => match (l.placeKey i).bind (kvGet prior) with
    | some old => if free.testBit i then old else b
    | none => b)

/-- A piece ready to be written: with its address, to memory or the operand buffer. -/
abbrev Written := Nat × EngPiece ⊕ Nat × List Byte

/-- A piece's source bytes and its tag. -/
def State.pieceSource (s : State) (t : Thread) (cu q : Nat) (e : EngineEntry) (m : Move) (i n : Nat) : Eng (List Byte × Bool) :=
  match m.src with
  | none => .ok ((m.fill.drop i).take n, false) s
  | some (x, a) => match s.engineLand t x.space (a + i) .read with
    | .ok l s => match s.engineReadAt t cu q l n (a + i) m.tags with
      | .ok (bytes, tags) s =>
        let (k, s) := s.draw
        .ok (mixPrior e.prior l bytes k, tags.headD false) s
      | .absent va s => .absent va s
      | .bad c a s => .bad c a s
      | .wait s => .wait s
      | .rolled s => .rolled s
    | .absent va s => .absent va s
    | .bad c a s => .bad c a s
    | .wait s => .wait s
    | .rolled s => .rolled s

/-- The pieces of a chunk made ready, in order: each with its address; what stopped it, if anything, and the kind of access that did (R351). -/
def State.gather (s : State) (t : Thread) (cu q : Nat) (e : EngineEntry) (m : Move) :
    List (Nat × Nat) → List (Written) → State × List (Written) × Option (Byte × Eng Unit)
  | [], acc => (s, acc, none)
  | (i, n) :: ps, acc => match s.pieceSource t cu q e m i n with
    | .ok (bytes, tag) s => match m.dst.plus i with
      | .ob r off => State.gather s t cu q e m ps (acc ++ [.inr (s.obByte t r off, bytes)])
      | .mem y a => match s.engineLand t y.space a .write with
        | .ok l s =>
          let src := (m.src.map (·.1)).getD Cap.null
          let b := if m.tags then some (s.carried t src y l bytes tag) else none
          State.gather s t cu q e m ps (acc ++ [.inl (a, { loc := l, bytes := bytes, tag := b })])
        | .absent va s => (s, acc, some (kindWrite, .absent va s))
        | .bad c a s => (s, acc, some (kindWrite, .bad c a s))
        | .wait s => (s, acc, some (kindWrite, .wait s))
        | .rolled s => (s, acc, some (kindWrite, .rolled s))
    | .absent va s => (s, acc, some (kindRead, .absent va s))
    | .bad c a s => (s, acc, some (kindRead, .bad c a s))
    | .wait s => (s, acc, some (kindRead, .wait s))
    | .rolled s => (s, acc, some (kindRead, .rolled s))

/-- Writes the pieces of a chunk; what each overwrites joins the operation's record. -/
def State.writePieces (s : State) (t : Thread) (cu q : Nat) :
    List (Written) → List (Nat × Byte) → Eng (List (Nat × Byte))
  | [], prior => .ok prior s
  | .inr (a, bytes) :: ps, prior => (s.obWrite cu a bytes).writePieces t cu q ps prior
  | .inl (a, p) :: ps, prior =>
    let prior := keepPrior prior (s.priorOf t.ctx cu p.loc p.bytes.length)
    match s.engineWrite t cu q a p with
    | .ok _ s => s.writePieces t cu q ps prior
    | .absent va s => .absent va s
    | .bad c a s => .bad c a s
    | .wait s => .wait s
    | .rolled s => .rolled s

/-- A location a number of bytes on. -/
def Loc.plus (l : Loc) (n : Nat) : Loc :=
  match l with
  | .hbm pa k tc => .hbm (pa + n) k tc
  | .sram cu off => .sram cu (off + n)
  | .peer pkg off => .peer pkg (off + n)

/-- The bytes of a faulting chunk that were written all the same: a free choice (R293). -/
def someBytes (free : Nat) (p : Written) : List (Written) :=
  match p with
  | .inr (a, bytes) => (List.range bytes.length).filterMap (fun i =>
      if free.testBit i then some (.inr (a + i, [bytes.getD i 0])) else none)
  | .inl (a, x) => match x.tag with
    | some _ => if free.testBit 0 then [.inl (a, x)] else []
    | none => (List.range x.bytes.length).filterMap (fun i =>
        if free.testBit i then some (.inl (a + i, { loc := x.loc.plus i, bytes := [x.bytes.getD i 0], tag := none })) else none)

/-- Peer pieces are not written for a faulting chunk: their requests were never sent. -/
def localPiece (p : Written) : Bool :=
  match p with
  | .inr _ => true
  | .inl (_, x) => match x.loc with
    | .peer _ _ => false
    | .hbm _ _ _ => true
    | .sram _ _ => true

/-- A move touches an SO page: with its source, with its destination (R244). -/
def State.moveSo (s : State) (t : Thread) (m : Move) : Bool × Bool :=
  (m.src.any (fun x => s.soAccess t x.1.space x.2 m.n .read), (m.dst.cap).any (fun x => s.soAccess t x.1.space x.2 m.n .write))

/-- The head operation makes one move, of which an SO access waits for what happens before it (R245). -/
def State.makeMove (s : State) (c : CtxId) (cu q : Nat) (e : EngineEntry) (t : Thread) (m : Move) : State :=
  let so := s.moveSo t m
  if (so.1 || so.2) && s.soHeld e then s
  else
  let reads := if so.1 then (m.src.map (fun x => s.soReads t cu x.1.space x.2 m.n)).getD [] else []
  if so.2 && reads.any s.pendingReq then s.engineAfter c cu q reads
  else
  let e := { e with before := e.before ++ reads }
  let (s1, ps, stop) := (s.engineAfter c cu q reads).gather t cu q e m (piecesOf m) []
  match stop with
  | none => match s1.writePieces t cu q ps e.prior with
    | .ok prior s =>
      ((s.perfMoved c cu m.n).dropEngineFlights c cu q).putHead c cu q { e with begun := true, progress := e.progress + 1, prior := prior }
    | .bad k a s => s.endHead c cu q e (some (k, BitVec.ofNat 64 a))
    | .absent va s => s.holdHead c cu q e va kindWrite
    | .wait s => s.putHead c cu q { e with begun := true }
    | .rolled s => s
  | some (_, .bad k a _) =>
    let (free, s1) := s1.draw
    let half := (ps.filter localPiece).flatMap (someBytes free)
    match s1.writePieces t cu q half e.prior with
    | .ok _ s => s.endHead c cu q e (some (k, BitVec.ofNat 64 a))
    | _ => s1.endHead c cu q e (some (k, BitVec.ofNat 64 a))
  | some (kinds, .absent va _) => s1.holdHead c cu q e va kinds
  | some (_, .wait _) => s1.putHead c cu q { e with begun := true }
  | some (_, .rolled s) => s
  | some (_, .ok _ s) => s

/-- An element of a gather (R293): its index entry, the bound, then the move. -/
def State.gatherMove (s : State) (c : CtxId) (cu q : Nat) (e : EngineEntry) (t : Thread) (idx : Cap) (ea k : Nat) : State :=
  match e.op with
  | .cpyg d (.mem x _) _ _ =>
    let stop := fun (r : Eng Unit) => match r with
      | .bad k a s => s.endHead c cu q e (some (k, BitVec.ofNat 64 a))
      | .absent va s => s.holdHead c cu q e va kindRead
      | .wait s => s.putHead c cu q { e with begun := true }
      | .rolled s => s
      | .ok _ s => s
    let so := s.soAccess t idx.space ea 4 .read
    if so && s.soHeld e then s
    else
    let reads := if so then s.soReads t cu idx.space ea 4 else []
    let e := { e with before := e.before ++ reads }
    let s := s.engineAfter c cu q reads
    match s.engineLand t idx.space ea .read with
    | .ok l s => match s.engineReadAt t cu q l 4 ea false with
      | .ok (bytes, _) s =>
        let (free, s) := s.draw
        let es := 2 ^ x.esize
        let a := x.cursor + bytesNat (mixPrior e.prior l bytes free) * es
        let at_ := s.remapped t x.space a
        if x.decode.2 < a + es then s.endHead c cu q e (some (.bounds, BitVec.ofNat 64 a))
        else if !s.inWindow t x.space at_ es then s.endHead c cu q e (some (.window, BitVec.ofNat 64 a))
        else if !s.local? t x.space at_ then s.endHead c cu q e (some (.spaceForeign, BitVec.ofNat 64 a))
        else s.makeMove c cu q e t { dst := d.plus (k * es), src := some (x, a), fill := [], n := es, tags := false }
      | .absent va s => stop (.absent va s)
      | .bad c a s => stop (.bad c a s)
      | .wait s => stop (.wait s)
      | .rolled s => stop (.rolled s)
    | .absent va s => stop (.absent va s)
    | .bad c a s => stop (.bad c a s)
    | .wait s => stop (.wait s)
    | .rolled s => stop (.rolled s)
  | _ => s

/-- The head of a queue makes one move. -/
def State.copyOnce (s : State) (c : CtxId) (cu q : Nat) (e : EngineEntry) (t : Thread) : State :=
  match s.opRevoked c e with
  | some f => s.endHead c cu q e (some f)
  | none => match nextOf e.op e.progress with
    | .finished => s.endHead c cu q e none
    | .move m => s.makeMove c cu q e t m
    | .index x ea k => s.gatherMove c cu q e t x ea k

/-- The head of a copy queue that an engine can serve: no join, no page awaited. -/
def State.copyHead (s : State) (x : CtxId × Nat × Nat) : Option (EngineEntry × Thread) :=
  if 4 ≤ x.2.2 then none
  else (s.headOf x.1 x.2.1 x.2.2).filter (fun y => match y.1.op with
    | .join _ _ => false
    | _ => true)

/-- The copy queues of a slice with such a head. -/
def State.copyQueues (s : State) (slice : Nat) : List (CtxId × Nat × Nat) :=
  (s.contexts.flatMap (fun c => (c.queues.filter (fun q => sliceOf q.cu == slice)).map (fun q => (c.id, q.cu, q.q)))).filter
    (fun x => (s.copyHead x).isSome)

/-- Free engines take the next queues of the round. -/
def takeQueues : List (Option (CtxId × Nat × Nat)) → List (CtxId × Nat × Nat) → List (Option (CtxId × Nat × Nat))
  | [], _ => []
  | some x :: es, l => some x :: takeQueues es l
  | none :: es, [] => none :: takeQueues es []
  | none :: es, x :: l => some x :: takeQueues es l

/-- The three engines and the round as they are now: a queue without a head to serve leaves both, a new one joins the round's end, and
free engines take the next (R289). -/
def State.copyRound (s : State) (slice : Nat) : CopyUnits :=
  let ready := s.copyQueues slice
  let u := (s.slice slice).copy
  let order := u.order.filter ready.contains ++ ready.filter (fun x => !u.order.contains x)
  let held := u.engines.map (fun e => e.filter ready.contains)
  { engines := takeQueues held (order.filter (fun x => !held.contains (some x))), order := order }

/-- An engine has moved a chunk of a queue, which goes to the end of the round. -/
def CopyUnits.turn (u : CopyUnits) (x : CtxId × Nat × Nat) : CopyUnits :=
  { engines := u.engines.map (fun e => e.filter (· != x)), order := u.order.erase x ++ [x] }

/-- The head of a queue has come to the end of a chunk, or to its own, or is held on a page: the engine goes to the next queue (R289). -/
def State.chunkOver (s : State) (c : CtxId) (cu q : Nat) (e : EngineEntry) : Bool :=
  match (s.queue c cu q).head? with
  | some h => h.serial != e.serial || h.page.isSome || (h.progress != e.progress && !h.midChunk)
  | none => true

/-- COPY_PERFORM (R289, R293): one of the slice's three copy engines takes one chunk or element of the head of a copy queue, when the
round has come to it. -/
def execCopyPerform (c : CtxId) (cu q : Nat) (s : State) : Host.Outcome State Fault Refusal :=
  match s.copyHead (c, cu, q) with
  | none => .next s
  | some (e, t) =>
    let u := s.copyRound (sliceOf cu)
    if u.engines.contains (some (c, cu, q)) then
      let s := (s.modSlice (sliceOf cu) (fun k => { k with copy := u })).copyOnce c cu q e t
      .next (if s.chunkOver c cu q e then s.modSlice (sliceOf cu) (fun k => { k with copy := k.copy.turn (c, cu, q) }) else s)
    else .next (s.modSlice (sliceOf cu) (fun k => { k with copy := u }))

end Sys2Proof.Machine
end

