-- ==== Sys2Proof/Machine/Approx.lean ====
section
/-!
DEFINITION. The approximated functions (05 R139, R140): an enclosure of the exact value by integer
arithmetic, the results the spec allows, and a free choice among them (log entry 5).
-/

namespace Sys2Proof.Machine

/-- What integer arithmetic knows of an exact value that is not zero: it lies strictly between lo 2^q and hi 2^q, which have no sign
change between them, or is lo 2^q where the two are equal. -/
structure Enclosure where
  lo : Int
  hi : Int
  q : Int
  deriving DecidableEq, Repr

/-- The magnitude of the end nearer to zero. -/
def Enclosure.near (v : Enclosure) : Nat := min v.lo.natAbs v.hi.natAbs

/-- The leading bit of the value's magnitude stands for 2^lead: no enclosure has a power of two inside. -/
def Enclosure.lead (v : Enclosure) : Int := v.q + (bitLen v.near : Int) - 1

/-- The enclosed value's negative. -/
def Enclosure.neg (v : Enclosure) : Enclosure := { lo := -v.hi, hi := -v.lo, q := v.q }

/-- A value within err of x, strictly between lo and hi. -/
def encloseIn (x : Int) (err : Nat) (lo hi : Int) (q : Int) : Enclosure := { lo := max lo (x - err), hi := min hi (x + err), q := q }

/-- Whether k 2^e is representable in a format. -/
def Fmt.representable (f : Fmt) (k : Int) (e : Int) : Bool :=
  k == 0 || (roundMag f .rz (decide (k < 0)) k.natAbs e false).flags == 0

/-- The exponent of half an ulp of an enclosed value (05, the ulp of a real). -/
def Enclosure.halfUlp (f : Fmt) (v : Enclosure) : Int := max v.lead f.emin - ((f.prec : Nat) : Int)

/-- An integer times a power of two, rounded down. -/
def shiftInt (x : Int) (n : Int) : Int :=
  if 0 ≤ n then x * ((2 ^ n.toNat : Nat) : Int) else x / ((2 ^ (-n).toNat : Nat) : Int)

/-- The representable values within `bound` ulp of the enclosed value, in half ulps: where the enclosure is open, no multiple of half an
ulp lies inside it, so the value lies strictly between two of them. -/
def Enclosure.candidates (f : Fmt) (bound : Nat) (v : Enclosure) : List Int :=
  let h := v.halfUlp f
  let b : Int := ((2 * bound : Nat) : Int)
  let lo := (if v.lo = v.hi then -(shiftInt (-v.lo) (v.q - h)) else shiftInt v.lo (v.q - h) + 1) - b
  let hi := (if v.lo = v.hi then shiftInt v.hi (v.q - h) else -(shiftInt (-v.hi) (v.q - h)) - 1) + b
  ((List.range ((hi - lo).toNat + 1)).map (fun (i : Nat) => lo + (i : Int))).filter (fun k => f.representable k h)

/-- One of the allowed results, by a free number: NX, and UF for a tiny value (R139, R140). The sign of a zero
among them is free too. -/
def Enclosure.pick (f : Fmt) (bound : Nat) (v : Enclosure) (n : Nat) : FRes :=
  let cs := v.candidates f bound
  let k := cs.getD (n % cs.length) 0
  let bits := if k = 0 then f.zero (n / cs.length % 2 == 1)
    else (roundMag f .rn (decide (k < 0)) k.natAbs (v.halfUlp f) false).bits
  { bits := bits, flags := flagNX ||| (if isTiny f v.near v.q (v.lo != v.hi) then flagUF else 0) }

/-- The exact result k 2^e, without a flag. -/
def exactRes (f : Fmt) (neg : Bool) (k : Nat) (e : Int) : FRes := roundVal f .rn neg k e false

/-- An overflow of the approximated functions: an infinity with OF and NX (R139, R140). -/
def overflowRes (f : Fmt) (neg : Bool) : FRes := { bits := f.infinity neg, flags := flagOF ||| flagNX }

/-- Whether a positive k 2^e exceeds the format's largest finite value. -/
def aboveMax (f : Fmt) (k : Nat) (e : Int) : Bool :=
  let lead := e + (bitLen k : Int) - 1
  decide ((f.bias : Int) < lead)
    || (decide ((f.bias : Int) = lead) && decide ((2 ^ f.prec - 1) * 2 ^ (bitLen k) < k * 2 ^ f.prec))

/-- frcp (R139). -/
def rcpRes (f : Fmt) (x : FVal) (n : Nat) : FRes :=
  match x with
  | .nan s => nanRes f (if s then flagNV else 0)
  | .inf neg => { bits := f.zero neg, flags := 0 }
  | .fin neg m e =>
    if m = 0 then { bits := f.infinity neg, flags := flagDZ }
    else
      let sh := bitLen m + 4 * f.prec + 20
      let v := 2 ^ sh / m
      let q := -e - (sh : Int)
      if aboveMax f v q then overflowRes f neg
      else if 2 ^ (bitLen m - 1) = m && f.representable v q then exactRes f neg v q
      else
        let r : Enclosure := { lo := v, hi := if 2 ^ (bitLen m - 1) = m then (v : Int) else v + 1, q := q }
        (if neg then r.neg else r).pick f 1 n

/-- frsq (R139). -/
def rsqRes (f : Fmt) (x : FVal) (n : Nat) : FRes :=
  match x with
  | .nan s => nanRes f (if s then flagNV else 0)
  | .inf neg => if neg then invalidRes f else { bits := f.zero false, flags := 0 }
  | .fin neg m e =>
    if m = 0 then { bits := f.infinity neg, flags := flagDZ }
    else if neg then invalidRes f
    else
      let odd := e % 2 != 0
      let k := if odd then 2 * m else m
      let e := if odd then e - 1 else e
      let sh := bitLen k + 4 * f.prec + 20
      let y := 2 ^ (2 * sh) / k
      let v := isqrt (bitLen y / 2 + 1) y
      let q := -(sh : Int) - e / 2
      if 2 ^ (bitLen k - 1) = k && bitLen k % 2 == 1 then exactRes f false v q
      else ({ lo := v, hi := v + 1, q := q } : Enclosure).pick f 1 n

/-! ## Series in fixed point -/

/-- A sum of a series: each step takes the term and its number to the next term. -/
def series (n : Nat) (first : Int) (next : Nat → Int → Int) : Int :=
  ((List.range n).foldl (fun (p : Int × Int) i => (p.1 + p.2, next i p.2)) (0, first)).1

/-- The inverse hyperbolic tangent of z 2^-p, |z| at most 2^p / 3. -/
def atanhFix (p : Nat) (z : Int) : Int :=
  let one : Int := ((2 ^ p : Nat) : Int)
  ((List.range p).foldl (fun (a : Int × Int) i => (a.1 + a.2 / ((2 * i + 1 : Nat) : Int), a.2 * z / one * z / one)) (0, z)).1

/-- ln 2 times 2^p. -/
def ln2Fix (p : Nat) : Int := 2 * atanhFix p (((2 ^ p / 3 : Nat) : Int))

/-- The inverse tangent of 1/n times 2^p. -/
def atanInvFix (p n : Nat) : Int :=
  (List.range (p / 4)).foldl (fun acc i =>
    let t : Int := ((2 ^ p / (n ^ (2 * i + 1) * (2 * i + 1)) : Nat) : Int)
    if i % 2 = 0 then acc + t else acc - t) 0

/-- π times 2^p. -/
def piFix (p : Nat) : Int := 4 * (4 * atanInvFix p 5 - atanInvFix p 239)

/-- The bound of R140: 2 ulp for f32, 4 for f64. -/
def ulpBound (f : Fmt) : Nat := if f = .f64 then 4 else 2

/-- fex2 (R140). -/
def ex2Res (f : Fmt) (x : FVal) (n : Nat) : FRes :=
  match x with
  | .nan s => nanRes f (if s then flagNV else 0)
  | .inf neg => { bits := if neg then f.zero false else f.infinity false, flags := 0 }
  | .fin neg m e =>
    let p : Nat := 300
    if m = 0 then exactRes f false 1 0
    else if 12 ≤ e + (bitLen m : Int) - 1 then
      if neg then ({ lo := 0, hi := 1, q := -4096 } : Enclosure).pick f (ulpBound f) n
      else overflowRes f false
    else
      let sm : Int := if neg then -(m : Int) else m
      let a := shiftInt sm (e + p)
      let one : Int := ((2 ^ p : Nat) : Int)
      let k := a / one
      let fr := a - k * one
      if fr = 0 && (0 ≤ e || m % 2 ^ (-e).toNat = 0) then
        if (f.bias : Int) < k then overflowRes f false
        else if f.representable 1 k then exactRes f false 1 k
        else ({ lo := 1, hi := 1, q := k } : Enclosure).pick f (ulpBound f) n
      else
        let y := fr * ln2Fix p / one
        let v := series 100 one (fun i t => t * y / one / ((i + 1 : Nat) : Int))
        if aboveMax f v.toNat (k - p) then overflowRes f false
        else (encloseIn v (2 ^ 20) one (2 * one) (k - p)).pick f (ulpBound f) n

/-- flg2 (R140). -/
def lg2Res (f : Fmt) (x : FVal) (n : Nat) : FRes :=
  match x with
  | .nan s => nanRes f (if s then flagNV else 0)
  | .inf neg => if neg then invalidRes f else { bits := f.infinity false, flags := 0 }
  | .fin neg m e =>
    if m = 0 then { bits := f.infinity true, flags := flagDZ }
    else if neg then invalidRes f
    else
      let k := e + (bitLen m : Int) - 1
      if 2 ^ (bitLen m - 1) = m then exactRes f (decide (k < 0)) k.natAbs 0
      else
        let p : Nat := 300
        let one : Int := ((2 ^ p : Nat) : Int)
        let y : Int := ((m * 2 ^ p / 2 ^ (bitLen m - 1) : Nat) : Int)
        let ln := 2 * atanhFix p ((y - one) * one / (y + one))
        let v := k * one + ln * one / ln2Fix p
        (encloseIn v (2 ^ 20) (k * one) ((k + 1) * one) (-(p : Int))).pick f (ulpBound f) n

/-- fsin, and with `cosine` fcos (R140): the argument is reduced by π to 2,500 binary places. Both lie strictly between -1 and 1, and the
sine of a positive argument below the argument. -/
def sinRes (f : Fmt) (cosine : Bool) (x : FVal) (n : Nat) : FRes :=
  match x with
  | .nan s => nanRes f (if s then flagNV else 0)
  | .inf _ => invalidRes f
  | .fin neg m e =>
    if m = 0 then (if cosine then exactRes f false 1 0 else { bits := f.zero neg, flags := 0 })
    else
      let p : Nat := 2500
      let one : Int := ((2 ^ p : Nat) : Int)
      let a := shiftInt m (e + p)
      let tau := 2 * piFix p
      let r := a % tau
      let v := if cosine then
          series 260 one (fun i t => -(t * r / one * r / one / (((2 * i + 1) * (2 * i + 2) : Nat) : Int)))
        else
          series 260 r (fun i t => -(t * r / one * r / one / (((2 * i + 2) * (2 * i + 3) : Nat) : Int)))
      let y := encloseIn v (2 ^ 1100) (-one) (if cosine then one else min one a) (-(p : Int))
      (if neg && !cosine then y.neg else y).pick f (ulpBound f) n

end Sys2Proof.Machine
end

