-- ==== Sys2Proof/Machine/IntF.lean ====
section
/-!
DEFINITION. The F integer instructions (04 R96 to R114): what each computes, over one shared shape per
operand form.
-/

namespace Sys2Proof.Machine

/-- A lane-by-lane instruction of sources a, b, c of the type's width (R97). -/
def intLanes (op : Nat) (w : FWord) (s : State) (f : Int → Int → Int → Int) : Host.Outcome State Fault Refusal :=
  issue (.f op w) s fun s t =>
    let a := srcInt s t w.ty w.a
    let b := srcInt s t w.ty w.b
    let c := srcInt s t w.ty w.c
    .go s (t.setVal (intWide w.ty) w.d.toNat
      (lanes w.ty fun l => f (laneVal w.ty a l) (laneVal w.ty b l) (laneVal w.ty c l)))

/-- A lane-by-lane instruction of the bits of a and of a shift amount, the same lane of the 32-bit source b
modulo the lane width; in a 64-bit type b mod 64 (R107). -/
def intShift (op : Nat) (w : FWord) (s : State) (f : Nat → Nat → Nat → Nat) : Host.Outcome State Fault Refusal :=
  issue (.f op w) s fun s t =>
    let a := srcInt s t w.ty w.a
    let b := src32 s t w.b
    let wd := laneWidth w.ty
    let amount := fun l => if intWide w.ty then b % 64 else laneBits w.ty b l % wd
    .go s (t.setVal (intWide w.ty) w.d.toNat (lanes w.ty fun l => ((f wd (laneBits w.ty a l) (amount l) : Nat) : Int)))

/-- A lane-by-lane instruction of the bits of a alone (R108). -/
def intBits (op : Nat) (w : FWord) (s : State) (f : Nat → Nat → Nat) : Host.Outcome State Fault Refusal :=
  issue (.f op w) s fun s t =>
    let a := srcInt s t w.ty w.a
    .go s (t.setVal (intWide w.ty) w.d.toNat
      (lanes w.ty fun l => ((f (laneWidth w.ty) (laneBits w.ty a l) : Nat) : Int)))

/-- A logical instruction on the whole operand (R106). -/
def intLogic (op : Nat) (w : FWord) (s : State) (f : Word64 → Word64 → Word64) : Host.Outcome State Fault Refusal :=
  issue (.f op w) s fun s t =>
    let a := BitVec.ofNat 64 (srcInt s t w.ty w.a)
    let b := BitVec.ofNat 64 (srcInt s t w.ty w.b)
    .go s (t.setVal (intWide w.ty) w.d.toNat (f a b).toNat)

/-- add (R101). -/
def execAdd (w : FWord) (s : State) : Host.Outcome State Fault Refusal := intLanes 0x01 w s fun x y _ => x + y

/-- sub (R101). -/
def execSub (w : FWord) (s : State) : Host.Outcome State Fault Refusal := intLanes 0x02 w s fun x y _ => x - y

/-- The carry chain of `addc` and `subb` (R105): the operands unsigned, the carry-in from p[P] with .ci, the
result and the carry-out. -/
def carryChain (op : Nat) (w : FWord) (s : State) (f : Int → Int → Int → Nat → Int × Bool) :
    Host.Outcome State Fault Refusal :=
  issue (.f op w) s fun s t =>
    let p := w.lo % 16
    let wd := laneWidth w.ty
    let x := srcInt s t w.ty w.a % 2 ^ wd
    let y := srcInt s t w.ty w.b % 2 ^ wd
    let ci : Int := if w.lo / 16 = 1 && t.pred p then 1 else 0
    let r := f x y ci wd
    .go s ((t.setVal (intWide w.ty) w.d.toNat (wrapNat r.1 wd)).setPred p r.2)

/-- addc (R105). -/
def execAddc (w : FWord) (s : State) : Host.Outcome State Fault Refusal :=
  carryChain 0x03 w s fun x y ci wd => (x + y + ci, decide (((2 ^ wd : Nat) : Int) ≤ x + y + ci))

/-- subb (R105). -/
def execSubb (w : FWord) (s : State) : Host.Outcome State Fault Refusal :=
  carryChain 0x04 w s fun x y ci _ => (x - y - ci, decide (x - y - ci < 0))

/-- mul (R101). -/
def execMul (w : FWord) (s : State) : Host.Outcome State Fault Refusal := intLanes 0x05 w s fun x y _ => x * y

/-- mulhi (R101). -/
def execMulhi (w : FWord) (s : State) : Host.Outcome State Fault Refusal :=
  intLanes 0x06 w s fun x y _ => (x * y) / ((2 ^ laneWidth w.ty : Nat) : Int)

/-- mulw (R102): the full product of two 32-bit operands, as a pair. -/
def execMulw (w : FWord) (s : State) : Host.Outcome State Fault Refusal :=
  issue (.f 0x07 w) s fun s t =>
    let x := laneVal w.ty (src32 s t w.a) 0
    let y := laneVal w.ty (src32 s t w.b) 0
    .go s (t.setPair w.d.toNat (BitVec.ofInt 64 (x * y)))

/-- mad (R101). -/
def execMad (w : FWord) (s : State) : Host.Outcome State Fault Refusal := intLanes 0x08 w s fun x y z => x * y + z

/-- madhi (R101). -/
def execMadhi (w : FWord) (s : State) : Host.Outcome State Fault Refusal :=
  intLanes 0x09 w s fun x y z => (x * y + z) / ((2 ^ laneWidth w.ty : Nat) : Int)

/-- min (R101). -/
def execMin (w : FWord) (s : State) : Host.Outcome State Fault Refusal := intLanes 0x0A w s fun x y _ => if x < y then x else y

/-- max (R101). -/
def execMax (w : FWord) (s : State) : Host.Outcome State Fault Refusal := intLanes 0x0B w s fun x y _ => if x < y then y else x

/-- abs, with .sat saturating (R101). -/
def execAbs (w : FWord) (s : State) : Host.Outcome State Fault Refusal :=
  intLanes 0x0C w s fun x _ _ =>
    let r := if x < 0 then -x else x
    if w.lo = 1 then satS r (laneWidth w.ty) else r

/-- neg, with .sat saturating (R101). -/
def execNeg (w : FWord) (s : State) : Host.Outcome State Fault Refusal :=
  intLanes 0x0D w s fun x _ _ => if w.lo = 1 then satS (-x) (laneWidth w.ty) else -x

/-- Saturation by the type's signedness (R101). -/
def satTy (ty : Nat) (x : Int) : Int := if laneSigned ty then satS x (laneWidth ty) else satU x (laneWidth ty)

/-- sadd (R101). -/
def execSadd (w : FWord) (s : State) : Host.Outcome State Fault Refusal := intLanes 0x0E w s fun x y _ => satTy w.ty (x + y)

/-- ssub (R101). -/
def execSsub (w : FWord) (s : State) : Host.Outcome State Fault Refusal := intLanes 0x0F w s fun x y _ => satTy w.ty (x - y)

/-- and (R106). -/
def execAnd (w : FWord) (s : State) : Host.Outcome State Fault Refusal := intLogic 0x10 w s fun x y => x &&& y

/-- or (R106). -/
def execOr (w : FWord) (s : State) : Host.Outcome State Fault Refusal := intLogic 0x11 w s fun x y => x ||| y

/-- xor (R106). -/
def execXor (w : FWord) (s : State) : Host.Outcome State Fault Refusal := intLogic 0x12 w s fun x y => x ^^^ y

/-- andn (R106). -/
def execAndn (w : FWord) (s : State) : Host.Outcome State Fault Refusal := intLogic 0x13 w s fun x y => x &&& ~~~y

/-- orn (R106). -/
def execOrn (w : FWord) (s : State) : Host.Outcome State Fault Refusal := intLogic 0x14 w s fun x y => x ||| ~~~y

/-- not (R106). -/
def execNot (w : FWord) (s : State) : Host.Outcome State Fault Refusal := intLogic 0x15 w s fun x _ => ~~~x

/-- shl (R107). -/
def execShl (w : FWord) (s : State) : Host.Outcome State Fault Refusal := intShift 0x16 w s fun _ x n => x * 2 ^ n

/-- shr (R107): zeros in, whatever the type's signedness. -/
def execShr (w : FWord) (s : State) : Host.Outcome State Fault Refusal := intShift 0x17 w s fun _ x n => x / 2 ^ n

/-- sar (R107): copies of the lane's top bit in. -/
def execSar (w : FWord) (s : State) : Host.Outcome State Fault Refusal :=
  intShift 0x18 w s fun wd x n => wrapNat (sextNat x wd / ((2 ^ n : Nat) : Int)) wd

/-- rol (R107). -/
def execRol (w : FWord) (s : State) : Host.Outcome State Fault Refusal :=
  intShift 0x19 w s fun wd x n => (x * 2 ^ n) % 2 ^ wd + x / 2 ^ (wd - n)

/-- ror (R107). -/
def execRor (w : FWord) (s : State) : Host.Outcome State Fault Refusal :=
  intShift 0x1A w s fun wd x n => x / 2 ^ n + (x * 2 ^ (wd - n)) % 2 ^ wd

/-- bfx (R109). -/
def execBfx (w : FWord) (s : State) : Host.Outcome State Fault Refusal :=
  issue (.f 0x1B w) s fun s t =>
    let wd := laneWidth w.ty
    let a := srcInt s t w.ty w.a
    let ctl := src32 s t w.b
    let pos := ctl % 256
    let len := ctl / 256 % 256
    let res := if wd ≤ pos || len = 0 then 0
      else
        let len := min len (wd - pos)
        let f := a / 2 ^ pos % 2 ^ len
        if laneSigned w.ty then wrapNat (sextNat f len) wd else f
    .go s (t.setVal (intWide w.ty) w.d.toNat res)

/-- bfi (R109): inserts a into the base b under the control c. -/
def execBfi (w : FWord) (s : State) : Host.Outcome State Fault Refusal :=
  issue (.f 0x1C w) s fun s t =>
    let wd := laneWidth w.ty
    let a := BitVec.ofNat 64 (srcInt s t w.ty w.a)
    let b := BitVec.ofNat 64 (srcInt s t w.ty w.b)
    let ctl := src32 s t w.c
    let pos := ctl % 256
    let len := ctl / 256 % 256
    let res := if wd ≤ pos || len = 0 then b
      else
        let len := min len (wd - pos)
        let mask := BitVec.ofNat 64 ((2 ^ len - 1) * 2 ^ pos)
        (b &&& ~~~mask) ||| ((a <<< pos) &&& mask)
    .go s (t.setVal (intWide w.ty) w.d.toNat res.toNat)

/-- popc (R108). -/
def execPopc (w : FWord) (s : State) : Host.Outcome State Fault Refusal := intBits 0x1D w s popNat

/-- clz (R108). -/
def execClz (w : FWord) (s : State) : Host.Outcome State Fault Refusal := intBits 0x1E w s clzNat

/-- ctz (R108). -/
def execCtz (w : FWord) (s : State) : Host.Outcome State Fault Refusal := intBits 0x1F w s ctzNat

/-- brev (R108). -/
def execBrev (w : FWord) (s : State) : Host.Outcome State Fault Refusal := intBits 0x20 w s revNat

/-- bperm (R110): four bytes out of the eight of b:a, or their signs. -/
def execBperm (w : FWord) (s : State) : Host.Outcome State Fault Refusal :=
  issue (.f 0x21 w) s fun s t =>
    let pool := src32 s t w.a + src32 s t w.b * 2 ^ 32
    let ctl := src32 s t w.c
    let byte := fun (i : Nat) =>
      let sel := ctl / 16 ^ i % 16
      let v := pool / 256 ^ (sel % 8) % 256
      if 8 ≤ sel then (if 128 ≤ v then 255 else 0) else v
    .go s (t.setReg w.d.toNat (BitVec.ofNat 32 (byte 0 + byte 1 * 256 + byte 2 * 65536 + byte 3 * 16777216)))

/-- sel (R112): a where the predicate holds, else b. -/
def execSel (w : FWord) (s : State) : Host.Outcome State Fault Refusal :=
  issue (.f 0x22 w) s fun s t =>
    let q := xor (t.pred (w.c.toNat % 16)) (w.c.getLsbD 4)
    .go s (t.setVal (intWide w.ty) w.d.toNat (if q then srcInt s t w.ty w.a else srcInt s t w.ty w.b))

/-- mov (R112). -/
def execMov (w : FWord) (s : State) : Host.Outcome State Fault Refusal :=
  issue (.f 0x23 w) s fun s t => .go s (t.setVal (intWide w.ty) w.d.toNat (srcInt s t w.ty w.a))

/-- clmul (R111): the low half of the carry-less product. -/
def execClmul (w : FWord) (s : State) : Host.Outcome State Fault Refusal :=
  issue (.f 0x24 w) s fun s t =>
    .go s (t.setPair w.d.toNat (BitVec.ofNat 64 (clmulNat (srcInt s t w.ty w.a) (srcInt s t w.ty w.b))))

/-- clmulhi (R111): its high half. -/
def execClmulhi (w : FWord) (s : State) : Host.Outcome State Fault Refusal :=
  issue (.f 0x25 w) s fun s t =>
    .go s (t.setPair w.d.toNat (BitVec.ofNat 64 (clmulNat (srcInt s t w.ty w.a) (srcInt s t w.ty w.b) / 2 ^ 64)))

/-- dot4 (R103). -/
def execDot4 (w : FWord) (s : State) : Host.Outcome State Fault Refusal :=
  issue (.f 0x26 w) s fun s t =>
    let a := src32 s t w.a
    let b := src32 s t w.b
    let c := src32 s t w.c
    let signed := laneSigned w.ty
    let acc0 : Int := if signed then sextNat c 32 else (c : Int)
    let acc := (List.range 4).foldl (fun acc l => acc + laneVal w.ty a l * laneVal w.ty b l) acc0
    let r := if w.lo = 1 then (if signed then satS acc 32 else satU acc 32) else acc
    .go s (t.setReg w.d.toNat (BitVec.ofInt 32 r))

/-- adiff (R101). -/
def execAdiff (w : FWord) (s : State) : Host.Outcome State Fault Refusal :=
  intLanes 0x27 w s fun x y _ => if x < y then y - x else x - y

/-- A comparison by its condition code: eq, ne, lt, ge, le, gt (R113). -/
def intCond (cond : Nat) (x y : Int) : Bool :=
  match cond with
  | 0 => x == y
  | 1 => x != y
  | 2 => decide (x < y)
  | 3 => decide (y ≤ x)
  | 4 => decide (x ≤ y)
  | _ => decide (y < x)

/-- A comparison's result with the combining predicate: none, and, or (R113, R137). -/
def combine (code : Nat) (r p : Bool) : Bool :=
  match code with
  | 0 => r
  | 1 => r && p
  | _ => r || p

/-- cmp (R113). -/
def execCmp (w : FWord) (s : State) : Host.Outcome State Fault Refusal :=
  issue (.f 0x28 w) s fun s t =>
    let x := laneVal w.ty (srcInt s t w.ty w.a) 0
    let y := laneVal w.ty (srcInt s t w.ty w.b) 0
    .go s (t.setPred (w.d.toNat % 16) (combine (w.lo % 4) (intCond (w.lo / 4) x y) (t.pred (w.c.toNat % 16))))

/-- pset (R114): a predicate from a two-input table. -/
def execPset (w : FWord) (s : State) : Host.Outcome State Fault Refusal :=
  issue (.f 0x29 w) s fun s t =>
    let i := (if t.pred w.a.toNat then 2 else 0) + (if t.pred w.b.toNat then 1 else 0)
    .go s (t.setPred w.d.toNat (w.mod.getLsbD i))

/-- p2g (R114): the predicates as a mask, bit 0 always 1. -/
def execP2g (w : FWord) (s : State) : Host.Outcome State Fault Refusal :=
  issue (.f 0x2A w) s fun s t => .go s (t.setReg w.d.toNat ((t.preds ||| 1#16).setWidth 32))

/-- g2p (R114): predicates 1 to 15 from a under the mask b. -/
def execG2p (w : FWord) (s : State) : Host.Outcome State Fault Refusal :=
  issue (.f 0x2B w) s fun s t =>
    let v := BitVec.ofNat 16 (src32 s t w.a)
    let m := BitVec.ofNat 16 (src32 s t w.b) &&& 0xFFFE#16
    .go s { t with preds := (t.preds &&& ~~~m) ||| (v &&& m) }

/-- scadd (R104). -/
def execScadd (w : FWord) (s : State) : Host.Outcome State Fault Refusal :=
  intLanes 0x2C w s fun x y _ => x + y * ((2 ^ w.lo : Nat) : Int)

end Sys2Proof.Machine
end

