-- ==== Sys2Proof/Machine/FloatF.lean ====
section
/-!
DEFINITION. The F floating-point instructions (05 R132 to R146).
-/

namespace Sys2Proof.Machine

/-- Writes the lanes of a floating-point result and raises their flags (R119, R128). -/
def Thread.setFloat (t : Thread) (ty d : Nat) (r : Nat → FRes) : Thread :=
  if ty = 1 then (t.setPair d (BitVec.ofNat 64 (r 0).bits)).raise (r 0).flags
  else if floatLanes ty = 2 then
    (t.setReg d (BitVec.ofNat 32 ((r 0).bits + (r 1).bits * 65536))).raise ((r 0).flags ||| (r 1).flags)
  else (t.setReg d (BitVec.ofNat 32 (r 0).bits)).raise (r 0).flags

/-- The rounding of a word. -/
def wordRnd (w : FWord) : Rnd := rndOf w.rnd

/-- The saturate bit. -/
def wordSat (w : FWord) : Bool := w.lo / 4 % 2 == 1

/-- Lane l of operand a after the negate and absolute modifiers (R62, R130). -/
def laneA (w : FWord) (ty v l : Nat) : Nat :=
  signMods (fmtOf ty) (w.lo / 2 % 2 == 1) (w.lo % 2 == 1) (floatLane ty v l)

/-- A lane-by-lane instruction of up to three floating-point operands (R133). -/
def floatOp (op : Nat) (w : FWord) (s : State) (f : Fmt → Nat → Nat → Nat → FRes) : Host.Outcome State Fault Refusal :=
  issue (.f op w) s fun s t =>
    let a := srcFloat s t w.ty w.a
    let b := srcFloat s t w.ty w.b
    let c := srcFloat s t w.ty w.c
    let ft := fmtOf w.ty
    .go s (t.setFloat w.ty w.d.toNat
      (fun l => satRes ft (wordSat w) (f ft (laneA w w.ty a l) (floatLane w.ty b l) (floatLane w.ty c l))))

/-- An approximated instruction: a free value for its operand chooses its result (R139, R140; R42, R264: one operand, one result). -/
def approxOp (op : Nat) (w : FWord) (s : State) (f : Fmt → FVal → Nat → FRes) : Host.Outcome State Fault Refusal :=
  issue (.f op w) s fun s t =>
    let ft := fmtOf w.ty
    let a := laneA w w.ty (srcFloat s t w.ty w.a) 0
    .go s (t.setFloat w.ty w.d.toNat (fun _ => satRes ft (wordSat w) (f ft (ft.read a) (Config.approx (BitVec.ofNat 8 op) w.mod a))))

/-- fadd (R133). -/
def execFadd (w : FWord) (s : State) : Host.Outcome State Fault Refusal :=
  floatOp 0x40 w s fun ft x y _ => addRes ft (wordRnd w) (ft.read x) (ft.read y)

/-- fsub (R133). -/
def execFsub (w : FWord) (s : State) : Host.Outcome State Fault Refusal :=
  floatOp 0x41 w s fun ft x y _ => addRes ft (wordRnd w) (ft.read x) (ft.read y).neg

/-- fmul (R133). -/
def execFmul (w : FWord) (s : State) : Host.Outcome State Fault Refusal :=
  floatOp 0x42 w s fun ft x y _ => mulRes ft (wordRnd w) (ft.read x) (ft.read y)

/-- ffma (R133). -/
def execFfma (w : FWord) (s : State) : Host.Outcome State Fault Refusal :=
  floatOp 0x43 w s fun ft x y z => fmaRes ft (wordRnd w) (ft.read x) (ft.read y) (ft.read z)

/-- fmin (R135). -/
def execFmin (w : FWord) (s : State) : Host.Outcome State Fault Refusal :=
  floatOp 0x44 w s fun ft x y _ => minMaxRes ft false x y

/-- fmax (R135). -/
def execFmax (w : FWord) (s : State) : Host.Outcome State Fault Refusal :=
  floatOp 0x45 w s fun ft x y _ => minMaxRes ft true x y

/-- fmov (R136): the bits after the sign modifiers; no flag. -/
def execFmov (w : FWord) (s : State) : Host.Outcome State Fault Refusal :=
  floatOp 0x46 w s fun _ x _ _ => { bits := x, flags := 0 }

/-- The outcome of a floating-point comparison and its flag (R137). -/
def fcmpRes (cond : Nat) (x y : FVal) : Bool × BitVec 5 :=
  let un := x.isNan || y.isNan
  let signalling := 2 ≤ cond && cond ≤ 5
  let flags := if signalling && un then flagNV else snanFlag [x, y]
  let o := cmpVal x y
  let r := match cond with
    | 0 => !un && o == .eq
    | 1 => un || o != .eq
    | 2 => !un && o == .lt
    | 3 => !un && o != .gt
    | 4 => !un && o == .gt
    | 5 => !un && o != .lt
    | 6 => un
    | _ => !un
  (r, flags)

/-- fcmp (R137). -/
def execFcmp (w : FWord) (s : State) : Host.Outcome State Fault Refusal :=
  issue (.f 0x47 w) s fun s t =>
    let ft := fmtOf w.ty
    let x := ft.read (laneA w w.ty (srcFloat s t w.ty w.a) 0)
    let y := ft.read (floatLane w.ty (srcFloat s t w.ty w.b) 0)
    let (r, flags) := fcmpRes (w.d.toNat / 64) x y
    .go s ((t.setPred (w.d.toNat % 16) (combine (w.d.toNat / 16 % 4) r (t.pred (w.c.toNat % 16)))).raise flags)

/-- The class bit of a datum's pattern (R138). -/
def classBit (f : Fmt) (x : Nat) : Nat :=
  match f.read x with
  | .nan s => if s then 8 else 9
  | .inf n => if n then 0 else 7
  | .fin n m _ =>
    if m = 0 then (if n then 3 else 4)
    else if m < 2 ^ (f.prec - 1) then (if n then 2 else 5)
    else if n then 1 else 6

/-- fclass (R138). -/
def execFclass (w : FWord) (s : State) : Host.Outcome State Fault Refusal :=
  issue (.f 0x48 w) s fun s t =>
    let x := floatLane w.ty (srcFloat s t w.ty w.a) 0
    .go s (t.setReg w.d.toNat (1#32 <<< classBit (fmtOf w.ty) x))

/-- fdiv (R133). -/
def execFdiv (w : FWord) (s : State) : Host.Outcome State Fault Refusal :=
  floatOp 0x49 w s fun ft x y _ => divRes ft (wordRnd w) (ft.read x) (ft.read y)

/-- fsqrt (R133). -/
def execFsqrt (w : FWord) (s : State) : Host.Outcome State Fault Refusal :=
  floatOp 0x4A w s fun ft x _ _ => sqrtRes ft (wordRnd w) (ft.read x)

/-- frcp (R139). -/
def execFrcp (w : FWord) (s : State) : Host.Outcome State Fault Refusal := approxOp 0x4B w s rcpRes

/-- frsq (R139). -/
def execFrsq (w : FWord) (s : State) : Host.Outcome State Fault Refusal := approxOp 0x4C w s rsqRes

/-- fex2 (R140). -/
def execFex2 (w : FWord) (s : State) : Host.Outcome State Fault Refusal := approxOp 0x4D w s ex2Res

/-- flg2 (R140). -/
def execFlg2 (w : FWord) (s : State) : Host.Outcome State Fault Refusal := approxOp 0x4E w s lg2Res

/-- fsin (R140). -/
def execFsin (w : FWord) (s : State) : Host.Outcome State Fault Refusal := approxOp 0x4F w s fun f x n => sinRes f false x n

/-- fcos (R140). -/
def execFcos (w : FWord) (s : State) : Host.Outcome State Fault Refusal := approxOp 0x50 w s fun f x n => sinRes f true x n

/-- A conversion of one pattern between formats (R141). -/
def cvtRes (f g : Fmt) (md : Rnd) (x : Nat) : FRes :=
  match f.read x with
  | .nan s => nanRes g (if s then flagNV else 0)
  | .inf n => { bits := g.infinity n, flags := 0 }
  | .fin n m e => roundVal g md n m e false

/-- fcvt (R141): between scalars; two f32 into a packed form; lane L of a packed form widened; packed to
packed. -/
def execFcvt (w : FWord) (s : State) : Host.Outcome State Fault Refusal :=
  issue (.f 0x51 w) s fun s t =>
    let st := w.cvtSrc
    let f := fmtOf st
    let g := fmtOf w.ty
    let a := srcFloat s t st w.a
    let lane := fun l =>
      if st = 0 && ftyPacked w.ty then (if l = 0 then laneA w 0 a 0 else src32 s t w.c)
      else if ftyPacked st && !ftyPacked w.ty then laneA w st a (w.b.toNat / 8 % 2)
      else laneA w st a l
    .go s (t.setFloat w.ty w.d.toNat (fun l => satRes g (wordSat w) (cvtRes f g (wordRnd w) (lane l))))

/-- A datum rounded to an integer and saturated to a range (R142). -/
def toIntRes (md : Rnd) (lo hi : Int) (x : FVal) : Int × BitVec 5 :=
  match x with
  | .nan _ => (0, flagNV)
  | .inf n => (if n then lo else hi, flagNV)
  | .fin n m e =>
    let (k, inexact) := roundSteps md n m e 0 false
    let v : Int := if n then -(k : Int) else k
    if hi < v then (hi, flagNV)
    else if v < lo then (lo, flagNV)
    else (v, if inexact then flagNX else 0)

/-- The range of an integer type of R142. -/
def intRange (ty : Nat) : Int × Int :=
  let n := laneWidth ty
  if laneSigned ty then (-((2 ^ (n - 1) : Nat) : Int), ((2 ^ (n - 1) : Nat) : Int) - 1) else (0, ((2 ^ n : Nat) : Int) - 1)

/-- f2i (R142). -/
def execF2i (w : FWord) (s : State) : Host.Outcome State Fault Refusal :=
  issue (.f 0x52 w) s fun s t =>
    let it := w.b.toNat % 8
    let x := (fmtOf w.ty).read (laneA w w.ty (srcFloat s t w.ty w.a) 0)
    let (lo, hi) := intRange it
    let (v, flags) := toIntRes (wordRnd w) lo hi x
    .go s ((t.setVal (intWide it) w.d.toNat (wrapNat v 64)).raise flags)

/-- i2f (R143). -/
def execI2f (w : FWord) (s : State) : Host.Outcome State Fault Refusal :=
  issue (.f 0x53 w) s fun s t =>
    let it := w.b.toNat % 8
    let g := fmtOf w.ty
    let v := laneVal it (srcInt s t it w.a) 0
    .go s (t.setFloat w.ty w.d.toNat (fun _ => satRes g (wordSat w) (roundVal g (wordRnd w) (decide (v < 0)) v.natAbs 0 false)))

/-- frnd (R144). -/
def frndRes (f : Fmt) (md : Rnd) (x : Nat) : FRes :=
  match f.read x with
  | .nan s => nanRes f (if s then flagNV else 0)
  | .inf _ => { bits := x, flags := 0 }
  | .fin n m e =>
    if m = 0 || 0 ≤ e then { bits := x, flags := 0 }
    else { bits := (roundVal f .rn n (roundSteps md n m e 0 false).1 0 false).bits, flags := 0 }

/-- frnd (R144). -/
def execFrnd (w : FWord) (s : State) : Host.Outcome State Fault Refusal :=
  floatOp 0x54 w s fun ft x _ _ => frndRes ft (wordRnd w) x

/-- fscale (R145): b is a signed 32-bit source. -/
def execFscale (w : FWord) (s : State) : Host.Outcome State Fault Refusal :=
  issue (.f 0x55 w) s fun s t =>
    let ft := fmtOf w.ty
    let n := sextNat (src32 s t w.b) 32
    let r := match ft.read (laneA w w.ty (srcFloat s t w.ty w.a) 0) with
      | .nan sg => nanRes ft (if sg then flagNV else 0)
      | .inf ng => { bits := ft.infinity ng, flags := 0 }
      | .fin ng m e => roundVal ft (wordRnd w) ng m (e + n) false
    .go s (t.setFloat w.ty w.d.toNat (fun _ => satRes ft (wordSat w) r))

/-- fgexp (R145). -/
def execFgexp (w : FWord) (s : State) : Host.Outcome State Fault Refusal :=
  issue (.f 0x56 w) s fun s t =>
    let (v, flags) : Int × BitVec 5 := match (fmtOf w.ty).read (floatLane w.ty (srcFloat s t w.ty w.a) 0) with
      | .nan sg => (0x7FFFFFFF, if sg then flagNV else 0)
      | .inf _ => (0x7FFFFFFF, 0)
      | .fin _ m e => if m = 0 then (0x80000000, 0) else (e + (bitLen m : Int) - 1, 0)
    .go s ((t.setReg w.d.toNat (BitVec.ofInt 32 v)).raise flags)

/-- hadd2 (R133). -/
def execHadd2 (w : FWord) (s : State) : Host.Outcome State Fault Refusal :=
  floatOp 0x57 w s fun ft x y _ => addRes ft (wordRnd w) (ft.read x) (ft.read y)

/-- hmul2 (R133). -/
def execHmul2 (w : FWord) (s : State) : Host.Outcome State Fault Refusal :=
  floatOp 0x58 w s fun ft x y _ => mulRes ft (wordRnd w) (ft.read x) (ft.read y)

/-- hfma2 (R133). -/
def execHfma2 (w : FWord) (s : State) : Host.Outcome State Fault Refusal :=
  floatOp 0x59 w s fun ft x y z => fmaRes ft (wordRnd w) (ft.read x) (ft.read y) (ft.read z)

/-- Infinities of both signs are among some values. -/
def mixedInf (l : List FVal) : Bool := l.any (· == .inf false) && l.any (· == .inf true)

/-- The dot product of two lanes with an addend, rounded once: a zero times an infinity, and infinities of both signs, set NV whatever
else is a NaN (R134). -/
def dot2Res (md : Rnd) (x0 y0 x1 y1 z : FVal) : FRes :=
  let bad := [x0, y0, x1, y1, z]
  match prodVal x0 y0, prodVal x1 y1 with
  | some p0, some p1 =>
    if mixedInf [p0, p1, z] then invalidRes .f32
    else if bad.any FVal.isNan then nanRes .f32 (snanFlag bad) else sumRes .f32 md [p0, p1, z]
  | _, _ => invalidRes .f32

/-- fdot2 (R134). -/
def execFdot2 (w : FWord) (s : State) : Host.Outcome State Fault Refusal :=
  issue (.f 0x5A w) s fun s t =>
    let ft := fmtOf w.ty
    let a := src32 s t w.a
    let b := src32 s t w.b
    let x := fun l => ft.read (laneA w w.ty a l)
    let y := fun l => ft.read (floatLane w.ty b l)
    let r := satRes .f32 (wordSat w) (dot2Res (wordRnd w) (x 0) (y 0) (x 1) (y 1) (Fmt.f32.read (src32 s t w.c)))
    .go s ((t.setReg w.d.toNat (BitVec.ofNat 32 r.bits)).raise r.flags)

/-- The QN4 codebook as bfloat16 patterns (R121). -/
def codebook : List Nat :=
  [0xBF80, 0xBF32, 0xBF06, 0xBECA, 0xBE92, 0xBE3C, 0xBDB8, 0x0000,
   0x3DA0, 0x3E24, 0x3E7C, 0x3EAD, 0x3EE2, 0x3F10, 0x3F39, 0x3F80]

/-- The value of a QN4 code (R121). -/
def codeVal (c : Nat) : FVal := Fmt.bf16.read (codebook.getD c 0)

/-- qdeq (R146): codes in a, selector in b, an f32 scale in c. -/
def execQdeq (w : FWord) (s : State) : Host.Outcome State Fault Refusal :=
  issue (.f 0x5B w) s fun s t =>
    let ft := fmtOf w.ty
    let a := src32 s t w.a
    let b := src32 s t w.b
    let sc := Fmt.f32.read (src32 s t w.c)
    let code := fun l => if w.ty = 0 then b % 8 else 2 * (b % 4) + l
    .go s (t.setFloat w.ty w.d.toNat (fun l => satRes ft (wordSat w) (mulRes ft (wordRnd w) (codeVal (a / 16 ^ code l % 16)) sc)))

end Sys2Proof.Machine
end

