-- ==== Sys2Proof/Machine/MatrixMath.lean ====
section
/-!
DEFINITION. What the matrix engine computes (12 R297 to R305): weight images, their decryption, exact sums,
roundings, elements, cycles.
-/

namespace Sys2Proof.Machine

/-! ## Weight images (R298, R299) -/

/-- Eight bytes, most significant first. -/
def bigBytes (v : Nat) : List Byte := (natBytes 8 v).reverse

/-- Bytes as a number, most significant first. -/
def bigNat (bs : List Byte) : Nat := bytesNat bs.reverse

/-- The key stream of one 16-byte unit of an image (R299): the counter is the unit's distance from the model's base, which wraps. -/
def streamBlock (k : KeySlot) (addr o : Nat) : List Byte :=
  let ctr := wrapNat ((((addr + o : Nat) : Int) - k.base.toNat) / 16) 64
  (natBytes 16 (Config.aes256 k.key (BitVec.ofNat 128 (bigNat (bigBytes k.nonce.toNat ++ bigBytes ctr)))).toNat).reverse

/-- An image decrypted (R299): only the bytes the image has. -/
def decryptImage (k : KeySlot) (addr len : Nat) (bs : List Byte) : List Byte :=
  let stream := (List.range ((len + 15) / 16)).flatMap (fun u => streamBlock k addr (16 * u))
  bs.mapIdx (fun i b => if i < len then b ^^^ stream.getD i 0 else b)

/-- The code at element k of a packed run of QN4 codes (R122). -/
def nibble (bs : List Byte) (k : Nat) : Nat := (bs.getD (k / 2) 0).toNat / 2 ^ (4 * (k % 2)) % 16

/-- An element of b bytes, or a code. -/
def packed (qn4 : Bool) (eb : Nat) (bs : List Byte) (k : Nat) : Nat :=
  if qn4 then nibble bs k else bytesNat ((bs.drop (k * eb)).take eb)

/-- A column of a dense image (R298). -/
def denseColumn (qn4 : Bool) (eb kk : Nat) (bs : List Byte) (j : Nat) : List (Option Nat) :=
  let col := if qn4 then (bs.drop (j * 32)).take 32 else (bs.drop (j * kk * eb)).take (kk * eb)
  (List.range kk).map (fun k => some (packed qn4 eb col k))

/-- The metadata of a sparse image: live vectors, 2:4 mode, index words. -/
structure SparseMeta where
  live : List Nat
  two : Bool
  index : List Nat
  deriving DecidableEq, Repr

/-- Reads the metadata of a sparse image. -/
def readMeta (bs : List Byte) : SparseMeta :=
  let map := blockNat bs 0 16
  { live := (List.range 128).filter (fun v => map.testBit v), two := blockNat bs 16 1 % 2 == 1
    index := (List.range 128).map (fun v => blockNat bs (32 + 2 * v) 2) }

/-- The bytes of one live vector. -/
def vectorBytes (qn4 : Bool) (eb : Nat) (two : Bool) : Nat :=
  let n := if two then 8 else 16
  if qn4 then n / 2 else n * eb

/-- The kept positions of a vector's 16 elements, ascending (R298). -/
def keptOf (two : Bool) (index : Nat) : List Nat :=
  if two then (List.range 4).flatMap (fun g => [4 * g + index / 2 ^ (4 * g) % 4, 4 * g + index / 2 ^ (4 * g + 2) % 4])
  else List.range 16

/-- Valid metadata whose live values the image holds (R298, R310). -/
def metaOk (qn4 : Bool) (eb kk len : Nat) (bs : List Byte) : Bool :=
  let m := readMeta bs
  blockNat bs 0 16 < 2 ^ (2 * kk) && blockNat bs 16 1 < 2 && blockNat bs 17 15 == 0
    && 288 + m.live.length * vectorBytes qn4 eb m.two ≤ len
    && (!m.two || m.live.all (fun v => (List.range 4).all (fun g =>
        let w := m.index.getD v 0
        w / 2 ^ (4 * g) % 4 < w / 2 ^ (4 * g + 2) % 4)))

/-- A column of a sparse image: skipped elements are none. -/
def sparseColumn (qn4 : Bool) (eb kk : Nat) (bs : List Byte) (j : Nat) : List (Option Nat) :=
  let m := readMeta bs
  (List.range (kk / 16)).flatMap (fun sl =>
    let v := 32 * sl + j
    match m.live.idxOf? v with
    | none => List.replicate 16 none
    | some pos =>
      let vec := bs.drop (288 + pos * vectorBytes qn4 eb m.two)
      let kept := keptOf m.two (m.index.getD v 0)
      (List.range 16).map (fun k => (kept.idxOf? k).map (packed qn4 eb vec)))

/-! ## Sums (R302) -/

/-- An exact sum: a finite value v 2^e, an infinity, or a NaN. -/
inductive Sum302 where
  | fin (v : Int) (e : Int)
  | inf (neg : Bool)
  | nan
  deriving DecidableEq, Repr

/-- A sum, with the flags of its products (R126, R127). -/
def exact302 (ps : List (FVal × FVal)) : Sum302 × BitVec 5 :=
  let pr := ps.map (fun p => prodVal p.1 p.2)
  let bad := pr.any (·.isNone)
  let vals := pr.filterMap id
  let sn := if ps.any (fun p => p.1.isSnan || p.2.isSnan) || bad then flagNV else 0
  let infs := vals.filterMap (fun v => match v with
    | .inf n => some n
    | .fin _ _ _ => none
    | .nan _ => none)
  if bad || vals.any FVal.isNan then (.nan, sn)
  else match infs with
    | n :: rest => if rest.all (· == n) then (.inf n, sn) else (.nan, sn ||| flagNV)
    | [] => let ts := finTerms vals; (.fin (exactSum ts) (lowExp ts), sn)

/-- A rounded value with its flags, and whether it was tiny (R125, R304). -/
structure Round302 where
  bits : Nat
  flags : BitVec 5
  tiny : Bool
  deriving DecidableEq, Repr

/-- Rounds an exact value to nearest; an exact zero is +0 (R302). -/
def roundExact (f : Fmt) (v : Int) (e : Int) : Round302 :=
  if v = 0 then { bits := f.zero false, flags := 0, tiny := false }
  else
    let r := roundMag f .rn (decide (v < 0)) v.natAbs e false
    { bits := r.bits, flags := r.flags, tiny := isTiny f v.natAbs e false }

/-- Rounds a sum. -/
def round302 (f : Fmt) : Sum302 × BitVec 5 → Round302
  | (.fin v e, fl) => let r := roundExact f v e; { r with flags := r.flags ||| fl }
  | (.inf n, fl) => { bits := f.infinity n, flags := fl, tiny := false }
  | (.nan, fl) => { bits := f.nan, flags := fl, tiny := false }

/-- acc + r, rounded to nearest; an exact zero sum is +0 (R302). -/
def add302 (f : Fmt) (acc r : Nat) : Round302 :=
  match f.read acc, f.read r with
  | .fin a m e, .fin b n k =>
    let ts := [(a, m, e), (b, n, k)]
    roundExact f (exactSum ts) (lowExp ts)
  | x, y => let z := addRes f .rn x y; { bits := z.bits, flags := z.flags, tiny := false }

/-- round(v × u / 256 × super) (R123, R302). -/
def scaled302 (v : Sum302 × BitVec 5) (u : Nat) (super : FVal) : Round302 :=
  let x : FVal := match v.1 with
    | .fin k e => .fin (decide (k < 0)) (k.natAbs * u) (e - 8)
    | .inf n => .inf n
    | .nan => .nan false
  round302 .f32 (let y := exact302 [(x, super)]; (y.1, y.2 ||| v.2))

/-! ## An element (R302) -/

/-- An element's value, flags, and the steps in which a rounding was tiny. -/
structure Elem where
  bits : Nat
  flags : BitVec 5
  tiny : List Nat
  deriving DecidableEq, Repr

/-- One rounding joins an element. -/
def Elem.add (f : Fmt) (step : Nat) (x : Elem) (r : Round302) : Elem :=
  let a := add302 f x.bits r.bits
  { bits := a.bits, flags := x.flags ||| r.flags ||| a.flags, tiny := if r.tiny || a.tiny then setAdd x.tiny step else x.tiny }

/-- Chunks of h of a list. -/
def chunksOf {α : Type} (h : Nat) : Nat → List α → List (List α)
  | 0, _ => []
  | n + 1, l => l.take h :: chunksOf h n (l.drop h)

/-- The values of a column's elements: a skipped one is an exact 0 whatever A holds. -/
def pairsOf (row : List FVal) (col : List (Option FVal)) : List (FVal × FVal) :=
  (row.zip col).filterMap (fun p => p.2.map (fun b => (p.1, b)))

/-- One step of an element of a rounding combination with chunks of h. -/
def floatStep (f : Fmt) (h step : Nat) (x : Elem) (row : List FVal) (col : List (Option FVal)) : Elem :=
  let n := row.length / h
  ((chunksOf h n row).zip (chunksOf h n col)).foldl (fun x c => x.add f step (round302 f (exact302 (pairsOf c.1 c.2)))) x

/-- One step of a QN4 element. -/
def qn4Step (step : Nat) (x : Elem) (row : List FVal) (col : List (Option FVal)) (u : Nat) (super : FVal) : Elem :=
  if u = 0 then x else x.add .f32 step (scaled302 (exact302 (pairsOf row col)) u super)

/-- One step of an integer element. -/
def intStep (acc : Nat) (row : List Int) (col : List (Option Int)) : Nat :=
  wrapNat ((row.zip col).foldl (fun v p => v + p.1 * p.2.getD 0) (acc : Int)) 32

/-- The chunk size h of a combination, by its A format (R297). -/
def chunkSize (a : Nat) : Nat := match a with | 2 => 2 | 3 => 1 | _ => 8

/-- The floating-point format of a code (R297). -/
def floatOf (code : Nat) : Fmt := match code with | 0 => .bf16 | 1 => .f16 | 2 => .f32 | _ => .f64

/-- The signed or unsigned value of a byte (R297). -/
def intOf (code v : Nat) : Int := if code = 4 then sextNat v 8 else (v : Int)

/-- Twice the cycles of a live slab (R297). -/
def slabCycles (a b : Nat) (two : Bool) : Nat :=
  let n := if b = 6 then 1 else match a with | 0 => 2 | 1 => 2 | 2 => 8 | 3 => 32 | _ => 1
  if two then n else 2 * n

end Sys2Proof.Machine
end

