-- ==== Sys2Proof/Machine/Monitor.lean ====
section
/-!
DEFINITION. Address monitors and prefetch: `wadr`, `wake`, `pf` (09 R234 to R238).
-/

namespace Sys2Proof.Machine

/-- The effective address of `wadr`, `wake` and `pf`: the index scaled by a width (R234, R238). -/
def monitorEa (w : XWord) (t : Thread) (scale : Nat) : Int :=
  ((t.quad w.a.toNat).cursor : Int) + sextNat (indexOf w t 9).toNat 32 * (scale : Int)

/-- What `wadr` and `wake` share: the checks of a load of n bytes with LD and AT, translation, and parking on
an absent page (R234). -/
def monitorWord (w : XWord) (s : State) (t : Thread) (scale n : Nat) (k : State → Loc → Act) : Act :=
  let x := t.quad w.a.toNat
  let ea := monitorEa w t scale
  if decide (0 ≤ ea) && s.onLogPage t x.space ea.toNat then logStop s t .secondFault
  else match pageRefused t ea with
  | some a => a
  | none => match s.deref t x { need := permLD + permAT, ea := ea, n := n, al := n, lacks := false, column := false } with
  | some c => .fault c (faddr ea)
  | none =>
    if s.watched t x.space (s.remapped t x.space ea.toNat) n true false then s.watchStop t ea
    else match s.land t x.space ea.toNat .read with
      | .bad c m => s.landFault t x.space ea c m
      | .absent va => s.awaitPage t (va / 65536) kindRead
      | .ok l => k (s.touched t x.space ea.toNat) l

/-- The granule of a place that a monitor can watch: none in peer memory. -/
def granuleOf : Loc → Option Granule
  | .hbm pa _ _ => some (.hbm (pa / 16))
  | .sram cu off => some (.sram cu (off / 16))
  | .peer _ _ => none

/-- A cluster's monitor table holds 128 entries (R235). -/
def monitorCapacity : Nat := 128

/-- The monitor table of a cluster. -/
def State.monitorTable (s : State) (cl : Nat) : List MonEntry := s.monitors.getD cl []

/-- A thread arms the entry of a granule (R235). -/
def State.arm (s : State) (cl : Nat) (g : Granule) (id : TId) : State :=
  { s with monitors := modAt s.monitors cl (fun es =>
      if es.any (·.granule == g) then modWhere es (·.granule == g) (fun e => { e with watchers := e.watchers ++ [id] })
      else es ++ [{ granule := g, watchers := [id] }]) }

/-- Whether an entry for a granule exists or is free. -/
def State.canArm (s : State) (cl : Nat) (g : Granule) : Bool :=
  let es := s.monitorTable cl
  es.any (·.granule == g) || es.length < monitorCapacity

/-- After the read of `wadr`: asleep while the value is the expected one, else on with 1 (R235). -/
def wadrRead (w : XWord) (s : State) (t : Thread) (g : Granule) (bytes : List Byte) : Act :=
  let expected := if w.bit 5 then (t.pair w.c.toNat).toNat else (t.reg w.c.toNat).toNat
  let limit := w.bits 4 0
  if bytesNat bytes != expected then .go s (t.setReg w.d.toNat 1)
  else
    .park (s.arm (clusterOf t.cu) g t.id) t (.monitor w.d.toNat (if limit = 0 then none else some (s.now t.cu + 2 ^ (limit + 3))))

/-- wadr (R235). The read of an HBM granule is of the writes performed with respect to the thread; every later
one wakes it. -/
def execWadr (w : XWord) (s : State) : Host.Outcome State Fault Refusal :=
  issue (.x 0x087 w) s fun s t =>
    let n := if w.bit 5 then 8 else 4
    let space := (t.quad w.a.toNat).space
    monitorWord w s t n n fun s l =>
      match granuleOf l with
      | none => .go s (t.setReg w.d.toNat 2)
      | some g =>
        if space == spcPeer || space == spcPrivate || !s.canArm (clusterOf t.cu) g then .go s (t.setReg w.d.toNat 2)
        else match l with
          | .sram _ _ =>
            if s.ownFlight t then s.holdFor t t.ownFlight
            else
              let (s, t) := s.readBy t none t.sees l.key n
              wadrRead w s t g (s.seenBytes t.sees l.key n)
          | .peer _ _ => .go s (t.setReg w.d.toNat 2)
          | .hbm pa kind _ =>
            if kind == .so && !s.orderMet t 5 false then .hold s t (.order 5 false)
            else if s.acquireHolds t kind || s.ownFlightOver t pa n then s.holdFor t (fun f => t.acquireOut kind f || t.flightOver pa n f)
            else if s.sliceHeld l then s.holdAgain t
            else
              let s0 := (s.settleFrame pa).chargeRead t.ctx.part pa n
              let (bad, s) := s0.readSeen t.sees false pa n
              if bad then (if s0.anyPoison pa n then s.countPoisoned pa else s).badRead t pa n (faddr (monitorEa w t n))
              else
                let (s, t) := s.readBy t (if kind == .so then some 5 else none) t.sees pa n
                wadrRead w s t g (s.seenBytes t.sees pa n)

/-- The clusters of a partition in logical order. -/
def Partition.clusters (p : Partition) : List Nat := p.map.flatMap (fun n => [3 * n, 3 * n + 1, 3 * n + 2])

/-- The watchers of a granule in a partition's clusters, in the order of R237. -/
def State.watchersIn (s : State) (p : Partition) (g : Granule) : List TId :=
  p.clusters.flatMap (fun cl => ((s.monitorTable cl).filter (·.granule == g)).flatMap (·.watchers))

/-- wake (R237). -/
def execWake (w : XWord) (s : State) : Host.Outcome State Fault Refusal :=
  issue (.x 0x088 w) s fun s t =>
    monitorWord w s t 1 1 fun s l =>
      match granuleOf l with
      | none => .go s (t.setReg w.d.toNat 0)
      | some g =>
        let k := (t.reg w.c.toNat).toNat
        let all := (s.watchersIn (s.part t.ctx.part) g).filter (fun id =>
          ((s.thread id).map (fun u => u.ctx.part == t.ctx.part)).getD false)
        let ids := if k = 0 then all else all.take k
        .go (ids.foldl (fun s id => s.wakeThread id 0) (s.unwatch (fun h id => h == g && ids.contains id)))
          (t.setReg w.d.toNat (BitVec.ofNat 32 ids.length))

/-- A line is fetched whole for a partition, into its home L2. -/
def State.fetchLine (s : State) (part pa : Nat) : State := s.chargeRead part (lineOf pa * 128) 128

/-- pf (R238): the line is brought into L1 or into the home slice's L2 when the access could be made; nothing
else happens in any case. -/
def execPf (w : XWord) (s : State) : Host.Outcome State Fault Refusal :=
  issue (.x 0x08B w) s fun s t =>
    let x := t.quad w.a.toNat
    let ea := monitorEa w t (if w.bit 4 then 2 ^ x.esize else 1)
    if decide (0 ≤ ea) && s.onLogPage t x.space ea.toNat then .go s t
    else match s.deref t x { need := permLD, ea := ea, n := 1, al := 1, lacks := false, column := false } with
    | some _ => .go s t
    | none => match s.land t x.space ea.toNat .read with
      | .ok (.hbm pa _ _) =>
        if s.underReset pa then .go s t
        else
          let s := (s.touched t x.space ea.toNat).fetchLine t.ctx.part pa
          .go (if w.bits 1 0 = 0 then s.fillL1 t.cu (lineOf pa) (requestGrains 0 128) false else s) t
      | _ => .go s t

end Sys2Proof.Machine
end

