-- ==== Sys2Proof/Machine/MatrixRun.lean ====
section
/-!
DEFINITION. The matrix engine at work (12 R302 to R316): fills, multiplications, assists, stores, zeroing,
reservations; first-use traps (R306; 24 R449); the port's key cache (15 R370).
-/

namespace Sys2Proof.Machine

/-! ## The head of a matrix queue -/

/-- The tiles an operation uses. -/
def EngineOp.tiles (o : EngineOp) : List Nat :=
  match o with
  | .mmo _ _ bs => let p := readBlock bs; tilePair (p.c == 3) p.acc
  | .mst _ f i _ => tilePair (f == 3) i
  | .mzro m => (List.range 16).filter (fun i => m.getLsbD i)
  | _ => []

/-- The head operation of a matrix queue that may go on: no page, no assist, no foreign tile. -/
def State.matrixHead (s : State) (c : CtxId) (cu : Nat) : Option (EngineEntry × Thread) :=
  (s.headOf c cu 4).filter (fun x => !x.1.assist && !x.1.op.tiles.any (fun i => s.tileForeign cu i c))

/-- The head begins: a revoked capability ends it (R288), else `f` performs it. -/
def matrixStep (c : CtxId) (cu : Nat) (s : State) (is : EngineOp → Bool) (f : EngineEntry → Thread → State) :
    Host.Outcome State Fault Refusal :=
  match s.matrixHead c cu with
  | none => .next s
  | some (e, t) =>
    if !is e.op then .next s
    else match s.opRevoked c e with
      | some r => .next (s.endHead c cu 4 e (some r))
      | none => .next (f e t)

/-- A context takes the tiles of an operation that nobody else owns (R449). -/
def State.ownTiles (s : State) (c : CtxId) (cu : Nat) (is : List Nat) (load : Bool) : State :=
  is.foldl (fun s i => s.ownTile cu i c load) s

/-- FIRST_USE_TRAP (R306): a tile's owner gives way to the context that has come to it. -/
def execFirstUseTrap (c : CtxId) (cu tile : Nat) (s : State) : Host.Outcome State Fault Refusal :=
  let head := ((s.queue c cu 4).head?).filter (fun e => e.op.tiles.contains tile)
  let held := s.threads.any (fun t => t.ctx == c && t.cu == cu && match t.run with
    | .train (some { cond := .tile i _, .. }) => i == tile
    | .parked (.late (.tile i _)) _ => i == tile
    | _ => false)
  let zeroing := match head.map (·.op) with
    | some (.mzro _) => true
    | _ => false
  match (s.tile cu tile).owner with
  | none => .next s
  | some o =>
    let busy := ((s.queue o cu 4).head?).any (fun e => e.begun && e.op.tiles.contains tile)
    if o == c || busy || !(head.isSome || held) || !s.issues c then .next s
    else
      let old := s.tile cu tile
      let s := s.modContext o (fun (x : Context) => { x with
        tileMap := x.tileMap ||| (1#16 <<< tile)
        spilled := { tile := tile, data := old.data, flags := old.flags } :: x.spilled.filter (·.tile != tile) })
      let (rec?, s) := s.takeSaved c tile
      let fresh : Tile := match rec?, zeroing with
        | some r, false => { owner := some c, flags := r.flags, data := r.data }
        | _, _ => { owner := some c, flags := 0, data := [] }
      .next ((s.modTile cu tile (fun _ => fresh)).perf c cu 0x0D 1).wakeMet

/-! ## Fills (R309) -/

/-- The image of a fill, read piece by piece. -/
def State.readImage (s : State) (t : Thread) (cu : Nat) (x : Cap) : List (Nat × Nat) → List Byte → Eng (List Byte)
  | [], acc => .ok acc s
  | (ea, n) :: ps, acc => match s.engineLand t x.space ea .read with
    | .ok l s => match s.engineReadAt t cu 4 l n ea false with
      | .ok (bs, _) s => s.readImage t cu x ps (acc ++ bs)
      | .absent va s => .absent va s
      | .bad c a s => .bad c a s
      | .wait s => .wait s
      | .rolled s => .rolled s
    | .absent va s => .absent va s
    | .bad c a s => .bad c a s
    | .wait s => .wait s
    | .rolled s => .rolled s

/-- A range cut at multiples of 256, so that no piece crosses a page. -/
def cut256 : Nat → Nat → Nat → List (Nat × Nat)
  | 0, _, _ => []
  | _, _, 0 => []
  | k + 1, ea, n =>
    let m := min n (256 - ea % 256)
    (ea, m) :: cut256 k (ea + m) (n - m)

/-- Whether the page under an address carries the weight bit. -/
def State.weightPage (s : State) (t : Thread) (space ea : Nat) : Bool :=
  match s.gva t space (s.remapped t space ea) with
  | some va => match s.xlateBy (some t.cu) t.ctx.part va .read with
    | .ok _ e _ => entryWB e
    | .absent => false
    | .bad _ _ => false
  | none => false

/-- The catalogue entries of the models that hold a frame, by slice and number: a model stands in the catalogue of the slice whose stack
holds its frames (R371). -/
def State.modelAt (s : State) (pa : Nat) : List (Nat × Nat) :=
  let n := sliceOfPa pa
  ((List.range 16).filter (fun k =>
    let e := (s.slice n).cat.getD k CatEntry.reset
    e.state == 1 && e.list.contains (pa / 65536))).map (fun k => (n, k))

/-- The physical address under an address of a thread's, if it has one. -/
def State.placeOf (s : State) (t : Thread) (space ea : Nat) : Option Nat :=
  match s.land t space ea .read with
  | .ok (.hbm pa _ _) => some pa
  | .ok (.sram _ _) => none
  | .ok (.peer _ _) => none
  | .bad _ _ => none
  | .absent _ => none

/-- Changes a catalogue entry. -/
def State.modCat (s : State) (slice k : Nat) (f : CatEntry → CatEntry) : State :=
  s.modSlice slice (fun c => { c with cat := modAt c.cat k f })

/-- Changes a weight slot of a CU. -/
def State.modSlot (s : State) (cu n : Nat) (f : WSlot → WSlot) : State := s.modCu cu (fun c => { c with wslots := modAt c.wslots n f })

/-- WFILL_PERFORM (R309). -/
def execWfillPerform (c : CtxId) (cu : Nat) (s : State) : Host.Outcome State Fault Refusal :=
  matrixStep c cu s (fun o => match o with | .wfill _ _ _ _ => true | _ => false) fun e t =>
    match e.op with
    | .wfill slot (.mem x ea) len sparse =>
      let n := (s.allot c cu).1 + slot
      if s.soAccess t x.space ea len .read && s.soHeld e then s
      else match s.readImage t cu x (cut256 (len / 16 + 2) ea len) [] with
      | .ok bs s =>
        let first := s.weightPage t x.space ea
        let last := s.weightPage t x.space (ea + len - 1)
        if first != last then s.endHead c cu 4 e (some (.pagePerm, BitVec.ofNat 64 ea))
        else
          let s := s.modSlot cu n (fun _ =>
            { valid := true, sparse := sparse, cipher := first, addr := BitVec.ofNat 64 ea, len := len, bytes := memWriteN [] 0 bs })
          let s := (if first then ((s.placeOf t x.space ea).map s.modelAt).getD [] else []).foldl (fun s k =>
            s.modCat k.1 k.2 (fun x => { x with uses := x.uses + 1 })) s
          (s.spend c cu).endHead c cu 4 e none
      | .absent va s => s.holdHead c cu 4 e va kindRead
      | .bad k a s => s.endHead c cu 4 e (some (k, BitVec.ofNat 64 a))
      | .wait s => s.putHead c cu 4 { e with begun := true }
      | .rolled s => s
    | _ => s

/-! ## Keys (R369, R370) -/

/-- The physical slice and the entry a key-slot byte names, if its key is live (R369, R372). -/
def State.liveKey (s : State) (part byte : Nat) : Option (Nat × Nat) :=
  let p := s.part part
  let l := byte / 16
  let k := byte % 16
  match p.map[l]? with
  | none => none
  | some n =>
    let e := (s.slice n).cat.getD k CatEntry.reset
    if (e.state == 1 || e.state == 2) && (s.part e.part).tenant == p.tenant && ((s.slice n).keys.getD k KeySlot.reset).filled then
      some (n, k)
    else none

/-- KEY_CACHE_FILL (R370): the Curator fills an entry of a port's cache, with a key that a context on its CU may use. A full cache gives up
the entry filled longest ago; which one it is, the spec leaves open (DESIGN CHOICE, log entry 88). -/
def execKeyCacheFill (cu slice entry : Nat) (s : State) : Host.Outcome State Fault Refusal :=
  let e := (s.slice slice).cat.getD entry CatEntry.reset
  let here := (List.range 16).any (fun p => (s.part p).state != 0 && (s.part p).tenant == (s.part e.part).tenant
    && (s.part p).map.contains (sliceOf cu) && (s.part p).map.contains slice)
  if (e.state == 1 || e.state == 2) && here && ((s.slice slice).keys.getD entry KeySlot.reset).filled then
    .next (s.modCu cu (fun k => { k with keyCache := if k.keyCache.contains (slice, entry) then k.keyCache else ((slice, entry) :: k.keyCache).take 8 }))
  else .next s

/-! ## Multiplication (R302, R310) -/

/-- The bytes of a slot. -/
def WSlot.image (w : WSlot) : List Byte := memReadN w.bytes 0 4384

/-- The physical slot of a step (R301). -/
def State.slotOfStep (s : State) (c : CtxId) (cu : Nat) (p : MmoBlock) (step : Nat) : WSlot :=
  let a := s.allot c cu
  (s.cu cu).wslots.getD (a.1 + (p.slot + step) % max a.2 1) WSlot.reset

/-- The slots an operation uses, each once. -/
def stepsOnce (p : MmoBlock) (m : Nat) : List Nat := List.range (min p.n (max m 1))

/-- A slot's image as the port sees it. -/
def State.portImage (s : State) (key : Option (Nat × Nat)) (w : WSlot) : List Byte :=
  match w.cipher, key with
  | true, some (n, k) => decryptImage ((s.slice n).keys.getD k KeySlot.reset) w.addr.toNat w.len w.image
  | _, _ => w.image

/-- The checks of R310 on the slots. Of several that fail, which R310 leaves open, it is the first of: a slot invalid or of the other
sparseness, a cipher bit or key, the metadata, which the port can read only with the key (DESIGN CHOICE, log entry 73). -/
def State.slotFault (s : State) (c : CtxId) (cu : Nat) (p : MmoBlock) : Option FClass :=
  let ws := (stepsOnce p (s.allot c cu).2).map (s.slotOfStep c cu p)
  let key := if p.flags.testBit 2 then s.liveKey c.part p.key else none
  let qn4 := p.b == 6
  if ws.any (fun w => !w.valid || w.sparse != p.flags.testBit 1) then some .queue
  else if ws.any (fun w => w.cipher != p.flags.testBit 2) || (p.flags.testBit 2 && key.isNone) then some .perm
  else if ws.any (fun w => w.sparse && !metaOk qn4 (fmtBytes p.b) (stepK p.a) w.len (s.portImage key w)) then some .queue
  else none

/-- The key an operation needs is missing from the port's cache (R370). -/
def State.keyMissing (s : State) (c : CtxId) (cu : Nat) (p : MmoBlock) : Option (Nat × Nat) :=
  if p.flags.testBit 2 then (s.liveKey c.part p.key).filter (fun k => !(s.cu cu).keyCache.contains k) else none

/-- The columns of a step's weights. -/
def State.stepColumns (s : State) (c : CtxId) (cu : Nat) (p : MmoBlock) (step : Nat) : List (List (Option Nat)) :=
  let w := s.slotOfStep c cu p step
  let key := if p.flags.testBit 2 then s.liveKey c.part p.key else none
  let img := s.portImage key w
  let qn4 := p.b == 6
  (List.range 32).map (fun j =>
    if w.sparse then sparseColumn qn4 (fmtBytes p.b) (stepK p.a) img j else denseColumn qn4 (fmtBytes p.b) (stepK p.a) img j)

/-- The bytes of a row of A in a step (R301). -/
def State.rowBytes (s : State) (t : Thread) (cu : Nat) (p : MmoBlock) (step i : Nat) : List Byte :=
  let n := stepK p.a * fmtBytes p.a
  memReadN (s.cu cu).ob (s.obByte t (refNum p.aRef) (refOff p.aRef + i * p.stride + step * n)) n

/-- The elements of a row. -/
def rowElems (p : MmoBlock) (bs : List Byte) : List Nat := (List.range (stepK p.a)).map (packed false (fmtBytes p.a) bs)

/-- The scale byte of a step and a column. -/
def State.scaleByte (s : State) (t : Thread) (cu : Nat) (p : MmoBlock) (step j : Nat) : Nat :=
  (memRead (s.cu cu).ob (s.obByte t (refNum p.scale) (refOff p.scale + 32 * step + j))).toNat

/-- The super scale of a column. -/
def State.superOf (s : State) (t : Thread) (cu : Nat) (p : MmoBlock) (j : Nat) : FVal :=
  Fmt.f32.read (memNat (s.cu cu).ob (s.obByte t (refNum p.super) (refOff p.super + 4 * j)) 4)

/-- One row of the tile through one step. -/
def stepRow (p : MmoBlock) (step : Nat) (row : List Nat) (cols : List (List (Option Nat))) (scales : List Nat) (supers : List FVal)
    (xs : List Elem) : List Elem :=
  let fa := floatOf p.a
  let frow := row.map fa.read
  xs.mapIdx (fun j x =>
    let col := cols.getD j []
    if p.c = 7 then { x with bits := intStep x.bits (row.map (intOf p.a)) (col.map (fun v => v.map (intOf p.b))) }
    else if p.b = 6 then qn4Step step x frow (col.map (fun v => v.map codeVal)) (scales.getD j 0) (supers.getD j (.fin false 0 0))
    else floatStep (floatOf p.c) (chunkSize p.a) step x frow (col.map (fun v => v.map (floatOf p.b).read)))

/-- Element (r, c) of the tile or pair an operation starts from. -/
def State.startElem (s : State) (cu : Nat) (p : MmoBlock) (r c : Nat) : Nat :=
  if p.flags.testBit 0 then 0
  else if p.c = 3 then (s.tile cu p.acc).el r c + 2 ^ 32 * (s.tile cu (p.acc + 1)).el r c
  else (s.tile cu p.acc).el r c

/-- Every NaN written is the canonical one, also where every block was skipped (R302). -/
def canonical (c v : Nat) : Nat :=
  if c = 7 then v
  else match (floatOf c).read v with
    | .nan _ => (floatOf c).nan
    | .inf _ => v
    | .fin _ _ _ => v

/-- The whole computation of R302: 32 rows of 32 elements. -/
def State.product (s : State) (t : Thread) (c : CtxId) (cu : Nat) (p : MmoBlock) : List (List Elem) :=
  let supers := if p.b = 6 then (List.range 32).map (s.superOf t cu p) else []
  let start := (List.range 32).map (fun r => (List.range 32).map (fun k => ({ bits := s.startElem cu p r k, flags := 0, tiny := [] } : Elem)))
  let rows := (List.range p.n).foldl (fun rows step =>
    let cols := s.stepColumns c cu p step
    let scales := if p.b = 6 then (List.range 32).map (s.scaleByte t cu p step) else []
    rows.mapIdx (fun i xs => stepRow p step (rowElems p (s.rowBytes t cu p step i)) cols scales supers xs)) start
  rows.map (fun xs => xs.map (fun x => { x with bits := canonical p.c x.bits }))

/-- A tile's memory from its elements' words. -/
def tileMem (words : List Nat) : Mem := memWriteN [] 0 (words.flatMap (fun w => natBytes 4 w))

/-- Writes an operation's tile, or pair, with its flags (R297, R302, R303). Both tiles of a pair take them: R303 does not say which one does
(DESIGN CHOICE, log entry 74). -/
def State.putTile (s : State) (cu : Nat) (p : MmoBlock) (vals : List Nat) (flags : BitVec 5) : State :=
  let base := fun (t : Tile) => if p.flags.testBit 0 then 0#5 else t.flags
  let s := s.modTile cu p.acc (fun t => { t with data := tileMem (vals.map (· % 2 ^ 32)), flags := base t ||| flags })
  if p.c = 3 then s.modTile cu (p.acc + 1) (fun t => { t with data := tileMem (vals.map (· / 2 ^ 32)), flags := base t ||| flags })
  else s

/-- The canonical NaN of C's width (R305). -/
def residueNan (c : Nat) : Nat := if c = 3 then Fmt.f64.nan else Fmt.f32.nan

/-- The cycles of an operation, doubled per slab and rounded up once (R310). -/
def State.mmoCycles (s : State) (t : Thread) (c : CtxId) (cu : Nat) (p : MmoBlock) : Nat :=
  let half := (List.range p.n).foldl (fun acc step =>
    let w := s.slotOfStep c cu p step
    let key := if p.flags.testBit 2 then s.liveKey c.part p.key else none
    let zero := p.b == 6 && (List.range 32).all (fun j => s.scaleByte t cu p step j == 0)
    if zero then acc
    else if w.sparse then
      let m := readMeta (s.portImage key w)
      acc + ((List.range (stepK p.a / 16)).filter (fun sl => m.live.any (fun v => v / 32 == sl))).length * slabCycles p.a p.b m.two
    else acc + stepK p.a / 16 * slabCycles p.a p.b false) 0
  24 + (half + 1) / 2

/-- An upset the environment has laid on a CU's buffers or, for a multiplication's step sums, on its cells, spent by the operation that
meets it (R305). -/
def State.engineUpset (s : State) (cu : Nat) (sums : Bool) : Option FClass × State :=
  if s.upsets.buffer.contains cu then (some .uncorrectable, { s with upsets := { s.upsets with buffer := s.upsets.buffer.erase cu } })
  else if sums && s.upsets.residue.contains cu then
    let s := s.modSlice (sliceOf cu) (fun c => { c with events := { c.events with soft := c.events.soft + 1 } })
    (some .checkMismatch, { s with upsets := { s.upsets with residue := s.upsets.residue.erase cu } })
  else if s.upsets.bufferFixed.contains cu then
    let s := s.modSlice (sliceOf cu) (fun c => { c with events := { c.events with corrected := c.events.corrected + 1 } })
    (none, { s with upsets := { s.upsets with bufferFixed := s.upsets.bufferFixed.erase cu } })
  else (none, s)

/-- MMO_PERFORM (R302 to R305, R310). -/
def execMmoPerform (c : CtxId) (cu : Nat) (s : State) : Host.Outcome State Fault Refusal :=
  matrixStep c cu s (fun o => match o with | .mmo _ _ _ => true | _ => false) fun e t =>
    match e.op with
    | .mmo _ _ bs =>
      let p := readBlock bs
      match s.slotFault c cu p with
      | some k => s.endHead c cu 4 e (some (k, 0))
      | none =>
        if (s.keyMissing c cu p).isSome then s
        else
          let s := s.ownTiles c cu e.op.tiles true
          let cycles := s.mmoCycles t c cu p
          match s.engineUpset cu true with
          | (some k, s) =>
            let (n, s) := s.draw
            ((s.putTile cu p (List.replicate 1024 (residueNan p.c)) (BitVec.ofNat 5 n)).perf c cu 0x0B cycles).endHead c cu 4 e (some (k, 0))
          | (none, s) =>
            let xs := (s.product t c cu p).flatten
            let tiny := (xs.flatMap (·.tiny)).foldl setAdd []
            match tiny.find? (fun n => e.progress ≤ n) with
            | some n => s.putHead c cu 4 { e with begun := true, assist := true, progress := n + 1 }
            | none =>
              ((s.putTile cu p (xs.map (·.bits)) (xs.foldl (fun f x => f ||| x.flags) 0)).perf c cu 0x0B cycles).endHead c cu 4 e none
    | _ => s

/-- SUBNORMAL_ASSIST (R304): the control core has completed the step. -/
def execSubnormalAssist (c : CtxId) (cu : Nat) (s : State) : Host.Outcome State Fault Refusal :=
  match (s.queue c cu 4).head? with
  | some e => if e.assist then .next ((s.putHead c cu 4 { e with assist := false }).perf c cu 0x0E 1) else .next s
  | none => .next s

/-! ## Stores (R311) -/

/-- The bits `mst` writes of an element (R311). -/
def State.mstValue (s : State) (cu f tile k : Nat) : Nat :=
  let v := (s.tile cu tile).el (k / 32) (k % 32)
  match f with
  | 1 => match Fmt.f32.read v with
    | .nan _ => Fmt.bf16.nan
    | .inf n => Fmt.bf16.infinity n
    | .fin n m e => (roundVal .bf16 .rn n m e false).bits
  | 2 => match Fmt.f32.read v with
    | .nan _ => Fmt.f16.nan
    | .inf n => Fmt.f16.infinity n
    | .fin n m e => (roundVal .f16 .rn n m e false).bits
  | 3 => v + 2 ^ 32 * (s.tile cu (tile + 1)).el (k / 32) (k % 32)
  | _ => v

/-- Elements of a store from one on, until a row's end or what stops it (R311). -/
def State.mstRun (c : CtxId) (cu : Nat) (t : Thread) (dst : Place) (f tile stride : Nat) : Nat → State → EngineEntry → State
  | 0, s, e => s.putHead c cu 4 { e with begun := true }
  | n + 1, s, e =>
    let k := e.progress
    let size := mstSize f
    let bytes := natBytes size (s.mstValue cu f tile k)
    let next := fun (s : State) => State.mstRun c cu t dst f tile stride n (s.dropEngineFlights c cu 4) { e with begun := true, progress := k + 1 }
    match dst with
    | .ob r off => next (s.obWrite cu (s.obByte t r (off + k / 32 * stride + k % 32 * size)) bytes)
    | .mem x ea =>
      let a := (viewAddr (x.withCursor ea) (k / 32) (k % 32)).1.toNat
      if s.soAccess t x.space a size .write && s.soHeld e then s.putHead c cu 4 { e with begun := true }
      else match s.engineLand t x.space a .write with
      | .ok l s => match s.engineWrite t cu 4 a { loc := l, bytes := bytes, tag := none } with
        | .ok _ s => next s
        | .absent va s => s.holdHead c cu 4 e va kindWrite
        | .bad k a s => s.endHead c cu 4 e (some (k, BitVec.ofNat 64 a))
        | .wait s => s.putHead c cu 4 { e with begun := true }
        | .rolled s => s
      | .absent va s => s.holdHead c cu 4 e va kindWrite
      | .bad k a s => s.endHead c cu 4 e (some (k, BitVec.ofNat 64 a))
      | .wait s => s.putHead c cu 4 { e with begun := true }
      | .rolled s => s

/-- MST_PERFORM (R311): what is left of a row, or the end. -/
def execMstPerform (c : CtxId) (cu : Nat) (s : State) : Host.Outcome State Fault Refusal :=
  matrixStep c cu s (fun o => match o with | .mst _ _ _ _ => true | _ => false) fun e t =>
    match e.op with
    | .mst dst f tile stride =>
      let s := s.ownTiles c cu e.op.tiles true
      if 1024 ≤ e.progress then (s.spend c cu).endHead c cu 4 e none
      else if e.begun then State.mstRun c cu t dst f tile stride (32 - e.progress % 32) s e
      else match s.engineUpset cu false with
        | (some k, s) => s.endHead c cu 4 e (some (k, 0))
        | (none, s) => State.mstRun c cu t dst f tile stride 32 s e
    | _ => s

/-! ## Zeroing and reservations -/

/-- MZRO_PERFORM (R312). -/
def execMzroPerform (c : CtxId) (cu : Nat) (s : State) : Host.Outcome State Fault Refusal :=
  matrixStep c cu s (fun o => match o with | .mzro _ => true | _ => false) fun e _ =>
    let s := s.ownTiles c cu e.op.tiles false
    ((e.op.tiles.foldl (fun s i => s.modTile cu i (fun t => { t with data := [], flags := 0 })) s).spend c cu).endHead c cu 4 e none

/-- OBSET_PERFORM (R316). -/
def execObsetPerform (c : CtxId) (cu : Nat) (s : State) : Host.Outcome State Fault Refusal :=
  matrixStep c cu s (fun o => match o with | .obset _ _ _ => true | _ => false) fun e t =>
    match e.op with
    | .obset r off bytes => ((s.obWrite cu (s.obByte t r off) bytes).spend c cu).endHead c cu 4 e none
    | _ => s

/-- An `.ob` copy into a reservation of a group (R315). -/
def EngineOp.intoResv (o : EngineOp) (r : Nat) : Bool :=
  let isIt := fun (p : Place) => match p with
    | .ob k _ => k == r
    | .mem _ _ => false
  match o with
  | .cpy d _ _ _ => isIt d
  | .cpyv d _ _ _ _ _ => isIt d
  | .cpyf d _ _ => isIt d
  | _ => false

/-- OBREL_PERFORM (R315): after every `.ob` copy into the reservation issued before it. -/
def execObrelPerform (c : CtxId) (cu : Nat) (s : State) : Host.Outcome State Fault Refusal :=
  matrixStep c cu s (fun o => match o with | .obrel _ => true | _ => false) fun e t =>
    match e.op with
    | .obrel r =>
      let pending := (List.range 4).any (fun q => (s.queue c cu q).any (fun k => k.serial < e.serial
        && k.thread.launch == t.id.launch && k.thread.group == t.id.group && k.op.intoResv r))
      if pending then s
      else match s.group t.id.launch t.id.group with
        | none => s.endHead c cu 4 e none
        | some g =>
          let v := g.resvs.getD r Resv.free
          let s := s.modCu cu (fun k => { k with ob := memZero k.ob (g.obBase + v.off) v.size })
          ((s.modGroup t.id.launch t.id.group (fun g => { g with resvs := g.resvs.set r Resv.free })).spend c cu).endHead c cu 4 e none
    | _ => s

end Sys2Proof.Machine
end

