-- ==== Sys2Proof/Machine/Launches.lean ====
section
/-!
DEFINITION. The command processor's work on launches (02 R22, R27 to R37, R51 to R53; 13 R332): its reads and
writes, the checks of a descriptor, refusal and start, the admission of teams, the completion record.
-/

namespace Sys2Proof.Machine

/-! ## The command processor's accesses (R18, R332) -/

/-- A peer access of the command processor for a launch, by its number: sent once, its answer waited for. -/
def State.cmdPeer (s : State) (l : Launch) (k pkg off n : Nat) (op : PeerOp) : Option PeerResult × State :=
  let mine := fun (f : Flight) => f.kind == .cmd k && f.thread.launch == l.uid
  match s.flights.find? mine with
  | some f => (f.answer, s)
  | none =>
    let cu := (s.part l.ctx.part).physicalCu 0
    let (pk, s) := s.sendPeer cu l.ctx.part pkg off op
    (none, { s with
      nextReq := s.nextReq + 1
      flights := s.flights ++ [{ req := s.nextReq, thread := { launch := l.uid, group := 0, num := 0 }, part := l.ctx.part
                                 gen := (s.part l.ctx.part).gen, kind := .cmd k, loc := .peer pkg off, n := n, blk := 0, off := 0
                                 packet := some pk, answer := none, replay := false, acq := none, unsent := none }] })

/-- Reads pieces of global memory that cross no page, with the tags of their granules. -/
def State.cmdPieces (s : State) (l : Launch) (tagged : Bool) : List (Nat × Nat) → List Byte × List Bool → Eng (List Byte × List Bool)
  | [], acc => .ok acc s
  | (a, n) :: ps, acc =>
    if 2 ^ 56 < a + n then .bad .pagePerm a s
    else match s.xlate l.ctx.part a .read with
      | .absent => .absent (a, a) s
      | .bad c m =>
        let s := s.translated none l.ctx.part a
        match s.walkLost l.ctx.part a c with
        | some s => .rolled s
        | none => .bad c a (if m then s.emit (.malformedEntry l.ctx.part (a / 65536)) else s)
      | .ok pa e _ =>
        if s.underReset pa then .wait s
        else
        let s := (((s.translated none l.ctx.part a).settleFrame pa).chargeRead l.ctx.part pa n)
        let (bad, s) := s.readSeen (fetchSees l.ctx.part) (tagged && entryTC e) pa n
        if bad then match s.protectedLaunch l.ctx.part with
          | some k => .rolled (s.rollback k (s.badGranules pa n))
          | none => .bad .uncorrectable a s
        else s.cmdPieces l tagged ps (acc.1 ++ s.seenBytes (fetchSees l.ctx.part) pa n,
          acc.2 ++ (granulesOf pa n).map (fun g => entryTC e && s.seenTag (fetchSees l.ctx.part) g))

/-- A read of the command processor: of global memory, or of a package through the fabric. -/
def State.cmdRead (s : State) (l : Launch) (k space a n : Nat) (tagged : Bool) : Eng (List Byte × List Bool) :=
  let pkg := a / 2 ^ 46 % 2 ^ 10
  if space = 1 && pkg != (s.part l.ctx.part).pkg.toNat then
    match s.cmdPeer l k pkg (a % 2 ^ 46) n (.read n tagged) with
    | (none, s) => .wait s
    | (some (.data bytes tags), s) => .ok (bytes, tags) s
    | (some .ack, s) => .wait s
    | (some (.error c), s) => .bad (classOf c) a s
  else s.cmdPieces l tagged (cut256 (n / 256 + 2) (if space = 1 then a % 2 ^ 46 else a) n) ([], [])

/-- The results of a launch's reads are no longer needed. -/
def State.dropCmdFlights (s : State) (uid : Nat) : State :=
  { s with flights := s.flights.filter (fun f => !(f.thread.launch == uid && match f.kind with
    | .cmd _ => true
    | _ => false)) }

/-! ## The descriptor (R332) -/

/-- A descriptor's field. -/
def Launch.field (l : Launch) (o n : Nat) : Nat := blockNat l.desc o n

/-- A capability a descriptor or an argument table gives (R332): as read for a child; for a host command, the
request `ctag` grants against the context's root, an all-zero one the null quad. None: refused. -/
def State.grant (s : State) (l : Launch) (bits : Nat) (asRead : Cap) : Option Cap :=
  match l.origin with
  | .child _ _ _ => some asRead
  | .queue _ _ _ =>
    let x : Cap := { bits := BitVec.ofNat 128 bits, tag := false }
    if bits = 0 then some Cap.null
    else
      let root := (((s.context l.ctx).map (fun c => c.roots.getD x.space Cap.null)).getD Cap.null)
      match deriveCheck root, ctagFault x root with
      | none, none => some (x.withTag (s.colourState l.ctx.part x.colour == 1))
      | _, _ => none

/-- The capability in a descriptor's slot k. -/
def State.descCap (s : State) (l : Launch) (k : Nat) : Option Cap :=
  s.grant l (l.field (16 * k) 16) (l.quads.getD k Cap.null)

/-- A usable capability of a descriptor: tagged, unsealed, of a live colour, of a space and with permissions. -/
def State.capOk (s : State) (l : Launch) (c : Cap) (spaces : List Nat) (perms : Nat) : Bool :=
  c.tag && c.otype == 0 && s.colourState l.ctx.part c.colour == 1 && spaces.contains c.space && c.holds perms
    && (c.space != 1 || s.reachable l.ctx.part (c.cursor / 2 ^ 46 % 2 ^ 10))

/-- A range from the cursor lies within a capability's bounds. -/
def capCovers (c : Cap) (n : Nat) : Bool := let d := c.decode; d.1 ≤ c.cursor && c.cursor + n ≤ d.2

/-- What reading a launch comes to: refused with a code, held, or the launch with what has been read. -/
inductive Reading (α : Type) where
  | go (a : α) (s : State)
  | refuse (code : Byte) (s : State)
  | hold (va : Nat) (s : State)
  | wait (s : State)

/-- A read of the launch path: an error refuses with 0x02, an absent page holds (R332). -/
def readOr {α : Type} (r : Eng (List Byte × List Bool)) (k : List Byte × List Bool → State → Reading α) : Reading α :=
  match r with
  | .ok a s => k a s
  | .absent va s => .hold va.1 s
  | .bad _ _ s => .refuse 0x02 s
  | .wait s => .wait s
  | .rolled s => .wait s

/-- The code object (R176): its header, then its entries, all within the bounds. -/
def State.readCode (s : State) (l : Launch) : Reading Launch :=
  match s.descCap l 0 with
  | none => .refuse 0x03 s
  | some c =>
    let d := c.decode
    if !s.capOk l c [spcCode] permEX then .refuse 0x03 s
    else if d.2 < d.1 + 16 then .refuse 0x06 s
    else readOr (s.cmdRead l 0 0 d.1 16 false) fun h s =>
      let n := blockNat h.1 0 4
      let off := blockNat h.1 4 4
      if n = 0 || 65535 < n || off % 8 != 0 || off < 0x10 + 4 * n || blockNat h.1 8 8 != 0 || d.2 < d.1 + 0x10 + 4 * n then .refuse 0x06 s
      else readOr (s.cmdRead l 1 0 (d.1 + 16) (4 * n) false) fun t s =>
        if (List.range n).all (fun i => d.1 + off + 8 * blockNat t.1 (4 * i) 4 + 8 ≤ d.2) then
          .go { l with code := c, blocks := n, codeOff := off } s
        else .refuse 0x06 s

/-- The constant bank (R59). -/
def State.readConsts (s : State) (l : Launch) : Reading Launch :=
  match s.descCap l 1 with
  | none => .refuse 0x03 s
  | some c =>
    if !s.capOk l c [spcGlobal, spcPeer] permLD || !capCovers c 256 then .refuse 0x03 s
    else readOr (s.cmdRead l 2 c.space (c.cursor + 4) 252 false) fun r s =>
      .go { l with consts := 0 :: (List.range 63).map (fun i => BitVec.ofNat 32 (blockNat r.1 (4 * i) 4)) } s

/-- The completion-record capability. -/
def State.readRecord (s : State) (l : Launch) : Reading Launch :=
  match s.descCap l 2 with
  | none => .refuse 0x03 s
  | some c =>
    if !s.capOk l c [spcGlobal, spcPeer] permST || !capCovers c 32 || c.cursor % 32 != 0 then .refuse 0x03 s
    else .go { l with record := c } s

/-- The argument slots of a table as read (R31, R332): none if a request is refused. -/
def State.argSlots (s : State) (l : Launch) (c : Cap) (bytes : List Byte) (tags : List Bool) (n : Nat) : Option (List Cap) :=
  (List.range 8).foldr (fun i (acc : Option (List Cap)) =>
    match acc with
    | none => none
    | some l' =>
      if n ≤ i then some (Cap.null :: l')
      else
        let v := blockNat bytes (16 * i) 16
        let raw : Cap := { bits := BitVec.ofNat 128 v, tag := false }
        let live := tags.getD i false && c.holds permLC && s.colourState l.ctx.part raw.colour == 1
        (s.grant l v (raw.withTag live)).map (· :: l')) (some [])

/-- Entries of the argument table, each read by itself (R332). -/
def State.argRead (s : State) (l : Launch) (c : Cap) (n : Nat) : List Nat → List Byte × List Bool → Eng (List Byte × List Bool)
  | [], acc => .ok acc s
  | i :: is, acc => match s.cmdRead l (30 + i) c.space (c.cursor + 16 * i) 16 true with
    | .ok r s => s.argRead l c n is (acc.1 ++ r.1, acc.2 ++ r.2)
    | .absent va s => .absent va s
    | .bad k a s => .bad k a s
    | .wait s => .wait s
    | .rolled s => .rolled s

/-- The argument table. -/
def State.readArgs (s : State) (l : Launch) : Reading Launch :=
  match s.descCap l 3 with
  | none => .refuse 0x03 s
  | some c =>
    let d := c.decode
    let n := min 8 ((d.2 - c.cursor) / 16)
    if !s.capOk l c [spcGlobal, spcPeer] permLD || c.cursor % 16 != 0 || (0 < n && c.cursor < d.1) then .refuse 0x03 s
    else if n = 0 then .go { l with args := List.replicate 8 Cap.null } s
    else readOr (s.argRead l c n (List.range n) ([], [])) fun r s =>
      match s.argSlots l c r.1 r.2 n with
      | some a => .go { l with args := a } s
      | none => .refuse 0x03 s

/-- Entry i of the stage table. -/
def Launch.stageAt (l : Launch) (i : Nat) : Stage :=
  { role := l.field (0x60 + 8 * i) 1, groups := l.field (0x62 + 8 * i) 2, entry := l.field (0x64 + 8 * i) 2
    regs := l.field (0x66 + 8 * i) 2 }

/-- The register counts R22 permits. -/
def regsOk (n : Nat) : Bool := 32 ≤ n && n ≤ 512 && n % 8 == 0

/-- The stage table's checks (R36). -/
def Launch.stagesOk (l : Launch) (count team blocks : Nat) : Bool :=
  let used := (List.range count).map l.stageAt
  used.all (fun s => s.role ≤ 2 && 1 ≤ s.groups && s.groups ≤ 4 && s.entry < blocks && regsOk s.regs)
    && (List.range count).all (fun i => l.field (0x61 + 8 * i) 1 == 0)
    && used.foldl (fun n s => n + s.groups) 0 == team
    && (List.range (4 - count)).all (fun i => l.field (0x60 + 8 * (count + i)) 8 == 0)

/-- The first refusal of the descriptor's plain fields, in table order, then fit (R22, R28, R332); 0 for none. -/
def Launch.fieldsCode (l : Launch) : Byte :=
  let g := l.field 0x40 4
  let t := l.field 0x44 2
  let team := l.field 0x46 1
  let flags := l.field 0x47 1
  let pipe := flags.testBit 3
  let regs := l.field 0x48 2
  let sp := l.field 0x4A 2
  let ob := l.field 0x4C 2
  let handler := l.field 0x4E 2
  let entry := l.field 0x50 4
  let stages := l.field 0x54 1
  let most := if pipe then ((List.range stages).map (fun i => (l.stageAt i).regs)).foldl max 0 else regs
  if g = 0 || team = 0 || g % team != 0 || 2 ^ 32 - 1 < g * t || 2 ^ 32 - 1 < g then 0x04
  else if t = 0 || 1024 < t then 0x04
  else if 4 < team then 0x04
  else if 16 ≤ flags then 0x04
  else if !pipe && !regsOk regs then 0x04
  else if sp % 64 != 0 || 640 < sp then 0x04
  else if 256 < ob then 0x04
  else if handler != 0xFFFF && l.blocks ≤ handler then 0x06
  else if !pipe && l.blocks ≤ entry then 0x06
  else if (if pipe then stages = 0 || 4 < stages else stages != 0) then 0x05
  else if l.field 0x55 3 != 0 then 0x01
  else if pipe && !l.stagesOk stages team l.blocks then 0x05
  else if 2 ^ 20 < t * most * 4 then 0x07
  else 0

/-- The launch with its descriptor's plain fields. -/
def Launch.withFields (l : Launch) : Launch :=
  let flags := l.field 0x47 1
  { l with
    groups := l.field 0x40 4, tpg := l.field 0x44 2, teamSize := l.field 0x46 1, flags := BitVec.ofNat 4 flags
    regsPer := l.field 0x48 2, spKiB := l.field 0x4A 2, obKiB := l.field 0x4C 2, handler := BitVec.ofNat 16 (l.field 0x4E 2)
    entry := l.field 0x50 4, ltag := BitVec.ofNat 64 (l.field 0x58 8)
    stages := if flags.testBit 3 then (List.range (l.field 0x54 1)).map l.stageAt else [] }

/-- One read of the launch path after another. -/
def Reading.andThen {α β : Type} (r : Reading α) (k : α → State → Reading β) : Reading β :=
  match r with
  | .go a s => k a s
  | .refuse c s => .refuse c s
  | .hold va s => .hold va s
  | .wait s => .wait s

/-- A host command's descriptor is read at the start; a child's was read by its `launch` (R332). -/
def State.readDesc (s : State) (l : Launch) : Reading Launch :=
  match l.origin with
  | .child _ _ _ => .go l s
  | .queue _ _ _ => readOr (s.cmdRead l 9 0 l.descVa.toNat 128 false) fun r s => .go { l with desc := r.1 } s

/-- The whole of R332's table, in its order. -/
def State.readLaunch (s : State) (l : Launch) : Reading Launch :=
  (s.readDesc l).andThen fun l s => (s.readCode l).andThen fun l s => (s.readConsts l).andThen fun l s =>
    (s.readRecord l).andThen fun l s => (s.readArgs l).andThen fun l s =>
      let c := l.fieldsCode
      if c = 0 then .go l.withFields s else .refuse c s

/-! ## Refusal and start -/

/-- Teams whose groups are gone, from the CUs and from the images of saved contexts, and whose children are all over retire (R33, R399). -/
def State.retireTeams (s : State) : State :=
  { s with teams := s.teams.filter (fun m =>
      let of := fun (g : Group) => g.launch == m.launch && g.num / s.teamSize m.launch == m.num
      s.groups.any of || s.contexts.any (fun c => c.image.any (fun i => i.groups.any of))
        || s.launches.any (fun k => match k.origin with
          | .child p n _ => p == m.launch && n == m.num
          | .queue _ _ _ => false)) }

/-- A child's outcome goes to its parent's table, and the threads that wait for it go on (R331). -/
def State.tellParent (s : State) (l : Launch) (code : Byte) : State :=
  match l.origin with
  | .queue _ _ _ => s
  | .child p n e =>
    let same := fun (m : Team) => m.launch == p && m.num == n
    let s : State := { s with teams := modWhere s.teams same (fun (m : Team) => { m with
      children := modAt m.children e (fun c => { c with result := some code }) }) }
    s.wakeMet

/-- A launch is over. -/
def State.dropLaunch (s : State) (uid : Nat) : State :=
  let s := s.dropCmdFlights uid
  let s : State := { s with
    launches := s.launches.filter (fun l => l.uid != uid)
    slices := s.slices.map (fun (c : Slice) => { c with own := c.own.filter (fun r => r.launch != uid) })
    cus := s.cus.map (fun (c : Cu) => { c with order := c.order.erase uid }) }
  s.retireTeams

/-- A refused launch starts no thread and takes no period (R332, R386): its queue stops on its entry, or its parent's `join` gets the
code. -/
def State.refuse (s : State) (l : Launch) (code : Byte) : State :=
  let s := s.tellParent l code
  let s := match l.origin with
    | .queue vf q index =>
      (s.stopQueue vf q index code).modVf vf (fun v => { v with queues := modAt v.queues q (fun r => { r with
        qhead := index }) })
    | .child _ _ _ => s
  s.dropLaunch l.uid

/-- Loads the line-ownership tables for a deterministic launch (R368). -/
def State.loadOwn (s : State) (l : Launch) : State :=
  if l.flags.getLsbD 0 then
    let rs := ((s.context l.ctx).map (·.lown)).getD []
    let own := rs.map (fun r => ({ launch := l.uid, priv := r.1 / 2 ^ 56 == 0xFE, base := r.1, len := r.2 } : OwnRange))
    (s.part l.ctx.part).map.foldl (fun s n => s.modSlice n (fun c => { c with own := (c.own ++ own).take 64 })) s
  else s

/-- A launch that is a child, or a descendant, of another. -/
def State.under (s : State) (top uid : Nat) : Bool := (s.family top).contains uid

/-- Whether the command processor may take up a launch now (R273, R334, R358): its partition runs; its interface is not in ERROR (R417); earlier
launches of its queue have started, or are over if it is serialised; no protected launch stands in the way. -/
def State.mayStart (s : State) (l : Launch) : Bool :=
  let others := s.launches.filter (fun k => k.ctx.part == l.ctx.part && k.uid != l.uid && k.phase != .waiting)
  (s.part l.ctx.part).state == 1 && (s.vf l.ctx.part).tdisp != .error && l.page.isNone && l.phase == .waiting
    && (s.issues l.ctx || (s.settles l.ctx && match l.origin with
      | .child _ _ _ => true
      | .queue _ _ _ => false))
    && s.launches.all (fun k => match k.origin, l.origin with
      | .queue v q _, .queue w p _ => !(v == w && q == p && k.uid < l.uid) || (k.phase != .waiting && !l.serial)
      | _, _ => true)
    && others.all (fun k => !k.flags.getLsbD 2 || s.under k.uid l.uid)

/-- A protected launch starts only alone (R273). -/
def State.alone (s : State) (l : Launch) : Bool :=
  s.launches.all (fun k => k.ctx.part != l.ctx.part || k.uid == l.uid || k.phase == .waiting
    || (k.flags.getLsbD 2 && s.under k.uid l.uid))

/-- A launch of a queue has been accepted: it takes the period counter's value, which goes up, and is remembered for a reset that stops the
queue at its entry (R386, R404). -/
def State.takePeriod (s : State) (vf q : Nat) (l : Launch) : Launch × State :=
  let p := ((s.vf vf).queues.getD q QueueRegs.reset).period
  ({ l with period := p }, s.modVf vf (fun v => { v with queues := modAt v.queues q (fun r => { r with
    period := r.period + 1, periods := r.periods ++ [(l.uid, p)] }) }))

/-- LAUNCH_START (R332). -/
def execLaunchStart (l : Nat) (s : State) : Host.Outcome State Fault Refusal :=
  match s.launch l with
  | none => .next s
  | some k =>
    if !s.mayStart k then .next s
    else .next (match s.readLaunch k with
      | .refuse code s => s.refuse k code
      | .wait s => s
      | .hold va s =>
        if s.requestsFull k.ctx.part (va / 65536) then s
        else (s.requestPage k.ctx (va / 65536) kindRead).modLaunch l (fun x => { x with page := some (va / 65536) })
      | .go x s =>
        if x.flags.getLsbD 2 && !s.alone k then s
        else
          let x := { x with phase := Phase.running, gen := (s.part x.ctx.part).gen, page := none }
          let (x, s) := match k.origin with
            | .child _ _ _ => ({ x with gen := k.gen }, s)
            | .queue vf q _ => s.takePeriod vf q x
          ((s.dropCmdFlights l).modLaunch l (fun _ => x)).loadOwn x)

/-! ## Admission (R10, R27 to R31, R403) -/

/-- The stage of a group in its team (R37). -/
def stageOf : List Stage → Nat → Nat → Nat
  | [], _, n => n
  | st :: l, i, n => if i < st.groups then n else stageOf l (i - st.groups) (n + 1)

/-- The registers per thread of a group. -/
def Launch.regsOf (l : Launch) (i : Nat) : Nat :=
  if l.flags.getLsbD 3 then ((l.stages[stageOf l.stages i 0]?).map (·.regs)).getD 32 else l.regsPer

/-- The entry block of a group. -/
def Launch.entryOf (l : Launch) (i : Nat) : Nat :=
  if l.flags.getLsbD 3 then ((l.stages[stageOf l.stages i 0]?).map (·.entry)).getD 0 else l.entry

/-- s.role of a group's threads (R35, R37). -/
def Launch.roleOf (l : Launch) (i : Nat) : Nat :=
  if l.flags.getLsbD 3 then 4 * stageOf l.stages i 0 + ((l.stages[stageOf l.stages i 0]?).map (·.role)).getD 0 else 3

/-- The groups on a CU. -/
def State.groupsOn (s : State) (cu : Nat) : List Group := s.groups.filter (·.cu == cu)

/-- The lowest place of a size where no taken range lies, in steps, below a limit. -/
def lowestFit (taken : List (Nat × Nat)) (size step limit : Nat) : Option Nat :=
  if size = 0 then some 0
  else ((List.range (limit / step)).map (· * step)).find? (fun o =>
    o + size ≤ limit && taken.all (fun r => o + size ≤ r.1 || r.1 + r.2 ≤ o))

/-- The scratchpad regions on a CU. -/
def State.regionsOn (s : State) (cu : Nat) : List (Nat × Nat) :=
  s.teams.flatMap (fun m => (m.regions.filter (·.cu == cu)).map (fun r => (r.base, r.size)))

/-- The tenant a CU's groups belong to, and its contexts. -/
def State.ctxsOn (s : State) (cu : Nat) : List CtxId := ((s.groupsOn cu).map (·.ctx)).eraseDups

/-- The groups of a team that a placement puts on a CU. -/
def groupsAt (cus : List Nat) (cu : Nat) : List Nat := (List.range cus.length).filter (fun i => cus.getD i 0 == cu)

/-- A CU has room for the groups a placement puts on it (R10); the threads of a resident group count until all have exited (R27). -/
def State.roomOn (s : State) (l : Launch) (cus : List Nat) (cu : Nat) : Bool :=
  let is := groupsAt cus cu
  let here := s.groupsOn cu
  let sum := fun (f : Group → Nat) => here.foldl (fun n g => n + f g) 0
  let trs := sum (fun g => g.threads * g.regsPer * 4) + is.foldl (fun n i => n + l.tpg * l.regsOf i * 4) 0
  let threads := sum (fun g => g.threads) + is.length * l.tpg
  let obs := here.map (fun g => (g.obBase, g.obSize))
  let ctxs := s.ctxsOn cu
  trs ≤ 2 ^ 20 && threads ≤ 2048 && here.length + is.length ≤ 16
    && (ctxs.contains l.ctx || ctxs.length < 4)
    && ctxs.all (fun c => (s.part c.part).tenant == (s.part l.ctx.part).tenant)
    && (lowestFit (s.regionsOn cu) (is.length * l.spKiB * 1024) 65536 (640 * 1024)).isSome
    && (is.foldl (fun (acc : Option (List (Nat × Nat))) _ => acc.bind (fun t =>
        (lowestFit t (l.obKiB * 1024) 256 (256 * 1024)).map (fun o => t ++ [(o, l.obKiB * 1024)]))) (some obs)).isSome

/-- The placement of a deterministic launch's team (R30). -/
def Launch.fixedPlace (l : Launch) (p : Partition) (team : Nat) : List Nat :=
  if l.teamSize = 1 then [p.physicalCu (team % (12 * p.n))]
  else (List.range l.teamSize).map (fun i => p.physicalCu (4 * (team % (3 * p.n)) + i))

/-- A placement of a launch's next team is permitted (R27 to R30). -/
def State.placeOk (s : State) (l : Launch) (cus : List Nat) : Bool :=
  let p := s.part l.ctx.part
  cus.length == l.teamSize && cus.all (fun cu => p.map.contains (sliceOf cu) && cu < 192 && clusterOf cu == clusterOf (cus.headD 0))
    && cus.all (s.roomOn l cus)
    && (!l.flags.getLsbD 0 || cus == l.fixedPlace p l.teams)

/-- Before a CU admits a group of another tenant, everything on it is zeroed; tiles of contexts are spilled first
(R403). -/
def State.changeTenant (s : State) (cu tenant : Nat) : State :=
  let c := s.cu cu
  if c.lastTenant = some tenant then s
  else if c.lastTenant.isNone then s.modCu cu (fun c => { c with lastTenant := some tenant })
  else
    let s := (List.range 16).foldl (fun s i => match (s.tile cu i).owner with
      | none => s
      | some o => s.modContext o (fun (x : Context) => { x with
          tileMap := x.tileMap ||| (1#16 <<< i)
          spilled := { tile := i, data := (s.tile cu i).data, flags := (s.tile cu i).flags } :: x.spilled.filter (·.tile != i) })) s
    s.modCu cu (fun c => { Cu.reset with fairness := c.fairness, selections := c.selections, lastTenant := some tenant })

/-- Slice firmware allots weight slots when it places a context on a CU (R282): all to a context alone; else the
largest range that no context with groups there holds. -/
def State.allotSlots (s : State) (ctx : CtxId) (cu : Nat) : State :=
  let ctxs := s.ctxsOn cu
  if ctxs.contains ctx then s
  else
    let taken := s.contexts.filterMap (fun c =>
      if ctxs.contains c.id then (c.allots.find? (·.cu == cu)).map (fun a => (a.first, a.count)) else none)
    let best := ((List.range 33).reverse.find? (fun n => (lowestFit taken n 1 32).isSome)).getD 0
    let first := (lowestFit taken best 1 32).getD 0
    let drop := fun (c : Context) => if ctxs.contains c.id then c else { c with allots := c.allots.filter (·.cu != cu) }
    let s : State := { s with contexts := s.contexts.map drop }
    s.modContext ctx (fun c => { c with allots := { cu := cu, first := first, count := best } :: c.allots.filter (·.cu != cu) })

/-- A context that has come to be alone on a CU is allotted all its slots, the contents of those it has first (R282). -/
def State.widenSlots (s : State) (cu : Nat) : State :=
  match s.ctxsOn cu with
  | [c] =>
    let a := s.allot c cu
    if a.2 = 32 then s
    else
      let s := s.modCu cu (fun k => { k with
        wslots := (k.wslots.drop a.1).take a.2 ++ List.replicate (32 - a.2) WSlot.reset })
      let s : State := { s with contexts := s.contexts.map (fun (x : Context) => { x with allots := x.allots.filter (·.cu != cu) }) }
      s.modContext c (fun x => { x with allots := { cu := cu, first := 0, count := 32 } :: x.allots })
  | _ => s

/-- The CUs whose only context has not yet all their slots. -/
def State.widenAll (s : State) : State := ((s.groups.map (·.cu)).eraseDups).foldl State.widenSlots s

/-- A context on a CU has its performance counters there (R382). -/
def State.perfOn (s : State) (ctx : CtxId) (cu : Nat) : State :=
  s.modContext ctx (fun c => if c.perf.any (·.cu == cu) then c
    else { c with perf := c.perf ++ [{ cu := cu, counters := List.replicate 8 PerfCounter.reset, moved := 0 }] })

/-- The free resident slots of a CU, from some place on round. -/
def State.freeSlots (s : State) (cu from_ : Nat) : List Nat :=
  let used := (s.groupsOn cu).flatMap (·.slots)
  ((List.range 2048).map (fun i => (from_ + i) % 2048)).filter (fun n => !used.contains n)

/-- The slab index of a thread admitted to a slot (R215). -/
def State.slabFor (s : State) (ctx : CtxId) (lcu slot : Nat) : Nat :=
  let used := (s.allThreads.filter (fun t => t.ctx == ctx)).map (·.slab)
  let own := lcu * 2048 + slot
  if used.contains own then ((List.range (used.length + 1)).find? (fun n => !used.contains n)).getD 0 else own

/-- A thread at its start (R31). -/
def startThread (l : Launch) (group num i cu slot slab : Nat) (debug : Bool) : Thread :=
  let n := l.regsOf i
  let t : Thread :=
    { id := { launch := l.uid, group := group, num := num }, ctx := l.ctx, cu := cu, slot := slot, slab := slab
      role := BitVec.ofNat 4 (l.roleOf i), regs := List.replicate n 0, tags := List.replicate (n / 4) false, preds := 0, fps := 0
      fcode := 0, faddr := 0, fblk := 0, inHandler := false, debug := debug, blk := BitVec.ofNat 16 (l.entryOf i), off := 1
      blkLen := 0, start := 0, run := .platform, pending := [], log := none, w0 := 0, w1 := 0, w2 := 0, w3 := 0, engFault := none
      pageFail := none, watchSkip := false, mark := none, peerFault := none, got := [], fenced := [], seen := [], replayOf := none
      steps := false, issued := true }
  (List.range 8).foldl (fun t k => t.setQuad (4 * k) (l.args.getD k Cap.null)) t

/-- One thread is admitted. -/
def State.admitThread (s : State) (l : Launch) (group num i cu : Nat) (slot : Nat) : State :=
  let slab := s.slabFor l.ctx ((s.part l.ctx.part).logicalCu cu) slot
  let debug := ((s.context l.ctx).map (fun (c : Context) => c.session.isSome)).getD false
  let args := l.args.map (fun c => if s.colourState l.ctx.part c.colour = 2 then c.withTag false else c)
  let t := startThread { l with args := args } group num i cu slot slab debug
  let s : State := { s with threads := s.threads ++ [t] }
  s.arrive t t.blk

/-- One group is admitted: its quota zeroed, its threads resident (R27, R300). -/
def State.admitGroup (s : State) (l : Launch) (group i cu : Nat) : State :=
  let size := l.obKiB * 1024
  let base := (lowestFit ((s.groupsOn cu).map (fun g => (g.obBase, g.obSize))) size 256 (256 * 1024)).getD 0
  let g : Group := { launch := l.uid, num := group, ctx := l.ctx, cu := cu, stage := if l.flags.getLsbD 3 then stageOf l.stages i 0 else 0
                     role := l.roleOf i % 4, threads := l.tpg, slots := [], regsPer := l.regsOf i, obBase := base, obSize := size
                     resvs := List.replicate 16 Resv.free, arrived := 0, bonus := 0 }
  let s := s.modCu cu (fun c => { c with ob := memZero c.ob base size, order := if c.order.contains l.uid then c.order else c.order ++ [l.uid] })
  let (k, s) := (s.newObserver l.ctx.part cu).draw
  let slots := (s.freeSlots cu (k % 2048)).take l.tpg
  let s : State := { s with groups := s.groups ++ [{ g with slots := slots }] }
  (List.range l.tpg).foldl (fun s n => s.admitThread l group n i cu (slots.getD n 0)) s

/-- A team is admitted whole (R27): regions zeroed, then its groups. -/
def State.admitTeam (s : State) (l : Launch) (cus : List Nat) : State :=
  let us := cus.eraseDups
  let s := us.foldl (fun s cu => ((s.changeTenant cu (s.part l.ctx.part).tenant).allotSlots l.ctx cu).perfOn l.ctx cu) s
  let regions := us.map (fun cu =>
    let size := (groupsAt cus cu).length * l.spKiB * 1024
    ({ cu := cu, base := (lowestFit (s.regionsOn cu) size 65536 (640 * 1024)).getD 0, size := size } : Region))
  let s := regions.foldl (fun s r =>
    (s.commitWhere (fun p => p.single && p.touches (sramKey r.cu r.base) r.size)).sramZero r.cu r.base r.size) s
  let m : Team := { launch := l.uid, num := l.teams, cluster := clusterOf (cus.headD 0), place := cus, regions := regions, arrivals := []
                    children := List.replicate 32 { used := false, seq := 0, launch := 0, result := none }, waits := [] }
  let s : State := { s with teams := s.teams ++ [m] }
  let s := (List.range cus.length).foldl (fun s i => s.admitGroup l (l.teams * l.teamSize + i) i (cus.getD i 0)) s
  (s.modLaunch l.uid (fun l => { l with teams := l.teams + 1 })).refreshBonus l.uid (l.teams * l.teamSize) l.ctx

/-- TEAM_ADMIT (R27 to R31): the next team of a running launch, on CUs that have room for it. -/
def execTeamAdmit (l : Nat) (cus : List Nat) (s : State) : Host.Outcome State Fault Refusal :=
  match s.launch l with
  | none => .next s
  | some k =>
    if k.phase == .running && s.issues k.ctx && (s.part k.ctx.part).state == 1 && k.teams * k.teamSize < k.groups && s.placeOk k cus then
      .next (s.admitTeam k cus)
    else .next s

/-! ## Completion (R23, R51, R52, R263) -/

/-- Contributions combined in order (R263). -/
def combineReds (op : Nat) (wide : Bool) : List Word64 → Option Nat
  | [] => none
  | v :: vs => some (vs.foldl (fun acc x => atomVal op wide acc x.toNat) v.toNat)

/-- The contribution of one group to a location. -/
def groupRed (rs : List HeldRed) (op : Nat) (wide : Bool) (group : Nat) : Option Nat :=
  let mine := rs.filter (·.group == group)
  let ts := (mine.map (·.thread)).foldl setAdd []
  combineReds op wide (ts.filterMap (fun t => (combineReds op wide ((mine.filter (·.thread == t)).map (·.v))).map (BitVec.ofNat 64)))

/-- The kinds of contribution to one location: width and operation. R263 gives a location one operation; where a program mixes them, each
group's are committed kind by kind in this order (DESIGN CHOICE, log entry 60). -/
def redKinds : List (Bool × Nat) := [(false, 0x0), (true, 0x0), (false, 0xB), (true, 0xB)]

/-- Where a held contribution's location lies now: its physical address, if its page takes a write. -/
def State.redPlace (s : State) (l : Launch) (va : Nat) : Option Nat :=
  match s.xlate l.ctx.part va .write with
  | .ok pa _ _ => some pa
  | .bad _ _ => none
  | .absent => none

/-- One atomic at `.prt` of the serial phase (R263), where the location lies now. It waits for a slice held in reset (R354), and for a
write before it that may not be seen yet (R246). A location that may not be written, or cannot be read, keeps its value, as for a `red`
(R229); under a protected launch an uncorrectable one is a rollback (R275). -/
def State.commitRed (s : State) (l : Launch) (va : Nat) (wide : Bool) (op v : Nat) : Eng Unit :=
  let n := if wide then 8 else 4
  match s.xlate l.ctx.part va .write with
  | .absent => .absent (va, va) s
  | .bad c m =>
    let s := s.translated none l.ctx.part va
    match s.walkLost l.ctx.part va c with
    | some s => .rolled s
    | none => .ok () (if m then s.emit (.malformedEntry l.ctx.part (va / 65536)) else s)
  | .ok pa _ _ =>
    if s.underReset pa || s.writesHeld pa n (fun _ => false) then .wait s
    else
      let hs := s.headsAt seesAll pa n
      let s0 := (((s.translated none l.ctx.part va).settleFrame pa).chargeAtomic l.ctx.part pa).commitWhere (fun p => p.touches pa n)
      let (bad, s) := s0.readCheck false pa n
      if bad then
        let s := if s0.anyPoison pa n then s.countPoisoned pa else s
        match s.protectedLaunch l.ctx.part with
        | some k => .rolled (s.rollback k (s.badGranules pa n))
        | none => .ok () s
      else
        let bytes := natBytes n (atomVal op wide (bytesNat (s.seenBytes seesAll pa n)) v)
        .ok () ((s.writeNow pa bytes none).keepHeads pa bytes hs)

/-- The commits of the serial phase: location by location in rising order, groups in ascending number, kinds in order (R233, R263). `place`
gives the location of an address: two addresses of one location are one. -/
def Launch.commits (l : Launch) (place : Nat → Nat) : List (Nat × Bool × Nat × Nat) :=
  ((l.reds.map (fun r => place r.va)).foldl setAdd []).flatMap (fun m =>
    let here := l.reds.filter (fun r => place r.va == m)
    let va := ((here.head?).map (·.va)).getD 0
    ((here.map (·.group)).foldl setAdd []).flatMap (fun g => redKinds.filterMap (fun k =>
      (groupRed (here.filter (fun r => r.wide == k.1 && r.op.toNat == k.2)) k.2 k.1 g).map (fun v => (va, k.1, k.2, v)))))

/-- The contributions of a launch by the places of their locations; an address without one stands for itself, above every place. -/
def State.commitsOf (s : State) (l : Launch) : List (Nat × Bool × Nat × Nat) := l.commits (fun va => (s.redPlace l va).getD (2 ^ 60 + va))

/-- Commits, one after another, until what stops them. -/
def State.commitReds (s : State) (l : Launch) : List (Nat × Bool × Nat × Nat) → Eng Unit
  | [] => .ok () s
  | c :: cs => match s.commitRed l c.1 c.2.1 c.2.2.1 c.2.2.2 with
    | .ok _ s => s.commitReds l cs
    | .absent va s => .absent va s
    | .bad k a s => .bad k a s
    | .wait s => .wait s
    | .rolled s => .rolled s

/-- A location of the serial phase cannot be written yet: its page is absent, its slice held in reset, or an earlier write of it held. -/
def State.redsWait (s : State) (l : Launch) : Option (Eng Unit) :=
  l.reds.findSome? (fun r => match s.xlate l.ctx.part r.va .write with
    | .absent => some (.absent (r.va, r.va) s)
    | .bad _ _ => none
    | .ok pa _ _ => if s.underReset pa || s.writesHeld pa (if r.wide then 8 else 4) (fun _ => false) then some (.wait s) else none)

/-- The serial phase of a deterministic launch (R263), once every location can be written. The launch's ranges leave the line-ownership
tables after it (R368). -/
def State.serialPhase (s : State) (l : Launch) : Eng Unit :=
  match s.redsWait l with
  | some r => r
  | none => match s.commitReds l (s.commitsOf l) with
    | .ok _ s => .ok () (({ s with slices := s.slices.map (fun (c : Slice) => { c with own := c.own.filter (fun r => r.launch != l.uid) }) } : State).modLaunch
        l.uid (fun l => { l with reds := [] }))
    | r => r

/-- The record's bytes before the done word (R51). -/
def Launch.recordBytes (l : Launch) : List Byte :=
  natBytes 8 l.ltag.toNat ++ natBytes 4 (l.groups * l.tpg) ++ natBytes 4 l.nonzero ++ [l.maxStatus, l.orStatus, 0, 0]
    ++ natBytes 4 (l.firstGroup.getD 0xFFFFFFFF) ++ natBytes 4 l.rollbacks

/-- The done word (R51). -/
def Launch.doneWord (l : Launch) : List Byte := natBytes 4 (1 + l.gen.toNat * 65536)

/-- The launch is over, with its record written or not (R23, R52, R279): frames queued for retirement are
retired; the log of a protected launch is emptied, unless the launch is a child of one that still runs (R275); a context with no group left has its identity remap again. -/
def State.boundary (s : State) (l : Launch) (code : Byte) : State :=
  let p := s.part l.ctx.part
  let others := s.launches.any (fun k => k.uid != l.uid && k.ctx.part == l.ctx.part && k.flags.getLsbD 2 && k.phase == .running)
  let s := if l.flags.getLsbD 2 && !others then p.map.foldl (fun s n => s.modSlice n (fun c => { c with log := [] })) s else s
  let s := s.tellParent l code
  let s := match l.origin with
    | .queue vf q index =>
      let s := s.modVf vf (fun v => { v with queues := modAt v.queues q (fun r => { r with periods := r.periods.filter (·.1 != l.uid) }) })
      if code = 0 then s else s.stopQueue vf q index code
    | .child _ _ _ => s
  let s := (s.evict (· == l.uid)).dropLaunch l.uid
  let s := if s.groups.any (fun g => g.ctx == l.ctx) || (s.context l.ctx).any (·.image.isSome) then s else s.modContext l.ctx (fun c => { c with remap := List.range 192 })
  let mine := fun (f : Nat) => s.holderOf f == some l.ctx.part || (s.holderOf f).isNone
  let due := s.slices.any (fun (c : Slice) => c.retire.any mine)
  ((if due then s.settlePart l.ctx.part else s).retireQueued mine).settleReset l.ctx.part

/-- A context has been ended, but for its records (R458). -/
def State.ends (s : State) (c : CtxId) : Bool := ((s.context c).map (fun x => x.life == .ending)).getD false

/-- Writes the record through its capability: bytes, then the done word, a release at `.sys` (R52): every write of the launch, and every
one that happens before it, is performed with respect to every observer first. An ended context's record whose page is absent fails
(R458). -/
def State.writeRecord (s : State) (l : Launch) : State :=
  let c := l.record
  let a := c.cursor
  let pkg := a / 2 ^ 46 % 2 ^ 10
  let fam := s.family l.uid
  let mine := fun (p : PStore) => fam.contains p.thread.launch || p.hb.any (fun t => fam.contains t.launch)
  if s.stores.any (fun p => mine p && s.storeWaits p) then s
  else
  let s := s.commitWhere mine
  if !c.tag || s.colourState l.ctx.part c.colour != 1 then s.boundary l 0x0A
  else if c.space = 1 && pkg != (s.part l.ctx.part).pkg.toNat then
    match s.cmdPeer l 20 pkg (a % 2 ^ 46) 28 (.write l.recordBytes none false) with
    | (none, s) => s
    | (some (.error _), s) => s.boundary l 0x0A
    | (some _, s) => match s.cmdPeer l 21 pkg (a % 2 ^ 46 + 28) 4 (.write l.doneWord none false) with
      | (none, s) => s
      | (some (.error _), s) => s.boundary l 0x0A
      | (some _, s) => s.boundary l 0
  else
    let va := if c.space = 1 then a % 2 ^ 46 else a
    match s.xlate l.ctx.part va .write with
    | .absent =>
      if s.ends l.ctx then s.boundary l 0x0A
      else if s.requestsFull l.ctx.part (va / 65536) then s
      else (s.requestPage l.ctx (va / 65536) kindWrite).modLaunch l.uid (fun x => { x with phase := .finishing (some (va / 65536)) })
    | .bad c m =>
      let s := s.translated none l.ctx.part va
      match s.walkLost l.ctx.part va c with
      | some s => s
      | none => (if m then s.emit (.malformedEntry l.ctx.part (va / 65536)) else s).boundary l 0x0A
    | .ok pa _ _ =>
      if s.underReset pa || s.writeHeld pa 32 then s
      else (((((s.translated none l.ctx.part va).settleFrame pa).chargeWrite l.ctx.part pa 32).writeNow pa l.recordBytes none).writeNow (pa + 28) l.doneWord none).boundary l 0

/-- A launch's own part is done (R23): every thread has exited and no child is left. -/
def State.allDone (s : State) (l : Launch) : Bool :=
  l.count == l.groups * l.tpg && s.launches.all (fun k => match k.origin with
    | .child p _ _ => p != l.uid
    | .queue _ _ _ => true)

/-- COMPLETION_RECORD_WRITE (R52). -/
def execCompletionRecordWrite (l : Nat) (s : State) : Host.Outcome State Fault Refusal :=
  match s.launch l with
  | none => .next s
  | some k => .next (match k.phase with
    | .waiting => s
    | .finishing (some _) => s
    | .finishing none => if s.allDone k then s.writeRecord k else s
    | .running =>
      if s.allDone k && k.page.isNone then
        match s.serialPhase k with
        | .ok _ s => s.writeRecord { k with reds := [] }
        | .rolled s => s
        | .wait s => s
        | .bad _ _ s => s
        | .absent va s =>
          if s.ends k.ctx then ({ s with launches := modWhere s.launches (·.uid == l) (fun x => { x with
            reds := x.reds.filter (fun r => r.va / 65536 != va.1 / 65536) }) } : State)
          else if s.requestsFull k.ctx.part (va.1 / 65536) then s
          else (s.requestPage k.ctx (va.1 / 65536) kindWrite).modLaunch l (fun x => { x with page := some (va.1 / 65536) })
      else s)

end Sys2Proof.Machine
end

