-- ==== Sys2Proof/Machine/PeerPort.lean ====
section
/-!
DEFINITION. The fabric port of the owning package (10 R261; 15 R379 to R381): what a peer request is checked for, how it is
performed, and the order of a flow.
-/

namespace Sys2Proof.Machine

/-- The bytes a request reads or writes. -/
def peerSize : PeerOp → Nat
  | .read n _ => n
  | .desc => 128
  | .write bytes _ _ => bytes.length
  | .atom _ wide _ _ => if wide then 8 else 4
  | .acas wide _ _ => if wide then 8 else 4
  | .acasc _ _ => 16

/-- What a request asks of its pages (R340 step 4); the read of a descriptor, that the page is tag-capable (R330). -/
def peerWant : PeerOp → Want
  | .read _ _ => .read
  | .desc => .tagRead
  | .write _ _ stc => if stc then .tagWrite else .write
  | .atom _ _ _ _ => .write
  | .acas _ _ _ => .write
  | .acasc _ _ => .tagWrite

/-- Kinds of a page request. -/
def peerKinds : PeerOp → Byte
  | .read _ _ => kindRead
  | .desc => kindRead
  | .write _ _ stc => if stc then kindWrite ||| kindTag else kindWrite
  | .atom _ _ _ _ => kindRead ||| kindWrite
  | .acas _ _ _ => kindRead ||| kindWrite
  | .acasc _ _ => kindRead ||| kindWrite ||| kindTag

/-- The port accepts a request (R380). -/
def State.peerAccepts (s : State) (p : PeerPacket) : Bool :=
  let e := s.part p.part
  (e.state == 1 || e.state == 4) && e.fabric == p.fabric && reachValid (e.reachEntry p.src)

/-- Where the pieces of a request lie: physical address, length and tag-capability, or what stops it. -/
inductive PeerSpan where
  | ok (l : List (Nat × Nat × Bool))
  | bad (c : FClass) (malformed : Bool)
  | absent (va : Nat)
  deriving DecidableEq, Repr

/-- Translates the pieces of a request (R338). -/
def State.peerSpan (s : State) (part : Nat) (w : Want) : List (Nat × Nat) → List (Nat × Nat × Bool) → PeerSpan
  | [], acc => .ok acc
  | (a, n) :: ps, acc => match s.xlate part a w with
    | .ok pa e _ => s.peerSpan part w ps (acc ++ [(pa, n, entryTC e)])
    | .bad c m => .bad c m
    | .absent => .absent a

/-- The walks of the pieces of a request (R271, R341). -/
def State.spanWalked (s : State) (part : Nat) (ps : List (Nat × Nat)) : State := ps.foldl (fun s x => s.translated none part x.1) s

/-- A tag that a packet carries, judged by this package's replica (R207, R223, R380). -/
def State.replicaTag (s : State) (part : Nat) (bits : Quad) (tag : Bool) : Bool :=
  tag && s.colourState part ({ bits := bits, tag := tag } : Cap).colour == 1

/-- A read of the pieces, as the other packages see them (R241): bytes, and tags as the replica of the partition judges them (R380), or an
error. -/
def State.peerRead (s : State) (part : Nat) (tagged : Bool) : List (Nat × Nat × Bool) → List Byte → List Bool → PeerResult × State
  | [], bs, ts => (.data bs ts, s)
  | (pa, n, tc) :: l, bs, ts =>
    let (bad, s) := ((s.settleFrame pa).chargeRead (s.frame (pa / 65536)).part pa n).readSeen fabSees (tagged && tc) pa n
    if bad then (.error FClass.uncorrectable.code, s)
    else State.peerRead s part tagged l (bs ++ s.seenBytes fabSees pa n) (ts ++ (granulesOf pa n).map (fun g =>
      tc && s.replicaTag part (BitVec.ofNat 128 (bytesNat (s.seenBytes fabSees (g * 16) 16))) (s.seenTag fabSees g)))

/-- A write of the pieces by a party that sees some of the pending writes; a tag is stored only on a tag-capable page. -/
def State.peerWrite (s : State) (see : PStore → Bool) (tag : Option Bool) : List (Nat × Nat × Bool) → List Byte → State
  | [], _ => s
  | (pa, n, tc) :: l, bs =>
    State.peerWrite (((s.settleFrame pa).chargeWrite (s.frame (pa / 65536)).part pa n).writeBy see pa (bs.take n) (if tc then tag else none))
      see tag l (bs.drop n)

/-- A read-modify-write at one place: what it answers and leaves. A `quiet` one gives its requester no value. Its write carries on the
releases that it reads from (R250). -/
def State.peerRmw (s : State) (pa n : Nat) (tagged tc quiet : Bool) (f : List Byte → Bool → Option (List Byte × Option Bool)) : PeerResult × State :=
  let s0 := (s.settleFrame pa).chargeAtomic (s.frame (pa / 65536)).part pa
  let (bad, s) := s0.readSeen seesAll (tagged && tc) pa n
  if bad then (.error FClass.uncorrectable.code, if s0.anyPoison pa n then s.countPoisoned pa else s)
  else
    let hs := s.headsAt seesAll pa n
    let s := s.commitWhere (fun p => p.touches pa n)
    let old := s.seenBytes seesAll pa n
    let tag := tc && s.seenTag seesAll (pa / 16)
    let s := match f old tag with
      | some (bytes, b) => (s.writeNow pa bytes b).keepHeads pa bytes hs
      | none => s
    (if quiet then .ack else .data old [tag], s)

/-- A request that reads and writes in one step. -/
def peerRmwOp : PeerOp → Bool
  | .read _ _ => false
  | .desc => false
  | .write _ _ _ => false
  | .atom _ _ _ _ => true
  | .acas _ _ _ => true
  | .acasc _ _ => true

/-- A request that writes without reading. -/
def peerWriteOp : PeerOp → Bool
  | .read _ _ => false
  | .desc => false
  | .write _ _ _ => true
  | .atom _ _ _ _ => false
  | .acas _ _ _ => false
  | .acasc _ _ => false

/-- An access from outside has to wait: its slice is held in reset (R354); an atomic is to follow a write that may not be seen yet
(R246), a write an atomic's (R230). -/
def State.accessWaits (s : State) (pa n : Nat) (rmw write : Bool) : Bool :=
  s.underReset pa || (rmw && s.writesHeld pa n (fun _ => false)) || (write && s.writeHeld pa n)

/-- An accepted, translated request is performed (R380). -/
def State.peerPerform (s : State) (p : PeerPacket) (l : List (Nat × Nat × Bool)) : PeerResult × State :=
  let pa := (l.headD (0, 0, false)).1
  let tc := (l.headD (0, 0, false)).2.2
  let n := peerSize p.op
  match p.op with
  | .read _ tagged => s.peerRead p.part tagged l [] []
  | .desc => s.peerRead p.part true l [] []
  | .write bytes tag _ =>
    let kept := tag.map (fun b => s.replicaTag p.part (BitVec.ofNat 128 (bytesNat bytes)) b)
    (.ack, s.peerWrite fabSees kept l bytes)
  | .atom op wide v quiet =>
    s.peerRmw pa n false tc quiet (fun b _ => some (natBytes n (atomVal op.toNat wide (bytesNat b) (v.toNat % 2 ^ (8 * n))), none))
  | .acas wide cmp new =>
    s.peerRmw pa n false tc false (fun b _ =>
      if bytesNat b = cmp.toNat % 2 ^ (8 * n) then some (natBytes n (if wide then new.toNat else new.toNat % 2 ^ 32), none) else none)
  | .acasc e v =>
    let (r, t) := s.peerRmw pa n true tc false (fun b tag =>
      if bytesNat b = e.bits.toNat && tag == e.tag then
        some (natBytes 16 v.bits.toNat, some (s.replicaTag p.part v.bits v.tag)) else none)
    (match r with
      | .data old tags => .data old (tags.map (s.replicaTag p.part (BitVec.ofNat 128 (bytesNat old))))
      | .ack => .ack
      | .error c => .error c, t)

/-- A request in its turn: its answer, or none while its page is absent and asked for (R338, R340). An uncorrectable read under a
protected launch rolls it back (R275). -/
def State.peerAct (s : State) (p : PeerPacket) : Option PeerResult × State :=
  if !s.peerAccepts p then (some (.error FClass.owner.code), s)
  else
    let ps := cut256 (peerSize p.op / 256 + 2) p.off (peerSize p.op)
    let s1 := s.spanWalked p.part ps
    match s.peerSpan p.part (peerWant p.op) ps [] with
    | .bad c m =>
      (some (.error c.code), match s1.walkLost p.part p.off c with
        | some s => s
        | none => if m then s1.emit (.malformedEntry p.part (p.off / 65536)) else s1)
    | .absent va =>
      (none, if s.requestsFull p.part (va / 65536) then s
        else s.requestPage { part := p.part, id := 0 } (va / 65536) (peerKinds p.op))
    | .ok l =>
      if l.any (fun x => s.accessWaits x.1 x.2.1 (peerRmwOp p.op) (peerWriteOp p.op)) then (none, s)
      else
      let (r, s) := s1.peerPerform p l
      match r, s.protectedLaunch p.part with
      | .error c, some k =>
        if c == FClass.uncorrectable.code then
          (some r, s.rollback k (l.flatMap (fun x => s.badGranules x.1 x.2.1)))
        else (some r, s)
      | _, _ => (some r, s)

/-! ## Flows (R261, R396) -/

/-- The package and partition whose flow a packet belongs to. -/
def flowHome (p : PeerPacket) : Nat × Nat := p.home.getD (p.src, p.srcPart)

/-- A packet belongs to a flow. -/
def InFlow.carries (f : InFlow) (p : PeerPacket) : Bool := (f.pkg, f.part) == flowHome p && f.cu == p.cu

/-- The flow of a packet. -/
def State.inFlow (s : State) (p : PeerPacket) : InFlow :=
  (s.inFlows.find? (·.carries p)).getD { pkg := (flowHome p).1, part := (flowHome p).2, cu := p.cu, next := 0, results := [], early := [] }

/-- Writes a flow. -/
def State.setFlow (s : State) (f : InFlow) : State :=
  let same := fun (g : InFlow) => g.pkg == f.pkg && g.part == f.part && g.cu == f.cu
  { s with inFlows := if s.inFlows.any same then modWhere s.inFlows same (fun _ => f) else s.inFlows ++ [f] }

/-- An answer goes back with the requester's generation (R381), by the port that the request came by. -/
def State.answerPeer (s : State) (p : PeerPacket) (r : PeerResult) : State :=
  s.emit (.reply p.src { pkg := (s.part p.part).pkg.toNat, part := p.srcPart, cu := p.cu, seq := p.seq, home := p.home, gen := p.gen, port := p.port, result := r })

/-- Performs what a flow has in order, until a packet is missing or waits for its page. -/
def drainFlow : Nat → State → InFlow → State
  | 0, s, f => s.setFlow f
  | k + 1, s, f =>
    match f.early.find? (·.seq == f.next) with
    | none => s.setFlow f
    | some p => match s.peerAct p with
      | (none, s) => s.setFlow f
      | (some r, s) =>
        drainFlow k (s.answerPeer p r) { f with
          next := f.next + 1, results := kvPut f.results f.next r, early := f.early.filter (·.seq != f.next) }

/-- Every flow goes on with what it holds. -/
def State.drainFlows (s : State) : State := s.inFlows.foldl (fun s f => drainFlow f.early.length s f) s

/-- The packets at the heads of their flows that wait for a page of a partition fail with PAGE_PERM (R353). -/
def State.failFlows (s : State) (part page : Nat) : State :=
  (s.inFlows.foldl (fun s f => match f.early.find? (·.seq == f.next) with
    | some p =>
      if p.part == part && p.off / 65536 == page then
        let r := PeerResult.error FClass.pagePerm.code
        (s.answerPeer p r).setFlow { f with
          next := f.next + 1, results := kvPut f.results f.next r, early := f.early.filter (·.seq != f.next) }
      else s
    | none => s) s).drainFlows

/-- The last generation learned for a source partition is newer than a packet's (R381). Generations wrap at 2^16, and the spec does not say
when one that has wrapped counts as older: here one that lies 1 to 2^15 - 1 below the learned value does, any other counts as current or
newer (DESIGN CHOICE, log entry 89). -/
def State.stalePeer (s : State) (pkg part : Nat) (gen : BitVec 16) : Bool :=
  match s.peerGens.find? (fun x => x.1 == pkg && x.2.1 == part) with
  | some (_, _, g) => let d := (g - gen).toNat; 0 < d && d < 2 ^ 15
  | none => false

end Sys2Proof.Machine
end

