-- ==== Sys2Proof/Machine/Responses.lean ====
section
/-!
DEFINITION. What comes back to the CUs: results in flight (08 R209; 15 R360), writes performed (10 R240 to R254),
page replies (14 R353).
-/

namespace Sys2Proof.Machine

/-- MEMORY_RESPONSE (R209, R360): a late load's registers are written; a result of an old generation is dropped. -/
def execMemoryResponse (k : Nat) (s : State) : Host.Outcome State Fault Refusal :=
  match s.flights.find? (fun f => f.req == k) with
  | none => .next s
  | some f =>
    .next (if f.gen != (s.part f.part).gen then ({ s with flights := s.flights.filter (fun g => g.req != k) } : State)
      else (s.landFlight f).settleAll.wakeMet)

/-- A pending write once it is performed with respect to some observers. -/
def PStore.performed (p : PStore) : Observer → PStore
  | .grp => { p with grp := true }
  | .cu n => { p with hidden := p.hidden.filter (· != n) }
  | .cmd => { p with hidden := p.hidden.filter (· != obsCmd) }
  | .fab => { p with hidden := p.hidden.filter (· != obsFab) }
  | .sys => p

/-- STORE_PERFORMED (R240, R242, R252, R254): a pending write is performed with respect to some observers, in an order of its own; at
`.sys` it leaves the order, after those it follows in some byte. A write to data SRAM is seen by all at once (R243). -/
def execStorePerformed (k : Nat) (obs : Observer) (s : State) : Host.Outcome State Fault Refusal :=
  match s.stores[k]? with
  | none => .next s
  | some p =>
    if p.done || s.storeWaits p then .next s
    else if obs == .sys then
      let is := s.storesBefore [k]
      if (is.filterMap (fun i => s.stores[i]?)).any s.storeWaits then .next s else .next (s.commitAt is).wakeMet
    else if p.single then .next s
    else
      let q := p.performed obs
      .next (({ s with stores := s.stores.set k q } : State).wakeSeen p (fun id => match s.thread id with
        | some t => t.sees q
        | none => false)).wakeMet

/-! ## Page replies -/

/-- The outstanding request a reply names: of the current generation, and the register write is taken (R353, R417, R418). -/
def State.replyFor (s : State) (vf : Nat) (id gen : BitVec 16) : Option PageReq :=
  if gen != (s.part vf).gen || !(s.vf vf).enabled || (s.vf vf).tdisp == .error || !s.hostLink then none else (s.vf vf).reqs.find? (fun r => r.id == id)

/-- The request is complete; held ones may now be written. -/
def State.closeRequest (s : State) (vf page : Nat) : State :=
  (s.modVf vf (fun v => { v with reqs := v.reqs.filter (fun r => r.page != page) })).writeRequests vf

/-- The threads of a partition whose logged access waits for a page. -/
def State.loggedOn (s : State) (part page : Nat) : List TId :=
  (s.allThreads.filter (fun t => t.ctx.part == part && t.log.any (fun o => o.page == page && o.failed.isNone))).map (·.id)

/-- Fetches, launches, records and queues of a partition that wait for a page go on. -/
def State.freeHolds (s : State) (part page : Nat) : State :=
  let mine := fun (uid : Nat) => ((s.launch uid).map (fun l => l.ctx.part == part)).getD false
  let train := fun (r : Train) => if mine r.launch && r.page.map (· / 65536) == some page then { r with page := none } else r
  let launch := fun (l : Launch) =>
    if l.ctx.part != part then l
    else { l with
      page := if l.page == some page then none else l.page
      phase := if l.phase == .finishing (some page) then .finishing none else l.phase }
  let s : State := { s with trains := s.trains.map train, launches := s.launches.map launch }
  s.modVf part (fun v => { v with queues := v.queues.map (fun (q : QueueRegs) => if q.page == some page then { q with page := none } else q) })

/-- The queue entries of a partition held on a page. -/
def State.heldEntries (s : State) (part page : Nat) : List (CtxId × Nat × Nat × EngineEntry) :=
  (s.contexts.filter (fun c => c.id.part == part)).flatMap (fun c => c.queues.flatMap (fun q =>
    (q.entries.take 1).filterMap (fun e => if e.page.any (fun x => x.1 == page) then some (c.id, q.cu, q.q, e) else none)))

/-- A write of PRREPLY that names no outstanding request is ignored; as a write of a register of the page-request set it still has the
device try a held write again (R351, R353). -/
def State.replyIgnored (s : State) (vf : Nat) : State :=
  if !(s.vf vf).enabled || (s.vf vf).tdisp == .error || !s.hostLink then s else s.writeRequests vf

/-- A saved thread's logged access is performed when the context is restored (R353). -/
def Context.pageReady (c : Context) (page : Nat) : Context :=
  let due := fun (t : Thread) => match t.log with
    | some o => if o.page == page && o.failed.isNone then { t with log := some { o with ready := true } } else t
    | none => t
  { c with image := c.image.map (fun (i : Image) => { i with threads := i.threads.map due }) }

/-- PRREPLY, resolved (R353). -/
def execPrreplyResolved (vf : Nat) (id gen : BitVec 16) (s : State) : Host.Outcome State Fault Refusal :=
  match s.replyFor vf id gen with
  | none => .next (s.replyIgnored vf)
  | some r =>
    let s : State := { s with contexts := modWhere s.contexts (fun c => c.id.part == vf) (·.pageReady r.page) }
    let s := (s.closeRequest vf r.page).freeHolds vf r.page
    let s := (s.heldEntries vf r.page).foldl (fun s x => s.putHead x.1 x.2.1 x.2.2.1 { x.2.2.2 with page := none }) s
    .next (((s.loggedOn vf r.page).foldl (fun s t => s.replayThread t) s).drainFlows.wakeMet)

/-- A thread's access to a page its host called invalid fails: a logged one at its replay, a parked `acasc` or
`wadr` at its instruction (R353). -/
def Thread.failPage (t : Thread) (page : Nat) : Thread :=
  let t := match t.log with
    | some o => if o.page == page && o.failed.isNone then { t with log := some { o with failed := some .pagePerm } } else t
    | none => t
  match t.run with
  | .parked (.late (.page va)) _ => if va / 65536 == page then { t with pageFail := some page } else t
  | .train (some { cond := .page va, .. }) => if va / 65536 == page then { t with pageFail := some page } else t
  | _ => t

/-- A saved context's threads and queues learn of an invalid page (R353). -/
def Context.failPage (c : Context) (page : Nat) : Context :=
  { c with image := c.image.map (fun (i : Image) => { i with threads := i.threads.map (·.failPage page) }) }

/-- A launch's access to a page its host called invalid fails: a descriptor's read refuses it, a record's write is given up, and in the
serial phase the contributions to the page are lost (R332, R353; log entry 60). -/
def State.launchFails (s : State) (l : Launch) (page : Nat) : State :=
  match l.phase with
  | .waiting => s.refuse l 0x02
  | .finishing _ => s.boundary l 0x0A
  | .running => s.modLaunch l.uid (fun x => { x with page := none, reds := x.reds.filter (fun r => r.va / 65536 != page) })

/-- PRREPLY, invalid (R353). -/
def execPrreplyInvalid (vf : Nat) (id gen : BitVec 16) (s : State) : Host.Outcome State Fault Refusal :=
  match s.replyFor vf id gen with
  | none => .next (s.replyIgnored vf)
  | some r =>
    let held := s.heldEntries vf r.page
    let logged := s.loggedOn vf r.page
    let mine := fun (uid : Nat) => ((s.launch uid).map (fun l => l.ctx.part == vf)).getD false
    let trains := s.trains.filter (fun t => mine t.launch && t.page.map (· / 65536) == some r.page)
    let launches := s.launches.filter (fun l => l.ctx.part == vf && (l.page == some r.page || l.phase == .finishing (some r.page)))
    let queues := (List.range 64).filter (fun q => ((s.vf vf).queues.getD q QueueRegs.reset).page == some r.page)
    let s := s.closeRequest vf r.page
    let s := s.modThreads (fun t => t.ctx.part == vf) (·.failPage r.page)
    let s : State := { s with contexts := modWhere s.contexts (fun c => c.id.part == vf) (·.failPage r.page) }
    let s := logged.foldl (fun s t => s.logCleared t) s
    let s := held.foldl (fun s x => s.endHead x.1 x.2.1 x.2.2.1 x.2.2.2 (some (.pagePerm, BitVec.ofNat 64 ((x.2.2.2.page.map (·.2)).getD 0)))) s
    let s := trains.foldl (fun s t => s.faultTrain t .pagePerm (BitVec.ofNat 64 (t.page.getD 0)) none) s
    let s := launches.foldl (fun s l => s.launchFails l r.page) s
    let s := queues.foldl (fun s q =>
      (s.stopQueue vf q (let r := (s.vf vf).queues.getD q QueueRegs.reset; r.qhead % 2 ^ r.qsize) 0x02).modVf vf (fun v => { v with
        queues := modAt v.queues q (fun x => { x with page := none }) })) s
    .next (s.failFlows vf r.page).wakeMet

end Sys2Proof.Machine
end

