-- ==== Sys2Proof/Machine/Queues.lean ====
section
/-!
DEFINITION. Command queues (13 R333, R334), the handle table (15 R361), and the registers of a virtual function
(14 R346, R350; 15 R374; 19 R433, R457).
-/

namespace Sys2Proof.Machine

/-- A queue's registers. -/
def State.qregs (s : State) (vf q : Nat) : QueueRegs := (s.vf vf).queues.getD q QueueRegs.reset

/-- Changes a queue's registers. -/
def State.modQregs (s : State) (vf q : Nat) (f : QueueRegs → QueueRegs) : State :=
  s.modVf vf (fun v => { v with queues := modAt v.queues q f })

/-- The entry count (R333). -/
def QueueRegs.count (r : QueueRegs) : Nat := 2 ^ r.qsize

/-- Where the next entry is: QTAIL and QHEAD count modulo the entry count (R333). -/
def QueueRegs.head (r : QueueRegs) : Nat := r.qhead % r.count
def QueueRegs.tail (r : QueueRegs) : Nat := r.qtail % r.count

/-- The command processor may read the next entry (R333, R334, R358, R417): the queue runs, is bound and not
stopped, holds an entry, and no launch or HANDLE of it waits; nor does an access of the function's host, which came before the tail
pointer's write or is not ordered by it (R260). -/
def State.mayRead (s : State) (vf q : Nat) : Bool :=
  let r := s.qregs vf q
  (s.vf vf).enabled && r.run && !r.stopped && r.bound.isSome && r.page.isNone && r.handle.isNone && r.head != r.tail
    && (s.part vf).state == 1 && !(s.part vf).closing && (s.vf vf).tdisp != .error && !s.hostWaits.any (·.vf == vf)
    && s.launches.all (fun l => match l.origin with
      | .queue v p _ => !(v == vf && p == q && l.phase == .waiting)
      | .child _ _ _ => true)

/-- What a command entry is. -/
inductive Command where
  | nop
  | launch (serial : Bool) (desc : Nat)
  | handle (h : Nat) (entry : Option Nat)
  | bad
  deriving DecidableEq, Repr

/-- The handle-table entry a HANDLE command asks for; none if a value is out of its limits (R334, R361). -/
def handleEntry (bs : List Byte) : Option Nat :=
  let b := fun (o : Nat) => blockNat bs o 1
  let off := blockNat bs 0x0C 4
  if 63 < b 8 then none
  else match b 9 with
    | 0 => if blockNat bs 0x0A 8 = 0 then some 0 else none
    | 1 =>
      if b 0x0A < 2 || 64 < b 0x0A || 3 < b 0x0B || off % 16 != 0 || 2 ^ 20 ≤ off || 3 < b 0x10 || 3 < b 0x11 then none
      else some (1 + b 0x0A * 2 ^ 8 + b 0x0B * 2 ^ 18 + b 0x10 * 2 ^ 20 + b 0x11 * 2 ^ 22 + off / 16 * 2 ^ 24)
    | 2 => if 16 ≤ b 0x0A || blockNat bs 0x0B 7 != 0 then none else some (2 + b 0x0A * 2 ^ 8)
    | _ => none

/-- Reads an entry's 64 bytes (R334). -/
def commandOf (bs : List Byte) : Command :=
  let z := fun (o n : Nat) => blockNat bs o n == 0
  match blockNat bs 0 1 with
  | 0 => if z 1 63 then .nop else .bad
  | 1 =>
    let a := blockNat bs 8 8
    if blockNat bs 1 1 < 2 && z 2 6 && z 16 48 && a % 128 == 0 then .launch (blockNat bs 1 1 == 1) a else .bad
  | 2 => if z 1 7 && z 0x12 46 then .handle (blockNat bs 8 1) (handleEntry bs) else .bad
  | _ => .bad

/-- A command is refused (R333). -/
def State.refuseCommand (s : State) (vf q : Nat) (code : Byte) : State := s.stopQueue vf q (s.qregs vf q).head code

/-- QHEAD moves past the entry just read. -/
def State.passEntry (s : State) (vf q : Nat) : State := s.modQregs vf q (fun r => { r with qhead := (r.head + 1) % r.count })

/-- An entry cannot be read: it is refused with 0x02 and a malformed table entry reported (R340), but an uncorrectable read under a
protected launch rolls that back (R275). -/
def State.lostCommand (s : State) (vf q va : Nat) (c : FClass) (m : Bool) : State :=
  match s.walkLost vf va c with
  | some s => s
  | none => (if m then s.emit (.malformedEntry vf (va / 65536)) else s).refuseCommand vf q 0x02

/-- The next entry is read; a malformed one is refused, one that cannot be read is refused with 0x02, an absent
page holds the queue; any other goes to `f`. -/
def commandStep (vf q : Nat) (s : State) (f : State → Command → State) : Host.Outcome State Fault Refusal :=
  if !s.mayRead vf q then .next s
  else
    let r := s.qregs vf q
    let va := r.qbase.toNat + 64 * r.head
    .next (if 2 ^ 56 < va + 64 then s.refuseCommand vf q 0x02
      else match s.xlate vf va .read with
        | .absent =>
          if s.requestsFull vf (va / 65536) then s
          else (s.requestPage { part := vf, id := r.bound.getD 0 } (va / 65536) kindRead).modQregs vf q (fun r => { r with page := some (va / 65536) })
        | .bad c m => (s.translated none vf va).lostCommand vf q va c m
        | .ok pa _ _ =>
          if s.underReset pa then s
          else
          let (bad, s) := (((s.translated none vf va).settleFrame pa).chargeRead vf pa 64).readSeen (fetchSees vf) false pa 64
          if bad then match s.protectedLaunch vf with
            | some k => s.rollback k (s.badGranules pa 64)
            | none => s.refuseCommand vf q 0x02
          else match commandOf (s.seenBytes (fetchSees vf) pa 64) with
            | .bad => s.refuseCommand vf q 0x01
            | c => f s c)

/-- CMD_NOP (R334). -/
def execCmdNop (vf q : Nat) (s : State) : Host.Outcome State Fault Refusal :=
  commandStep vf q s fun s c => match c with
    | .nop => s.passEntry vf q
    | .launch _ _ => s
    | .handle _ _ => s
    | .bad => s

/-- CMD_LAUNCH (R334, R386): the launch is made. It takes its period once it is accepted; until then no later entry of its queue is read. -/
def execCmdLaunch (vf q : Nat) (s : State) : Host.Outcome State Fault Refusal :=
  commandStep vf q s fun s c => match c with
    | .launch serial desc =>
      let r := s.qregs vf q
      let ctx : CtxId := { part := vf, id := r.bound.getD 0 }
      let l := { Launch.fresh s.nextLaunch ctx (.queue vf q r.head) 0 (BitVec.ofNat 64 desc) [] [] (s.part vf).gen r.period with
                 serial := serial }
      let s : State := { s with nextLaunch := s.nextLaunch + 1, launches := s.launches ++ [l] }
      s.passEntry vf q
    | .nop => s
    | .handle _ _ => s
    | .bad => s

/-- A HANDLE command that has been read writes its entry once no launch of the context runs (R334, R361). -/
def State.putHandle (s : State) (vf q : Nat) : State :=
  let ctx : CtxId := { part := vf, id := (s.qregs vf q).bound.getD 0 }
  match (s.qregs vf q).handle with
  | none => s
  | some (h, e) =>
    if s.launches.any (fun l => l.ctx == ctx && l.phase != .waiting) then s
    else (s.modContext ctx (fun (x : Context) => { x with handles := x.handles.set h (BitVec.ofNat 64 e) })).modQregs vf q
      (fun r => { r with handle := none })

/-- CMD_HANDLE (R333, R334, R361): the entry is read, QHEAD moves past it, and it is carried out once it may be. -/
def execCmdHandle (vf q : Nat) (s : State) : Host.Outcome State Fault Refusal :=
  if (s.qregs vf q).handle.isSome then .next (s.putHandle vf q)
  else commandStep vf q s fun s c => match c with
    | .handle h (some e) => ((s.modQregs vf q (fun r => { r with handle := some (h, e) })).passEntry vf q).putHandle vf q
    | .handle _ none => s.refuseCommand vf q 0x08
    | .nop => s
    | .launch _ _ => s
    | .bad => s

/-! ## Registers of a virtual function -/

/-- A register write that the virtual function takes: none while it is disabled or in ERROR, or its link drops it (R417, R418, R433). -/
def regWrite (vf : Nat) (s : State) (f : State → State) : Host.Outcome State Fault Refusal :=
  .next (if (s.vf vf).enabled && (s.vf vf).tdisp != .error && s.hostLink then f s else s)

/-- A write to a bound command queue's registers; an unbound set ignores it (R333). -/
def queueWrite (vf q : Nat) (s : State) (f : State → State) : Host.Outcome State Fault Refusal :=
  regWrite vf s fun s => if (s.qregs vf q).bound.isSome && q < 64 then f s else s

/-- QTAIL, the doorbell (R260, R333). -/
def execQtail (vf q : Nat) (v : BitVec 32) (s : State) : Host.Outcome State Fault Refusal :=
  queueWrite vf q s fun s => s.modQregs vf q (fun r => { r with qtail := v.toNat % 2 ^ 16 % r.count })

/-- QSTAT.run (R333, R382). -/
def execQstatRun (vf q : Nat) (run : Bool) (s : State) : Host.Outcome State Fault Refusal :=
  queueWrite vf q s fun s => s.modQregs vf q (fun r =>
    if run && !r.run then { r with run := true, period := 0 } else { r with run := run })

/-- QSTAT.stopped is cleared (R333, R404): a refused entry is skipped, not one of codes 0x09 and 0x0A. -/
def execQstatClearStopped (vf q : Nat) (s : State) : Host.Outcome State Fault Refusal :=
  queueWrite vf q s fun s => s.modQregs vf q (fun r =>
    if !r.stopped then r
    else if r.errCode = 0x09 || r.errCode = 0x0A then { r with stopped := false }
    else { r with stopped := false, qhead := (r.head + 1) % r.count })

/-- VF error register: valid, more and cause are cleared (R457). -/
def execVfErrorClear (vf : Nat) (s : State) : Host.Outcome State Fault Refusal :=
  regWrite vf s fun s => s.modVf vf (fun v => { v with errValid := false, errMore := false, errCause := 0 })

/-- A register base is frozen by LOCK_INTERFACE (R417). -/
def State.baseWrite (s : State) (vf : Nat) (f : State → State) : State := if s.frozen vf then s.tdispError vf else f s

/-- A size register's value: others read back as 4 (R333, R350). -/
def sizeValue (v lo hi : Nat) : Nat := if lo ≤ v && v ≤ hi then v else 4

/-- A mailbox write: its address is misaligned, and recorded, or the call joins the firmware's list (R346, R374). -/
def State.mailbox (s : State) (vf : Nat) (v : Word64) (cause : Byte) (f : Vf → Call → Vf) : State :=
  if v.toNat % 32 != 0 then s.vfError vf cause v
  else s.modVf vf (fun x => f x { caller := none, addr := v, status := none, kept := [], manifest := [] })

/-- Writes to the page-request set (R350). -/
def State.pageRegs (s : State) (vf off : Nat) (v : Word64) : State :=
  let x := s.vf vf
  match off with
  | 0x00 => if x.prRun then s else s.baseWrite vf (fun s => s.modVf vf (fun x => { x with prBase := v &&& ~~~(63#64) }))
  | 0x08 => if x.prRun then s else s.modVf vf (fun x => { x with prSize := sizeValue (v.toNat % 16) 4 12 })
  | 0x18 => s.modVf vf (fun x => { x with prHead := v.toNat % 2 ^ 16 % 2 ^ x.prSize })
  | 0x28 => s.modVf vf (fun x => { x with prRun := v.getLsbD 31 })
  | _ => s

/-- Writes to a command queue's plain registers (R333). -/
def State.queueRegs (s : State) (vf q off : Nat) (v : Word64) : State :=
  let r := s.qregs vf q
  if r.run || r.bound.isNone then s
  else match off with
    | 0x00 => s.baseWrite vf (fun s => s.modQregs vf q (fun r => { r with qbase := v &&& ~~~(63#64) }))
    | 0x08 => s.modQregs vf q (fun r => { r with qsize := sizeValue (v.toNat % 32) 4 16 })
    | _ => s

/-- REGISTER_WRITE (R333, R346, R350, R374, R433): a register of the page-request set retries a held request. -/
def execRegisterWrite (vf off : Nat) (v : Word64) (s : State) : Host.Outcome State Fault Refusal :=
  regWrite vf s fun s =>
    if 0x1000 ≤ off && off < 0x2000 then s.queueRegs vf ((off - 0x1000) / 0x40) (off % 0x40) v
    else if 0x3000 ≤ off && off < 0x3030 then (s.pageRegs vf (off - 0x3000) v).writeRequests vf
    else if off = 0x3040 then s.mailbox vf v 0x04 (fun x c => { x with mapCalls := x.mapCalls ++ [c] })
    else if off = 0x3048 then s.mailbox vf v 0x05 (fun x c => { x with catCalls := x.catCalls ++ [c] })
    else s

/-- What the host reads at an offset of a command-queue set (R333). -/
def QueueRegs.read (r : QueueRegs) (off : Nat) : Word64 :=
  if r.bound.isNone then 0
  else match off with
    | 0x00 => r.qbase
    | 0x08 => BitVec.ofNat 64 r.qsize
    | 0x10 => BitVec.ofNat 64 r.tail
    | 0x18 => BitVec.ofNat 64 r.head
    | 0x20 => BitVec.ofNat 64 (r.run.toNat * 2 ^ 31 + r.stopped.toNat * 2 ^ 30 + r.errIndex.toNat * 2 ^ 8 + r.errCode.toNat)
    | _ => 0

/-- A sum of an event counter over a partition's slices (R391). -/
def State.sumEvents (s : State) (part : Nat) (f : Events → Word64) : Word64 :=
  (s.part part).map.foldl (fun n k => n + f (s.slice k).events) 0

/-- What the host reads from a register of a virtual function; none: it does not answer (R333, R350, R391, R417, R433, R457). A read
changes nothing. -/
def State.readReg (s : State) (vf off : Nat) : Option Word64 :=
  let x := s.vf vf
  if !x.enabled || x.tdisp == .error then none
  else some (if 0x1000 ≤ off && off < 0x2000 then (s.qregs vf ((off - 0x1000) / 0x40)).read (off % 0x40)
    else match off with
      | 0x3000 => x.prBase
      | 0x3008 => BitVec.ofNat 64 x.prSize
      | 0x3010 => BitVec.ofNat 64 (x.prTail % 2 ^ x.prSize)
      | 0x3018 => BitVec.ofNat 64 (x.prHead % 2 ^ x.prSize)
      | 0x3028 => BitVec.ofNat 64 (x.prRun.toNat * 2 ^ 31)
      | 0x3080 => s.sumEvents vf (·.soft)
      | 0x3088 => s.sumEvents vf (·.corrected)
      | 0x3090 => BitVec.ofNat 64 (x.errValid.toNat * 2 ^ 31 + x.errMore.toNat * 2 ^ 30 + x.errCause.toNat)
      | 0x3098 => x.errAddr
      | _ => 0)

end Sys2Proof.Machine
end

