-- ==== Sys2Proof/Machine/Evidence.lean ====
section
/-!
DEFINITION. The blocks of a partition's evidence (18 R413, R415): what they measure, and when they are measured.
-/

namespace Sys2Proof.Machine

/-- A frame granted to a partition, quarantined ones included. -/
def State.grantedTo (s : State) (f part : Nat) : Bool :=
  ((s.frame f).state == 1 || (s.frame f).state == 4) && (s.frame f).part == part

/-- The 32 bytes of a partition's entry (R357). -/
def Partition.bytes (p : Partition) : List Byte :=
  let mask := p.map.foldl (fun m n => m + 2 ^ n) 0
  let map := (List.range p.n).foldl (fun v i => v + p.map.getD i 0 * 16 ^ i) 0
  natBytes 1 p.state ++ natBytes 1 p.n ++ natBytes 2 p.gen.toNat ++ natBytes 2 mask ++ natBytes 2 p.fabric.toNat ++ natBytes 8 map
    ++ natBytes 8 p.root ++ natBytes 2 p.pkg.toNat ++ natBytes 6 0

/-- The 4,096 bytes of its reach table (R378): the own entry is always valid, with port mask 0. -/
def Partition.reachBytes (p : Partition) : List Byte :=
  (List.range 1024).flatMap (fun k => natBytes 4 (if k = p.pkg.toNat then 2 ^ 31 else (p.reachEntry k).toNat))

/-- The catalogue entries of a partition's slices in entry order (R371, R415). -/
def State.models (s : State) (part : Nat) : List CatEntry :=
  (s.part part).map.flatMap (fun n => (s.slice n).cat.filter (fun e => e.state == 1 || e.state == 2))

/-- Debug is attached to some context of a partition. -/
def State.debugged (s : State) (part : Nat) : Bool := s.contexts.any (fun c => c.id.part == part && c.session.isSome)

/-- The frames granted to a partition in grant order (R337, R344): one that was reclaimed and granted again stands at its last grant. -/
def lastGrants : List Nat → List Nat
  | [] => []
  | f :: fs => if fs.contains f then lastGrants fs else f :: lastGrants fs

/-- The scrub receipts of the frames granted to a partition, in grant order, each once: a frame's is the last that covers it (R280). -/
def State.receiptsOf (s : State) (part : Nat) : List (Nat × Nat × List Byte) :=
  let p := s.part part
  ((lastGrants p.grants).filterMap (fun f =>
    if s.grantedTo f part then p.receipts.reverse.find? (fun r => r.1 ≤ f && f < r.1 + r.2.1) else none)).eraseDups

/-- Block i of a partition's evidence, with the state and time block 9 carries (R415). -/
def State.evidenceBlock (s : State) (part i : Nat) (state time : Nat) : List Byte :=
  let dig := fun (b : List Byte) => natBytes 48 (Config.sha384 b).toNat
  let p := s.part part
  match i with
  | 6 => dig (p.bytes ++ p.reachBytes)
  | 7 => dig ((s.models part).flatMap (fun e => natBytes 48 e.digest.toNat))
  | 8 => dig ((s.receiptsOf part).flatMap (fun r => r.2.2))
  | 9 => natBytes 1 state ++ [if s.debugged part then 1 else 0] ++ natBytes 6 0 ++ natBytes 8 time
  | _ => natBytes 48 ((s.curator.digests[i - 1]?).getD (Config.firmwareDigest s.curator.boot i)).toNat

/-- Blocks 1 to 9. -/
def State.evidenceBlocks (s : State) (part : Nat) : List Byte :=
  (List.range 9).flatMap (fun i => s.evidenceBlock part (i + 1) (s.part part).state s.time)

/-- Block i of blocks as kept: 48 bytes each, 16 for block 9. -/
def keptBlock (bs : List Byte) (i : Nat) : List Byte := (bs.drop (48 * (i - 1))).take (if i = 9 then 16 else 48)

/-- A partition is measured: its blocks are kept (R413, R416). -/
def State.measure (s : State) (part : Nat) : State :=
  { s with curator := { s.curator with lastBlocks := (part, s.evidenceBlocks part) :: s.curator.lastBlocks.filter (·.1 != part) } }

/-- A partition's table entry, its reach table or its catalogue has changed: its blocks are measured anew, whatever its state, so that a
partition that has never run has blocks too (R413; DESIGN CHOICE, log entry 92). -/
def State.remeasure (s : State) (part : Nat) : State := if (s.part part).state = 0 then s else s.measure part

end Sys2Proof.Machine
end

