-- ==== Sys2Proof/Machine/Saved.lean ====
section
/-!
DEFINITION. The compressed TRS sections of a saved image (17 R399, R400): the threads of a group in chunks of 16, register by register,
each in the shortest format; and the threads of an image with their registers in place.
-/

namespace Sys2Proof.Machine

/-- The signed distance of a word from another, if it lies within `bits`. -/
def deltaOf (v0 v : Word) (bits : Nat) : Option Nat :=
  let d := (v - v0).toInt
  if -(2 : Int) ^ (bits - 1) ≤ d && d < (2 : Int) ^ (bits - 1) then some (v - v0).toNat else none

/-- The deltas of sixteen words, if all lie within `bits`. -/
def deltasOf (v0 : Word) (vs : List Word) (bits : Nat) : Option (List Nat) :=
  vs.foldr (fun v acc => match acc, deltaOf v0 v bits with
    | some l, some d => some (d :: l)
    | _, _ => none) (some [])

/-- One register of a chunk: its format byte and payload, the shortest that reproduces every value (R400). -/
def packReg (vs : List Word) : List Byte :=
  let v0 := vs.headD 0
  let word := fun (v : Word) => natBytes 4 v.toNat
  if vs.all (· == 0) then [0x00]
  else if vs.all (· == v0) then 0x01 :: word v0
  else match deltasOf v0 vs 8 with
    | some ds => 0x02 :: (word v0 ++ ds.map (BitVec.ofNat 8))
    | none => match deltasOf v0 vs 16 with
      | some ds => 0x03 :: (word v0 ++ ds.flatMap (natBytes 2))
      | none => 0x04 :: vs.flatMap word

/-- Splits a payload of n bytes off; none if the section ends inside it. -/
def takeBytes (n : Nat) (bs : List Byte) : Option (List Byte × List Byte) := if bs.length < n then none else some (bs.take n, bs.drop n)

/-- The little-endian values of n fields of k bytes. -/
def fieldsOf (k : Nat) : Nat → List Byte → List Nat
  | 0, _ => []
  | n + 1, bs => bytesNat (bs.take k) :: fieldsOf k n (bs.drop k)

/-- Reads one register of a chunk: its sixteen values and the rest; none for any other format byte (R400). -/
def unpackReg (bs : List Byte) : Option (List Word × List Byte) :=
  match bs with
  | [] => none
  | b :: bs =>
    let word := fun (l : List Byte) => BitVec.ofNat 32 (bytesNat l)
    match b.toNat with
    | 0 => some (List.replicate 16 0, bs)
    | 1 => (takeBytes 4 bs).map (fun r => (List.replicate 16 (word r.1), r.2))
    | 2 => (takeBytes 20 bs).map (fun r =>
        ((fieldsOf 1 16 (r.1.drop 4)).map (fun d => word (r.1.take 4) + (BitVec.ofNat 8 d).signExtend 32), r.2))
    | 3 => (takeBytes 36 bs).map (fun r =>
        ((fieldsOf 2 16 (r.1.drop 4)).map (fun d => word (r.1.take 4) + (BitVec.ofNat 16 d).signExtend 32), r.2))
    | 4 => (takeBytes 64 bs).map (fun r => ((fieldsOf 4 16 r.1).map (BitVec.ofNat 32), r.2))
    | _ => none

/-- Registers of a chunk from a list of rows, one row of sixteen values for each register. -/
def packRows (rows : List (List Word)) : List Byte := rows.flatMap packReg

/-- Reads n rows. -/
def unpackRows : Nat → List Byte → Option (List (List Word) × List Byte)
  | 0, bs => some ([], bs)
  | n + 1, bs => match unpackReg bs with
    | none => none
    | some (vs, bs) => (unpackRows n bs).map (fun r => (vs :: r.1, r.2))

/-- Reads the chunks of a section; bytes left over are no section's. -/
def unpackChunks (regs : Nat) : Nat → List Byte → Option (List (List (List Word)))
  | 0, bs => if bs.isEmpty then some [] else none
  | n + 1, bs => match unpackRows regs bs with
    | none => none
    | some (rows, bs) => (unpackChunks regs n bs).map (rows :: ·)

/-- The sixteen values of register r in chunk j of a group: a thread that is not there holds what the chunk's first does. -/
def rowOf (ts : List Thread) (j r : Nat) : List Word :=
  let val := fun (n : Nat) => (ts.find? (fun t => t.id.num == n)).map (·.reg r)
  let first := ((List.range 16).findSome? (fun i => val (16 * j + i))).getD 0
  (List.range 16).map (fun i => (val (16 * j + i)).getD first)

/-- The section of a group of n threads. -/
def packGroup (ts : List Thread) (launch group n regs : Nat) : TrsSection :=
  let mine := ts.filter (fun t => t.id.launch == launch && t.id.group == group)
  { launch := launch, group := group, regsPer := regs, threads := n
    bytes := (List.range ((n + 15) / 16)).flatMap (fun j => packRows ((List.range regs).map (rowOf mine j))) }

/-- The sections of an image's groups. -/
def packAll (gs : List Group) (ts : List Thread) : List TrsSection := gs.map (fun g => packGroup ts g.launch g.num g.threads g.regsPer)

/-- A section decodes (R400). -/
def TrsSection.rows (c : TrsSection) : Option (List (List (List Word))) := unpackChunks c.regsPer ((c.threads + 15) / 16) c.bytes

/-- Gives a thread the registers its group's section holds. -/
def Thread.withRows (t : Thread) (rows : List (List (List Word))) : Thread :=
  { t with regs := (rows.getD (t.id.num / 16) []).map (fun row => row.getD (t.id.num % 16) 0) }

/-- The threads of an image with their registers; none if a section does not decode, and the restore fails. -/
def Image.full (i : Image) : Option (List Thread) :=
  i.threads.foldr (fun t acc => match acc, (i.trs.find? (fun c => c.launch == t.id.launch && c.group == t.id.group)).bind TrsSection.rows with
    | some l, some rows => some (t.withRows rows :: l)
    | _, _ => none) (some [])

/-- A saved thread that is parked for debug goes on: it is eligible, its ages counted from its restore (R424, R396). -/
def Thread.leaveDebug (t : Thread) : Thread :=
  match t.run with
  | .parked (.debug _ _) _ => { t with run := .eligible 0 0 }
  | _ => t

/-- A thread as an image lists it: its registers lie in the TRS section. -/
def Thread.bare (t : Thread) : Thread := { t with regs := [] }

/-- Changes the threads of an image, registers included. -/
def Image.mapThreads (i : Image) (f : Thread → Thread) : Image :=
  match i.full with
  | none => i
  | some ts =>
    let ts := ts.map f
    { i with threads := ts.map (·.bare), trs := packAll i.groups ts }

end Sys2Proof.Machine
end

