-- ==== Sys2Proof/Machine/Firmware.lean ====
section
/-!
DEFINITION. Memory firmware at work for a partition (14 R337, R343 to R349): mapping records, the invalidations they need,
grants and their receipts, reclaimed frames; address translation services (R345).
-/

namespace Sys2Proof.Machine

/-! ## Invalidation (R343, R345) -/

/-- What an invalidation does besides the TLBs: accesses translated before are performed, agents are told. -/
def State.retranslate (s : State) (part lo n : Nat) : State := (s.settlePart part).atsStale part lo n

/-- An agent has still to complete an invalidation of a partition. -/
def State.atsBusy (s : State) (part : Nat) : Bool := (s.vf part).ats.any (·.waiting.isSome)

/-! ## Records of the tenant (R346, R374) -/

/-- Firmware reads a record: its 32 bytes are translated as for a store of the partition, which reports a malformed table entry (R340),
and read (R346, R374). An uncorrectable read under a protected launch is a rollback (R275), and a slice held in reset is waited for
(R354). -/
def State.callRecord (s : State) (part : Nat) (va : Word64) : Eng (Nat × List Byte) :=
  if 2 ^ 56 < va.toNat + 32 then .bad .bounds va.toNat s
  else
    let s1 := s.translated none part va.toNat
    match s.xlate part va.toNat .write with
    | .absent => .bad .pageAbsent va.toNat s1
    | .bad c m => match s1.walkLost part va.toNat c with
      | some s => .rolled s
      | none => .bad c va.toNat (if m then s1.emit (.malformedEntry part (va.toNat / 65536)) else s1)
    | .ok pa _ _ =>
      if s.underReset pa then .wait s
      else
        let (bad, s) := ((s1.settleFrame pa).chargeRead part pa 32).readSeen (fetchSees part) false pa 32
        if bad then match s.protectedLaunch part with
          | some l => .rolled (s.rollback l (s.badGranules pa 32))
          | none => .bad .uncorrectable va.toNat s
        else .ok (pa, s.seenBytes (fetchSees part) pa 32) s

/-- A saved thread goes on at the word after its own; past its block's end it takes ILLEGAL_TARGET (R72, R190, R396). -/
def State.savedNext (s : State) (t : Thread) : Thread :=
  let t := { t with watchSkip := false, mark := none }
  if !t.atEnd then { t with off := t.off + 1, run := .eligible 0 0 }
  else if s.faultEnds t then { t with run := .exiting FClass.illegalTarget.exitStatus }
  else { t with
    fcode := FClass.illegalTarget.code, faddr := 0, fblk := pcBits t.blk t.off, inHandler := true
    blk := s.handlerOf t.id.launch, off := 1, run := .platform }

/-- A saved thread's bit in the platform entry it waits at. -/
def Image.atPlatform (i : Image) (t : Thread) : Image :=
  let same := fun (p : Plat) => p.cu == t.cu && p.launch == t.id.launch && p.group == t.id.group && p.blk == t.blk
  if t.run != .platform then i
  else if i.plats.any same then { i with plats := modWhere i.plats same (fun p => { p with mask := p.mask ||| maskBit t.id.num }) }
  else { i with plats := i.plats ++ [{ cu := t.cu, ctx := t.ctx, launch := t.id.launch, group := t.id.group, blk := t.blk
                                       mask := maskBit t.id.num, stamp := 0, cursor := 0, spilled := false, passed := 0 }] }

/-- A saved thread of an image goes on, changed by a test. -/
def State.imageNext (s : State) (i : Image) (id : TId) (f : Thread → Thread) : Image :=
  let i := i.mapThreads (fun t => if t.id = id then s.savedNext (f t) else t)
  match i.threads.find? (fun t => t.id = id) with
  | some t => i.atPlatform t
  | none => i

/-- A thread that waits for a firmware call goes on at its next word, or does so once it is restored (R396). -/
def State.resumeCaller (s : State) (id : TId) (f : Thread → Thread) : State :=
  match s.thread id with
  | some t => s.resumeNext (f t)
  | none => { s with contexts := s.contexts.map (fun (c : Context) => { c with
      image := if c.image.any (fun (i : Image) => i.threads.any (fun (t : Thread) => t.id = id)) then
          c.image.map (fun (i : Image) => s.imageNext i id f)
        else c.image }) }

/-- The status byte is written as a release at `.sys`, and the caller goes on (R349). -/
def State.answerCall (s : State) (c : Call) (st : Byte) (pa : Nat) : State :=
  let s := ((s.settleWrites.settleFrame pa).chargeWrite ((s.frame (pa / 65536)).part) (pa + 1) 1).writeNow (pa + 1) [st] none
  match c.caller with
  | some id => s.resumeCaller id (fun t => t)
  | none => s

/-- A record that cannot be read or answered: its address is recorded, nothing changes (R346). -/
def State.badRecord (s : State) (part : Nat) (c : Call) (cause : Byte) : State :=
  let s := s.vfError part cause c.addr
  match c.caller with
  | some id => s.resumeCaller id (fun t => t)
  | none => s

/-- The first mapping call of a partition. -/
def State.mapCall (s : State) (part : Nat) : Option Call := (s.vf part).mapCalls.head?

/-- The first mapping call is over. -/
def State.popMap (s : State) (part : Nat) : State := s.modVf part (fun v => { v with mapCalls := v.mapCalls.drop 1 })

/-- The first mapping call changes. -/
def State.setMap (s : State) (part : Nat) (c : Call) : State := s.modVf part (fun v => { v with mapCalls := c :: v.mapCalls.drop 1 })

/-- A mapping record's fields (R346). -/
structure MapRecord where
  fn : Nat
  flags : Nat
  lfn : Nat
  va : Nat
  len : Nat
  rest : Nat
  deriving DecidableEq, Repr

/-- Reads a mapping record. -/
def mapRecord (bs : List Byte) : MapRecord :=
  { fn := blockNat bs 0 1, flags := blockNat bs 2 2, lfn := blockNat bs 4 4, va := blockNat bs 8 8, len := blockNat bs 16 8
    rest := blockNat bs 24 8 }

/-- The number of pages of a range that leaves map. -/
def State.mappedIn (s : State) (part va n : Nat) : Nat :=
  (s.leaves part).foldl (fun k (l : Nat × Nat × BitVec 64) =>
    k + (min (va + n * 65536) (l.1 + 2 ^ l.2.1) - max va l.1) / 65536) 0

/-- Some page of a range is mapped with E = 0, for an export or an import in progress (R339, R347). -/
def State.stagedIn (s : State) (part va n : Nat) : Bool :=
  (pagesFrom va n).any (fun a => match s.walk part a with
    | .leaf e _ => !entryE e
    | .absent => false
    | .bad _ _ => false)

/-- The frames a record names, in order (R337). -/
def State.namedFrames (s : State) (part : Nat) (r : MapRecord) : List Nat := ((s.part part).grants.drop r.lfn).take (r.len / 65536)

/-- The status of a record: the first condition that applies (R347). A PROTECT of a page whose frame is held for transfer gives 7, as a MAP
of that frame does: firmware would write E = 1 (DEDUCED, log entry 90). -/
def State.mapStatus (s : State) (part : Nat) (r : MapRecord) : Byte :=
  let n := r.len / 65536
  let fs := s.namedFrames part r
  if r.fn = 0 || 3 < r.fn || r.flags % 4 != 0 || r.flags.testBit 7 || 512 ≤ r.flags || r.flags / 16 % 4 == 3 || r.rest != 0 then 1
  else if r.va % 65536 != 0 || r.len % 65536 != 0 || r.len = 0 || 2 ^ 56 < r.va + r.len then 3
  else if r.flags.testBit 6 then 6
  else if r.fn = 1 && (fs.length < n || fs.any (fun f => (s.frame f).state != 1 || (s.frame f).part != part)) then 2
  else if r.fn = 1 && fs.any (s.part part).staging.contains then 7
  else if r.fn = 3 && s.stagedIn part r.va n then 7
  else if r.fn = 1 then (if s.mappedIn part r.va n = 0 then 0 else 4)
  else if s.mappedIn part r.va n = n then 0 else 5

/-- The leaf bits a record asks for: [6:2], X, and E = 1 (R347). -/
def MapRecord.bits (r : MapRecord) : BitVec 64 :=
  BitVec.ofNat 64 (r.flags % 128 + 128 + if r.flags.testBit 8 then 2 ^ 63 else 0)

/-- A record's change of the table. -/
def State.mapChange (s : State) (part : Nat) (r : MapRecord) : State :=
  let n := r.len / 65536
  match r.fn with
  | 1 => s.mapRange part r.va (s.namedFrames part r) r.bits
  | 2 => (s.settlePart part).unmapRange part r.va n |>.atsStale part r.va r.len
  | _ => (s.settlePart part).protectRange part r.va n r.bits |>.atsStale part r.va r.len

/-- The first mapping call of a partition is carried out if it has the function: checks, changes, their invalidation, status. A
function outside the record's limits is answered by whichever event comes. -/
def mapEvent (part fn : Nat) (s : State) : Host.Outcome State Fault Refusal :=
  match s.mapCall part with
  | none => .next s
  | some c => .next (match c.status with
    | some (st, pa) => if s.atsBusy part || s.underReset pa then s else (s.popMap part).answerCall c st pa
    | none => match s.callRecord part c.addr with
      | .rolled s => s
      | .wait s => s
      | .absent _ s => (s.popMap part).badRecord part c 0x04
      | .bad _ _ s => (s.popMap part).badRecord part c 0x04
      | .ok (pa, bs) s =>
        let r := mapRecord bs
        if r.fn != fn && 1 ≤ r.fn && r.fn ≤ 3 then s
        else
          let st := s.mapStatus part r
          let s := if st = 0 then s.mapChange part r else s
          if s.atsBusy part && st = 0 then s.setMap part { c with status := some (st, pa) }
          else (s.popMap part).answerCall c st pa)

/-- MAP_REQUEST (R347). -/
def execMapRequest (part : Nat) (s : State) : Host.Outcome State Fault Refusal := mapEvent part 1 s

/-- UNMAP_REQUEST (R347, R348). -/
def execUnmapRequest (part : Nat) (s : State) : Host.Outcome State Fault Refusal := mapEvent part 2 s

/-- PROTECT_REQUEST (R347, R348). -/
def execProtectRequest (part : Nat) (s : State) : Host.Outcome State Fault Refusal := mapEvent part 3 s

/-! ## Frames (R344, R278, R280, R376) -/

/-- A page of a partition that maps a frame. -/
def State.frameVas (s : State) (part f : Nat) : List Nat :=
  (s.leaves part).filterMap (fun (l : Nat × Nat × BitVec 64) =>
    let f0 := entryAddr l.2.2 / 65536
    if f0 ≤ f && f < f0 + 2 ^ (l.2.1 - 16) then some (l.1 + (f - f0) * 65536) else none)

/-- Frames of a partition are unmapped wherever they are mapped, and the invalidation begun (R343, R344 steps 1 and 2). -/
def State.unmapFrames (s : State) (part : Nat) (fs : List Nat) : State :=
  fs.foldl (fun s f => (s.frameVas part f).foldl (fun s va => s.atsStale part va 65536) (s.unmapFrame f)) (s.settlePart part)

/-- A frame that has left its owner is no model's. -/
def State.unlistFrame (s : State) (f : Nat) : State :=
  { s with slices := s.slices.map (fun (c : Slice) => { c with cat := c.cat.map (fun (e : CatEntry) => { e with list := e.list.filter (· != f) }) }) }

/-- FRAME_RECLAIM (R344): unmapped from every table, the invalidation complete, then free. While an agent has still to answer, it
waits. -/
def execFrameReclaim (frame : Nat) (s : State) : Host.Outcome State Fault Refusal :=
  let e := s.frame frame
  if e.state != 1 then .next (s.hostDone (.frameReclaim frame))
  else
    let s := s.unmapFrames e.part [frame]
    .next (if s.atsBusy e.part then s.hostWait 16 (.frameReclaim frame)
      else ((s.freeFrameOf frame).unlistFrame frame).hostDone (.frameReclaim frame))

/-- The resident, unpinned entry of a slice's catalogue with the lowest use count, ties to the lower number (R376). -/
def State.leastUsed (s : State) (slice : Nat) : Option Nat :=
  let cat := (s.slice slice).cat
  ((List.range 16).filter (fun e => match cat[e]? with
    | some c => c.state == 1 && !c.pinned
    | none => false)).foldl (fun (m : Option Nat) e => match m with
      | none => some e
      | some k => if ((cat.getD e CatEntry.reset).uses).toNat < ((cat.getD k CatEntry.reset).uses).toNat then some e else some k) none

/-- The first half of a deaccession: the model range is unmapped, and so is every other page that maps a frame of it (R344 step 1); their
invalidation is begun (R376). -/
def State.unmapModel (s : State) (slice e : Nat) : State :=
  let c := (s.slice slice).cat.getD e CatEntry.reset
  let n := c.frames
  (((s.settlePart c.part).unmapRange c.part c.base.toNat n).atsStale c.part c.base.toNat (n * 65536)).unmapFrames c.part c.list

/-- The second half: the frames are free, the entry is deaccessioned. -/
def State.closeModel (s : State) (slice e : Nat) : State :=
  let c := (s.slice slice).cat.getD e CatEntry.reset
  (c.list.foldl State.freeFrameOf s).modCat slice e (fun c => { c with state := 2, pinned := false, list := [] })

/-- FRAME_GRANT (R344, R376): a free frame of a stack is granted, its scrub pending; with none free a model gives way, another if that
is not enough, and if none can the grant fails. It waits for their invalidations. -/
def execFrameGrant (part slice : Nat) (s : State) : Host.Outcome State Fault Refusal :=
  let me := Instr.frameGrant part slice
  if (s.part part).state = 0 || 16 ≤ slice then .next (s.hostDone me)
  else match s.freeFrame slice with
    | (some f, s) => .next ((s.grantFrame part f).hostDone me)
    | (none, s) => match s.leastUsed slice with
      | none => .next ((s.emit (.grantFailed part)).hostDone me)
      | some e =>
        let owner := ((s.slice slice).cat.getD e CatEntry.reset).part
        let s := s.unmapModel slice e
        if s.atsBusy owner then .next (s.hostWait 16 me)
        else match (s.closeModel slice e).freeFrame slice with
          | (some f, s) => .next ((s.grantFrame part f).hostDone me)
          | (none, s) => .next (s.hostWait 16 me)

/-- Frames of a range found retired, quarantined for an uncorrectable granule, or with one (R280). -/
def State.excluded (s : State) (f : Nat) : Bool :=
  3 ≤ (s.frame f).state || s.ecc.any (fun c => c.1 / 4096 == f && c.2 == .uncorrectable)

/-- A receipt before its signature (R280). -/
def receiptBody (slice first count time : Nat) (gen : BitVec 16) (out : List Nat) : List Byte :=
  natBytes 4 1 ++ natBytes 2 slice ++ natBytes 2 gen.toNat ++ natBytes 8 first ++ natBytes 4 count ++ natBytes 4 out.length
    ++ natBytes 8 time ++ out.flatMap (natBytes 8)

/-- The new owner of a range: that of its first frame that is granted (R280). -/
def State.rangeOwner (s : State) (fs : List Nat) : Nat :=
  (s.frame ((fs.find? (fun f => (s.frame f).state == 1 || (s.frame f).state == 4)).getD (fs.headD 0))).part

/-- A frame found uncorrectable by its scrub is retired as one queued for it is, once the accesses translated before are performed (R279,
R280, R343). -/
def State.retireFound (s : State) (f : Nat) : State :=
  if (s.frame f).state = 3 then s else (((s.settlePart (s.frame f).part).settleFrame (f * 65536)).queueFrame f).retireFrame f

/-- OWNER_CHANGE_SCRUB (R278 to R280): the pending scrubs of a range of granted frames end, and the Curator signs the receipt. -/
def execOwnerChangeScrub (first count : Nat) (s : State) : Host.Outcome State Fault Refusal :=
  let fs := (List.range count).map (first + ·)
  let part := s.rangeOwner fs
  if count = 0 || fs.any (fun f => (s.frame f).state != 3 && !s.grantedTo f part) then .next s
  else
    let out := fs.filter s.excluded
    let s := (fs.filter (fun f => !out.contains f && (s.frame f).scrub)).foldl State.scrubFrame s
    let s := out.foldl State.retireFound s
    let body := receiptBody (first / 2 ^ 21) first count s.time (s.part part).gen out
    let rc := body ++ Config.ecdsaSign s.signingKey (Config.sha384 body)
    .next ((s.modPart part (fun p => { p with receipts := p.receipts ++ [(first, count, rc)] })).emit (.receipt rc))

/-! ## Address translation services (R345) -/

/-- Writes it. -/
def Vf.setAts (v : Vf) (a : Ats) : Vf :=
  { v with ats := if v.ats.any (·.fn == a.fn) then modWhere v.ats (·.fn == a.fn) (fun _ => a) else v.ats ++ [a] }

/-- ATS_TRANSLATION_REQUEST (R345): answered from the partition's table; an absent page, or one the agent may not use, is a failed
translation. -/
def execAtsTranslationRequest (vf fn : Nat) (va : Word64) (s : State) : Host.Outcome State Fault Refusal :=
  let v := s.vf vf
  let a := v.atsOf fn
  .next (if !v.enabled || !a.enabled || v.tdisp == .error || 2 ^ 56 ≤ va.toNat then s.emit (.ats vf fn va none)
    else match s.xlate vf va.toNat .read with
      | .ok _ e _ =>
        ((s.translated none vf va.toNat).modVf vf (fun v => v.setAts { a with cached := setAdd a.cached (va.toNat / 65536) })).emit (.ats vf fn va (some e))
      | .absent => (s.translated none vf va.toNat).emit (.ats vf fn va none)
      | .bad _ m =>
        let s := s.translated none vf va.toNat
        (if m then s.emit (.malformedEntry vf (va.toNat / 65536)) else s).emit (.ats vf fn va none))

/-- ATS_INVALIDATION_COMPLETION (R345). -/
def execAtsInvalidationCompletion (vf fn : Nat) (s : State) : Host.Outcome State Fault Refusal :=
  .next (s.modVf vf (fun v => { v with ats := modWhere v.ats (·.fn == fn) (fun (a : Ats) => { a with waiting := none }) }))

/-- ATS_TIMEOUT (R345): a millisecond without a completion disables the function's ATS, and the invalidation completes. -/
def execAtsTimeout (vf fn : Nat) (s : State) : Host.Outcome State Fault Refusal :=
  match (s.vf vf).ats.find? (fun a => a.fn == fn && match a.waiting with
      | some t => decide (t + 1000000 ≤ s.time)
      | none => false) with
  | none => .next s
  | some _ =>
    .next ((s.modVf vf (fun v => { v with ats := modWhere v.ats (·.fn == fn) (fun (a : Ats) =>
      { a with enabled := false, cached := [], waiting := none }) })).vfError vf 0x06 0)

end Sys2Proof.Machine
end

