-- ==== Sys2Proof/Machine/Catalogue.lean ====
section
/-!
DEFINITION. The weight catalogue (15 R371 to R377): catalogue request records, loading a model, pinning, deaccession, the decay of
use counts.
-/

namespace Sys2Proof.Machine

/-- A catalogue request record (R374). -/
structure CatRecord where
  fn : Nat
  slice : Nat
  entry : Nat
  rest : Nat
  manifest : Nat
  staging : Nat
  deriving DecidableEq, Repr

/-- Reads a record. -/
def catRecord (bs : List Byte) : CatRecord :=
  { fn := blockNat bs 0 1, slice := blockNat bs 2 1, entry := blockNat bs 3 1, rest := blockNat bs 4 4 + blockNat bs 24 8
    manifest := blockNat bs 8 8, staging := blockNat bs 16 8 }

/-- A record's fields lie within their limits (status 1 otherwise). -/
def CatRecord.ok (r : CatRecord) (n : Nat) : Bool :=
  1 ≤ r.fn && r.fn ≤ 4 && r.rest == 0 && r.slice < n
    && (if r.fn = 1 then r.manifest % 64 == 0 && r.staging % 65536 == 0 else r.entry < 16)

/-- The first catalogue call of a partition. -/
def State.catCall (s : State) (part : Nat) : Option Call := (s.vf part).catCalls.head?

/-- The first catalogue call is over. -/
def State.popCat (s : State) (part : Nat) : State := s.modVf part (fun v => { v with catCalls := v.catCalls.drop 1 })

/-- The first catalogue call changes. -/
def State.setCat (s : State) (part : Nat) (c : Call) : State := s.modVf part (fun v => { v with catCalls := c :: v.catCalls.drop 1 })

/-- Firmware reads a range of a partition's global memory. -/
def State.readRange (s : State) (part : Nat) : List (Nat × Nat) → List Byte → Eng (List Byte)
  | [], acc => .ok acc s
  | (a, n) :: ps, acc =>
    if 2 ^ 56 < a + n then .bad .bounds a s
    else match s.xlate part a .read with
      | .ok pa _ _ =>
        if s.underReset pa then .wait s
        else
          let (bad, s) := (((s.translated none part a).settleFrame pa).chargeRead part pa n).readSeen (fetchSees part) false pa n
          if bad then match s.protectedLaunch part with
            | some l => .rolled (s.rollback l (s.badGranules pa n))
            | none => .bad .uncorrectable a s
          else State.readRange s part ps (acc ++ s.seenBytes (fetchSees part) pa n)
      | .absent => .bad .pageAbsent a (s.translated none part a)
      | .bad c m =>
        let s := s.translated none part a
        match s.walkLost part a c with
        | some s => .rolled s
        | none => .bad c a (if m then s.emit (.malformedEntry part (a / 65536)) else s)

/-- The manifest at an address: its first 128 bytes name its length. -/
def State.readManifest (s : State) (part va : Nat) : Eng (List Byte) :=
  match s.readRange part (cut256 3 va 128) [] with
  | .ok h s =>
    let n := 48 * blockNat h 4 4 + 96
    if 65536 < blockNat h 4 4 then .ok h s else s.readRange part (cut256 (n / 256 + 3) (va + 128) n) h
  | r => r

/-- The frame count a manifest names. -/
def manifestFrames (m : List Byte) : Nat := blockNat m 4 4

/-- A manifest's format and fields (R373). -/
def manifestOk (m : List Byte) : Bool :=
  let n := manifestFrames m
  blockNat m 0 4 == 1 && 1 ≤ n && n ≤ 65536 && blockNat m 8 8 != 0 && blockNat m 16 8 % 65536 == 0
    && blockNat m 16 8 + n * 65536 ≤ 2 ^ 56 && blockNat m 0x78 8 == 0

/-- The public key a manifest names, if the tenant has registered it. -/
def publisherOf (keys : List (List Byte)) (m : List Byte) : Option (List Byte) :=
  keys.find? (fun k => (Config.sha384 k).toNat == blockNat m 0x20 48)

/-- Step 1 of a LOAD (R375): 0, or the status. -/
def State.manifestStatus (s : State) (part : Nat) (m : List Byte) : Byte :=
  let n := 0x80 + 48 * manifestFrames m
  if !manifestOk m then 1
  else match publisherOf (((s.tenantOf part).map (·.pubKeys)).getD []) m with
    | none => 3
    | some k => if Config.ecdsaVerify k (Config.sha384 (m.take n)) (m.drop n) then 0 else 2

/-- Step 2: the entry a model takes: a deaccessioned one of the same model, else the lowest free one; with whether it is reused. -/
def State.entryFor (s : State) (slice : Nat) (m : List Byte) : Option (Nat × Bool) :=
  let cat := (s.slice slice).cat
  let at_ := fun (e : Nat) => cat.getD e CatEntry.reset
  match (List.range 16).find? (fun e => (at_ e).state == 2 && (at_ e).accession.toNat == blockNat m 8 8
      && (at_ e).digest == Config.sha384 m) with
  | some e => some (e, true)
  | none => ((List.range 16).find? (fun e => (at_ e).state == 0)).map (fun e => (e, false))

/-- Step 3: the frames and leaf bits of the staging pages; none if one is not an ordinary page on the slice's stack. -/
def State.stagingOf (s : State) (part slice va n : Nat) : Option (List (Nat × BitVec 64)) :=
  (pagesFrom va n).foldr (fun a (acc : Option (List (Nat × BitVec 64))) => match acc, s.walk part a with
    | some l, .leaf e size =>
      let f := (entryAddr e + a % 2 ^ size) / 65536
      if f / 2 ^ 21 == slice && s.ownsFrame part f && !entryWB e then some ((f, leafBits e) :: l) else none
    | _, _ => none) (some [])

/-- The other pages that map frames of a staging range: address, frame, leaf bits. -/
def State.otherPages (s : State) (part va : Nat) (fs : List Nat) : List (Nat × Nat × BitVec 64) :=
  fs.flatMap (fun f => ((s.frameVas part f).filter (fun a => a < va || va + 65536 * fs.length ≤ a)).filterMap (fun a => match s.walk part a with
    | .leaf e _ => some (a, f, leafBits e)
    | .absent => none
    | .bad _ _ => none))

/-- What the first steps of a LOAD come to; `stop`: it waits, or a rollback has come in between. -/
inductive Loading where
  | bad (st : Byte)
  | go (manifest : List Byte) (kept : List (Nat × Nat × BitVec 64))
  | stop
  deriving DecidableEq, Repr

/-- The pages of a staging range with their frames and leaf bits. -/
def stagedPages (va : Nat) (l : List (Nat × BitVec 64)) : List (Nat × Nat × BitVec 64) :=
  l.mapIdx (fun i x => (va + 65536 * i, x.1, x.2))

/-- Steps 1 to 3 of R375. -/
def State.loadBegin (s : State) (part : Nat) (r : CatRecord) : Loading × State :=
  let slice := (s.part part).map.getD r.slice 0
  match s.readManifest part r.manifest with
  | .rolled s => (.stop, s)
  | .wait s => (.stop, s)
  | .absent _ s => (.bad 1, s)
  | .bad _ _ s => (.bad 1, s)
  | .ok m s =>
    let st := s.manifestStatus part m
    let n := manifestFrames m
    (if st != 0 then .bad st
    else if (s.entryFor slice m).isNone then .bad 5
    else if s.mappedIn part (blockNat m 16 8) n != 0 then .bad 6
    else match s.stagingOf part slice r.staging n with
      | none => .bad 9
      | some kept =>
        if 2 ^ 56 < r.staging + n * 65536 then .bad 9
        else .go m (stagedPages r.staging kept ++ s.otherPages part r.staging (kept.map (·.1))), s)

/-- The staging range, and every other page that mapped a frame of it, is mapped again as it was (steps 5 and 6). -/
def State.restage (s : State) (part : Nat) (l : List (Nat × Nat × BitVec 64)) : State :=
  l.foldl (fun s x => s.putLeaf part x.1 3 (leafEntry (x.2.1 * 65536) x.2.2)) s

/-- Every frame's ciphertext, read in turn, has the digest the manifest gives it (step 4 of R375); or the physical address of a frame that
cannot be read. -/
def State.framesMatch (s : State) (m : List Byte) : List (Nat × Nat) → Bool × Option Nat × State
  | [] => (true, none, s)
  | (i, f) :: l =>
    let (bad, s) := (s.settleFrame (f * 65536)).readSeen seesAll false (f * 65536) 65536
    if bad then (false, some (f * 65536), s)
    else if (Config.sha384 (s.seenBytes seesAll (f * 65536) 65536)).toNat == blockNat m (0x80 + 48 * i) 48 then State.framesMatch s m l
    else (false, none, s)

/-- Steps 5 to 8 of R375: the status, the entry taken, and what has become. Under a protected launch a frame that cannot be read is a
rollback too (R275). -/
def State.loadEnd (s : State) (part : Nat) (r : CatRecord) (m : List Byte) (kept : List (Nat × Nat × BitVec 64)) : Byte × Nat × State :=
  let slice := (s.part part).map.getD r.slice 0
  let fs := (kept.take (manifestFrames m)).map (·.2.1)
  let kek := (s.tenantOf part).bind (·.kek)
  let key := kek.bind (fun k => Config.keyUnwrap k ((m.drop 0x50).take 40))
  let back := fun (s : State) => s.restage part kept
  match s.entryFor slice m with
  | none => (5, 0, back s)
  | some (e, reused) =>
    let old := (s.slice slice).keys.getD e KeySlot.reset
    let (same, lost, s) := s.framesMatch m ((List.range fs.length).zip fs)
    let slot : Option KeySlot := if reused then some old
      else key.map (fun k => { key := k, nonce := BitVec.ofNat 64 (blockNat m 0x18 8), base := BitVec.ofNat 64 (blockNat m 16 8), filled := true })
    if !same then
      match lost, s.protectedLaunch part with
      | some pa, some l => (4, 0, (back s).rollback l (s.badGranules pa 65536))
      | _, _ => (4, 0, back s)
    else match slot with
      | none => (8, 0, back s)
      | some k =>
        let s := s.modSlice slice (fun c => { c with keys := c.keys.set e k })
        let s := s.mapRange part (blockNat m 16 8) fs 0xC0#64
        let entry : CatEntry := { accession := BitVec.ofNat 64 (blockNat m 8 8), base := BitVec.ofNat 64 (blockNat m 16 8)
                                  frames := manifestFrames m, state := 1, pinned := false, uses := 0, digest := Config.sha384 m
                                  part := part, list := fs }
        (0, e, s.modCat slice e (fun _ => entry))

/-- A LOAD ends: the entry byte, then the status (R374). -/
def State.answerLoad (s : State) (part : Nat) (c : Call) (r : CatRecord) (pa : Nat) (m : List Byte) (kept : List (Nat × Nat × BitVec 64)) : State :=
  let (st, e, s) := (s.popCat part).loadEnd part r m kept
  (if st = 0 then (s.writeNow (pa + 3) [BitVec.ofNat 8 e] none).remeasure part else s).answerCall c st pa

/-- A call that waits for an invalidation keeps its record before its manifest. -/
def Call.record (c : Call) : CatRecord := catRecord (c.manifest.take 32)

/-- The first catalogue call of a partition: `more` goes on with one that waited for an invalidation, `f` carries out a well-formed
record of function `fn`, given with its bytes; a record outside the limits is answered by any event. -/
def catEvent (part fn : Nat) (s : State) (more : State → Call → CatRecord → Nat → State)
    (f : State → Call → List Byte → Nat → State) : Host.Outcome State Fault Refusal :=
  match s.catCall part with
  | none => .next s
  | some c => .next (match c.status with
    | some (_, pa) => if s.atsBusy part || s.underReset pa || c.record.fn != fn then s else more s c c.record pa
    | none => match s.callRecord part c.addr with
      | .rolled s => s
      | .wait s => s
      | .absent _ s => (s.popCat part).badRecord part c 0x05
      | .bad _ _ s => (s.popCat part).badRecord part c 0x05
      | .ok (pa, bs) s =>
        let r := catRecord bs
        if !r.ok (s.part part).n then
          (if fn = r.fn || r.fn = 0 || 4 < r.fn then (s.popCat part).answerCall c 1 pa else s)
        else if r.fn != fn then s
        else f s c bs pa)

/-- CAT_LOAD (R375). The frames of the staging range are unmapped wherever the partition maps them, so that no party can change the
ciphertext. A record that lies in one of them could not be answered then: it counts as one whose status cannot be written (R374; DEDUCED,
log entry 91). -/
def execCatLoad (part : Nat) (s : State) : Host.Outcome State Fault Refusal :=
  catEvent part 1 s (fun s c r pa => s.answerLoad part c r pa (c.manifest.drop 32) c.kept) fun s c bs pa =>
    let r := catRecord bs
    match s.loadBegin part r with
    | (.stop, s) => s
    | (.bad st, s) => (s.popCat part).answerCall c st pa
    | (.go m kept, s) =>
      let n := manifestFrames m
      if kept.any (fun x => x.2.1 == pa / 65536) then (s.popCat part).badRecord part c 0x05
      else
        let s := (((s.settlePart part).unmapRange part r.staging n).atsStale part r.staging (n * 65536)).unmapFrames part (kept.map (·.2.1))
        if s.atsBusy part then s.setCat part { c with status := some (0, pa), kept := kept, manifest := bs ++ m }
        else s.answerLoad part c r pa m kept

/-- PIN and UNPIN (R376). -/
def State.setPin (s : State) (part : Nat) (c : Call) (r : CatRecord) (pa : Nat) (pin : Bool) : State :=
  let slice := (s.part part).map.getD r.slice 0
  if ((s.slice slice).cat.getD r.entry CatEntry.reset).state = 1 then
    ((s.modCat slice r.entry (fun e => { e with pinned := pin })).popCat part).answerCall c 0 pa
  else (s.popCat part).answerCall c 7 pa

/-- CAT_PIN (R376). -/
def execCatPin (part : Nat) (s : State) : Host.Outcome State Fault Refusal := 
  catEvent part 2 s (fun s _ _ _ => s) fun s c bs pa => s.setPin part c (catRecord bs) pa true

/-- CAT_UNPIN (R376). -/
def execCatUnpin (part : Nat) (s : State) : Host.Outcome State Fault Refusal := 
  catEvent part 3 s (fun s _ _ _ => s) fun s c bs pa => s.setPin part c (catRecord bs) pa false

/-- DEACCESSION (R376): the frames are free once the invalidation is complete. -/
def execDeaccession (part : Nat) (s : State) : Host.Outcome State Fault Refusal :=
  let slice := fun (s : State) (r : CatRecord) => (s.part part).map.getD r.slice 0
  catEvent part 4 s (fun s c r pa => ((s.closeModel (slice s r) r.entry).popCat part).answerCall c 0 pa) fun s c bs pa =>
    let r := catRecord bs
    let slice := slice s r
    if ((s.slice slice).cat.getD r.entry CatEntry.reset).state != 1 then (s.popCat part).answerCall c 7 pa
    else
      let s := s.unmapModel slice r.entry
      if s.atsBusy part then s.setCat part { c with status := some (0, pa), manifest := bs }
      else ((s.closeModel slice r.entry).popCat part).answerCall c 0 pa

/-- USE_COUNT_DECAY (R371): each second every use count is halved. The management clock is taken to be the package's time count (DEDUCED, log
entry 72). -/
def execUseCountDecay (slice : Nat) (s : State) : Host.Outcome State Fault Refusal :=
  if s.time < (s.slice slice).decayed + 1000000000 then .next s
  else .next (s.modSlice slice (fun c => { c with decayed := s.time, cat := c.cat.map (fun (e : CatEntry) => { e with uses := e.uses >>> 1 }) }))

end Sys2Proof.Machine
end

