-- ==== Sys2Proof/Machine/Remote.lean ====
section
/-!
DEFINITION. What reaches the package from outside: accesses of the host and its agents (14 R340; 11 R271; 10 R260), peer requests and
responses, and generations learned (15 R379 to R381).
-/

namespace Sys2Proof.Machine

/-- The bytes a host access touches. -/
def hostSize : HostOp → Nat
  | .read n => n
  | .write bytes => bytes.length
  | .atom _ wide _ => if wide then 8 else 4

/-- The request completes with Unsupported Request. -/
def State.hostRefuse (s : State) (vf : Nat) (va : Word64) : State := s.emit (.hostRefused vf va)

/-- A read by the host found poison: it is recorded, and a protected launch is rolled back (R271, R275, R457). -/
def State.hostPoison (s : State) (vf : Nat) (va : Word64) (l : List (Nat × Nat × Bool)) : State :=
  let s := s.vfError vf 0x02 va
  match s.protectedLaunch vf with
  | some k => s.rollback k (l.flatMap (fun x => s.badGranules x.1 x.2.1))
  | none => s

/-- Reads of the pieces of a host access: bytes, whether some is poisoned. A pending write of the device is seen once it has left
the coherence order (R260). -/
def State.hostBytes (s : State) : List (Nat × Nat × Bool) → List Byte → Bool → List Byte × Bool × State
  | [], bs, bad => (bs, bad, s)
  | (pa, n, _) :: l, bs, bad =>
    let (b, s) := ((s.settleFrame pa).chargeRead (s.frame (pa / 65536)).part pa n).readSeen seesNone false pa n
    State.hostBytes s l (bs ++ memReadN s.mem pa n) (bad || b)

/-- A translated host access is performed. -/
def State.hostPerform (s : State) (vf : Nat) (va : Word64) (op : HostOp) (l : List (Nat × Nat × Bool)) : State :=
  match op with
  | .read _ =>
    let (bs, bad, s) := s.hostBytes l [] false
    let s := s.emit (.hostData vf va bs bad)
    if bad then s.hostPoison vf va l else s
  | .write bytes => s.peerWrite seesNone none l bytes
  | .atom op wide v =>
    let pa := (l.headD (0, 0, false)).1
    let n := if wide then 8 else 4
    let (r, s) := s.peerRmw pa n false false false
      (fun b _ => some (natBytes n (atomVal op.toNat wide (bytesNat b) (v.toNat % 2 ^ (8 * n))), none))
    match r with
    | .data bs _ => s.emit (.hostData vf va bs false)
    | .ack => s
    | .error _ => (s.emit (.hostData vf va (memReadN s.mem pa n) true)).hostPoison vf va l

/-- A translated request of a function is refused (R345): its ATS is disabled, or it does not hold the page's translation. -/
def State.atsRefused (s : State) (vf : Nat) (fn : Option Nat) (va : Word64) : Bool :=
  match fn with
  | none => false
  | some f => let a := (s.vf vf).atsOf f
    !a.enabled || !a.cached.contains (va.toNat / 65536)

/-- HOST_ACCESS (R340, R345): a virtual function that is disabled or in ERROR, and an access that fails steps 1 to 4, completes with
Unsupported Request; the latter is recorded. A translated request names the function that has translated it, and is known here by the
page that the function's cache maps, which an invalidation keeps current. A link that is not secure drops its traffic (R418), and a
request of an old generation of the binding is discarded, one that has waited by the generation it came with (R360). It comes after those
of the function that wait already (R242, R260). -/
def execHostAccess (vf : Nat) (a : HostAddr) (op : HostOp) (s : State) : Host.Outcome State Fault Refusal :=
  let fn := a.fn
  let va := a.va
  let n := hostSize op
  let want := match op with
    | .read _ => Want.read
    | .write _ => Want.write
    | .atom _ _ _ => Want.write
  let me := Instr.hostAccess vf a op
  let s0 := s
  let came := ((s.hostWaits.find? (·.op == me)).map (·.gen)).getD (s.vf vf).gen
  let s := s.hostDone me
  let rmw := match op with
    | .read _ => false
    | .write _ => false
    | .atom _ _ _ => true
  let writes := match op with
    | .read _ => false
    | .write _ => true
    | .atom _ _ _ => false
  let odd := match op with
    | .read _ => false
    | .write _ => false
    | .atom op _ _ => va.toNat % n != 0 || 14 ≤ op.toNat
  let ps := cut256 (n / 256 + 2) va.toNat n
  let s1 := s.spanWalked vf ps
  .next (if !s.linkSecure a.link || came != (s.part vf).gen then s
    else if !(s.vf vf).enabled || (s.vf vf).tdisp == .error || odd || s.atsRefused vf fn va then s.hostRefuse vf va
    else if 2 ^ 56 < va.toNat + n then (s.vfError vf 0x01 va).hostRefuse vf va
    else match s.peerSpan vf want ps [] with
      | .ok l =>
        if s0.hostBehind vf me || l.any (fun x => s.accessWaits x.1 x.2.1 rmw writes) then s0.hostWait vf me else s1.hostPerform vf va op l
      | .absent _ => (s1.vfError vf 0x01 va).hostRefuse vf va
      | .bad c m =>
        let s1 := (s1.walkLost vf va.toNat c).getD s1
        ((if m then s1.emit (.malformedEntry vf (va.toNat / 65536)) else s1).vfError vf 0x01 va).hostRefuse vf va)

/-- PEER_REQUEST (R380, R381, R261, R396), at a port that carries traffic (R419): an old generation's packet is discarded, a repeat gets its recorded answer, any other joins
its flow, which goes on in order. -/
def execPeerRequest (p : PeerPacket) (s : State) : Host.Outcome State Fault Refusal :=
  let f := s.inFlow p
  .next (if !s.portOpen p.port || s.stalePeer p.src p.srcPart p.gen then s
    else if p.seq < f.next then
      match kvGet f.results p.seq with
      | some r => s.answerPeer p r
      | none => s
    else if f.early.any (·.seq == p.seq) then s
    else (drainFlow (f.early.length + 1) s { f with early := f.early ++ [p] }).wakeMet)

/-- The uncorrectable error of an access in flight ends a protected launch (R275); a `red` faults no thread for it (R229); any other error
is kept until the thread's next word, which takes the fault in the access's name (R380; log entry 22). -/
def State.peerFailed (s : State) (f : Flight) (c : Byte) : State :=
  let bad := classOf c == FClass.uncorrectable
  let red := f.packet.any (fun p => match p.op with
    | .atom _ _ _ quiet => quiet
    | .read _ _ | .desc | .write _ _ _ | .acas _ _ _ | .acasc _ _ => false)
  match if bad then s.protectedLaunch f.part else none with
  | some l => s.rollback l []
  | none =>
    if bad && red then s
    else s.modThread f.thread (fun t => { t with
      peerFault := t.peerFault.or (some { cls := classOf c, addr := f.peerAddr, blk := f.blk, off := f.off }) })

/-- An answer comes to an access that its thread did not wait for: a write is acknowledged, a late load's registers are written, an error
is kept (R209, R261, R380). -/
def State.landPeer (s : State) (f : Flight) (r : PeerResult) : State :=
  let s : State := { s with flights := s.flights.filter (·.req != f.req) }
  match f.share r, s.thread f.thread with
  | .error c, _ => s.peerFailed f c
  | .data bytes tags, some t => s.putThread (s.writeLoad t f.kind f.n bytes (tags.headD false))
  | .data _ _, none => s
  | .ack, _ => s

/-- A result in flight whose thread goes on without it. -/
def Flight.loose (f : Flight) : Bool :=
  match f.kind with
  | .load _ _ | .loadCap _ _ | .store => true
  | .peer | .engine _ _ _ | .cmd _ => false

/-- PEER_RESPONSE (R360, R381), at a port that carries traffic (R419): an answer of the current generation reaches the accesses that wait
for it. -/
def execPeerResponse (p : PeerReply) (s : State) : Host.Outcome State Fault Refusal :=
  let mine := fun (f : Flight) => f.part == p.part && f.answer.isNone && f.packet.any (fun q => q.cu == p.cu && q.seq == p.seq && q.home == p.home)
    && match f.loc with
      | .peer pkg _ => pkg == p.pkg
      | .hbm _ _ _ => false
      | .sram _ _ => false
  .next (if !s.portOpen p.port || p.gen != (s.part p.part).gen then s
    else
      let due := s.flights.filter (fun f => mine f && f.loose)
      let s : State := { s with flights := modWhere s.flights (fun f => mine f && !f.loose) (fun (f : Flight) => { f with answer := some p.result }) }
      (due.foldl (fun s f => s.landPeer f p.result) s).settleAll.wakeMet)

/-- GENERATION_UPDATE (R381): the last generation learned for a source partition; its flows begin again. -/
def execGenerationUpdate (pkg part : Nat) (gen : BitVec 16) (s : State) : Host.Outcome State Fault Refusal :=
  .next { s with
    peerGens := (pkg, part, gen) :: s.peerGens.filter (fun x => !(x.1 == pkg && x.2.1 == part))
    inFlows := s.inFlows.filter (fun f => !(f.pkg == pkg && f.part == part)) }

end Sys2Proof.Machine
end

