-- ==== Sys2Proof/Machine/Revocation.lean ====
section
/-!
DEFINITION. Revocation of a colour (15 R365, R366; 04 R93): marking on every package, acknowledgements, the sweep of every place a
tag can lie in.
-/

namespace Sys2Proof.Machine

/-- The revocation of a colour in progress. -/
def State.revOf (s : State) (tenant k : Nat) : Option Revocation := (s.tenant tenant).bind (fun n => n.revs.find? (·.colour == k))

/-- Its phase changes. -/
def State.setRev (s : State) (tenant k : Nat) (p : RevPhase) : State :=
  s.modTenant tenant (fun n => { n with revs := modWhere n.revs (·.colour == k) (fun (v : Revocation) => { v with phase := p }) })

/-- The package acknowledges the marking once no train runs that has not taken it (R365 step 4). -/
def State.ackMarking (s : State) (tenant k : Nat) : State :=
  match (s.revOf tenant k).map (fun (v : Revocation) => v.phase) with
  | some (.marking await false) =>
    if s.someOld tenant k then s else (s.setRev tenant k (.marking await true)).emit (.markingAck tenant k)
  | some (.marking _ true) => s
  | some (.sweeping _ _) => s
  | none => s

/-- COLOUR_MARKING (R365 steps 3 and 4): the colour is revoking in this package's replica, whatever the replica held; acknowledged when
every train has taken it. -/
def execColourMarking (tenant colour : Nat) (s : State) : Host.Outcome State Fault Refusal :=
  let s := if (s.revOf tenant colour).isNone && (s.tenant tenant).isSome && colour != 0 then s.beginRevoke tenant colour none else s
  .next (s.ackMarking tenant colour)

/-- An acknowledgement that comes before this package's own part is kept for it (R365, R366). -/
def State.earlyAck (s : State) (tenant k : Nat) (sweep : Bool) (pkg : Nat) : State :=
  s.modTenant tenant (fun n => { n with acks := (k, sweep, pkg) :: n.acks.erase (k, sweep, pkg) })

/-- MARKING_ACK (R365). -/
def execMarkingAck (tenant colour pkg : Nat) (s : State) : Host.Outcome State Fault Refusal :=
  match (s.revOf tenant colour).map (fun (v : Revocation) => v.phase) with
  | some (.marking await own) => .next (s.setRev tenant colour (.marking (await.erase pkg) own))
  | some (.sweeping _ _) => .next s
  | none => .next (s.earlyAck tenant colour false pkg)

/-! ## The sweep (R366) -/

/-- A quad's colour by its bytes. -/
def colourAt (bs : List Byte) : Nat := ({ bits := BitVec.ofNat 128 (bytesNat bs), tag := false } : Cap).colour

/-- Tags of the tenant's memory: every granule of a frame of its partitions. -/
def State.sweepMemory (s : State) (tenant k : Nat) : State :=
  { s with tags := s.tags.filter (fun g =>
      !((s.part (s.frame (g / 4096)).part).tenant == tenant && (s.frame (g / 4096)).state != 0 && (s.frame (g / 4096)).state != 2
        && colourAt (memReadN s.mem (g * 16) 16) == k)) }

/-- Tags of the data SRAM of the CUs that hold the tenant's groups. -/
def State.sweepSram (s : State) (tenant k : Nat) : State :=
  { s with cus := s.cus.mapIdx (fun i c =>
      if (s.groupsOn i).any (fun g => (s.part g.ctx.part).tenant == tenant) then
        { c with sramTags := c.sramTags.filter (fun g => colourAt (memReadN c.sram (g * 16) 16) != k) }
      else c) }

/-- A thread's operand log: the tags of its capability and of the quad it stores. -/
def Thread.sweepLog (t : Thread) (k : Nat) : Thread :=
  { t with log := t.log.map (fun (o : OpLog) => { o with
      cap := if o.cap.colour = k then o.cap.withTag false else o.cap
      dataTag := o.dataTag && ({ bits := o.data, tag := false } : Cap).colour != k }) }

/-- The threads of the tenant that no train holds: such a thread is between trains, though another train of its group may run (DESIGN CHOICE,
log entry 50). -/
def State.sweepThreads (s : State) (tenant k : Nat) : State :=
  let mine := fun (t : Thread) => (s.part t.ctx.part).tenant == tenant
  let s := s.modThreads mine (·.sweepLog k)
  s.modThreads (fun t => mine t && !s.trains.any (inTrain t)) (·.sweepTags k)

/-- A saved context's image. -/
def Image.sweep (i : Image) (k : Nat) : Image :=
  { i.mapThreads (fun t => (t.sweepLog k).sweepTags k) with
    sram := i.sram.map (fun (b : SavedBytes) => { b with tags := b.tags.filter (fun g => colourAt (memReadN b.bytes (g * 16) 16) != k) }) }

/-- An operation names a capability of the colour. -/
def EngineEntry.names (e : EngineEntry) (k : Nat) : Bool := e.op.caps.any (fun x => x.1.colour == k)

/-- Queued operations not begun are recorded REVOKED (R288). -/
def State.sweepQueues (s : State) (tenant k : Nat) : State :=
  let cs := s.contexts.filter (fun c => (s.part c.id.part).tenant == tenant)
  cs.foldl (fun s c => c.queues.foldl (fun s q =>
    let out := q.entries.filter (fun e => !e.begun && e.names k)
    let s := s.modQueue c.id q.cu q.q (fun l => l.filter (fun e => e.begun || !e.names k))
    out.foldl (fun s e => (s.voidSlot c.id q.cu e (some (.revoked, 0))).opDone e (some (.revoked,
      BitVec.ofNat 64 (((e.op.caps.find? (fun x => x.1.colour == k)).map (·.2)).getD 0)))) s) s) s

/-- A capability keeps its tag while its colour passes a test. -/
def keepTag (live : Nat → Bool) (c : Cap) : Cap := if live c.colour then c else c.withTag false

/-- The capabilities that a launch holds: for threads still to be admitted, its fetches and its record. -/
def Launch.keepTags (l : Launch) (live : Nat → Bool) : Launch :=
  { l with quads := l.quads.map (keepTag live), args := l.args.map (keepTag live), record := keepTag live l.record }

/-- The quads that a recorded peer request carries. -/
def keepOpTags (live : Nat → Bool) : PeerOp → PeerOp
  | .write bs tag stc => .write bs (tag.map (fun b => b && live (colourAt bs))) stc
  | .acasc e n => .acasc (keepTag live e) (keepTag live n)
  | .read n tagged => .read n tagged
  | .desc => .desc
  | .atom op wide v quiet => .atom op wide v quiet
  | .acas wide c n => .acas wide c n

/-- An entry of a replay list. -/
def Flight.keepTags (f : Flight) (live : Nat → Bool) : Flight :=
  { f with packet := f.packet.map (fun (p : PeerPacket) => { p with op := keepOpTags live p.op }) }

/-- Capabilities that launches hold for threads still to be admitted. -/
def State.sweepLaunches (s : State) (tenant k : Nat) : State :=
  { s with launches := modWhere s.launches (fun l => (s.part l.ctx.part).tenant == tenant) (fun (l : Launch) => l.keepTags (· != k)) }

/-- A begun operation of the colour is still to be performed (R288). -/
def State.begunOf (s : State) (tenant k : Nat) : Bool :=
  s.contexts.any (fun c => (s.part c.id.part).tenant == tenant && c.queues.any (fun q => q.entries.any (fun e => e.begun && e.names k)))

/-- The colour is free again, and the call is answered (R366): its status is written as a release at `.sys`. -/
def State.freeColour (s : State) (tenant k : Nat) (caller : Option (TId × Nat)) : State :=
  let s := s.settleWrites.modTenant tenant (fun n => { n with
    colours := modAt n.colours k (fun c => { c with state := 0 }), revs := n.revs.filter (·.colour != k) })
  match caller with
  | some (id, d) => s.resumeCaller id (fun t => t.setReg d 0)
  | none => s

/-- Every package has acknowledged its sweep. -/
def State.trySweepEnd (s : State) (tenant k : Nat) : State :=
  match s.revOf tenant k with
  | some v => match v.phase with
    | .sweeping [] true => s.freeColour tenant k v.caller
    | .sweeping _ _ => s
    | .marking _ _ => s
  | none => s

/-- A saved context: its image, its replay list. -/
def Context.sweep (c : Context) (k : Nat) : Context :=
  { c with image := c.image.map (·.sweep k), replay := c.replay.map (·.keepTags (· != k)) }

/-- An export image that firmware holds: the context, its launches, and what its queues name. -/
def Export.sweep (e : Export) (k : Nat) : Export :=
  let op := fun (x : EngineEntry) => if x.names k then { x with op := x.op.mapCaps (keepTag (· != k)) } else x
  let c := e.context.sweep k
  { e with
    launches := e.launches.map (·.keepTags (· != k))
    context := { c with queues := c.queues.map (fun (q : EngineQueue) => { q with entries := q.entries.map op }) } }

/-- The images of the tenant's saved contexts, and its export images that have arrived. -/
def State.sweepImages (s : State) (tenant k : Nat) : State :=
  let s := s.modContexts (fun c => (s.part c.id.part).tenant == tenant) (·.sweep k)
  { s with staged := modWhere s.staged (fun e => e.context.tenant == tenant) (fun e => e.sweep k) }

/-- The tags of writes that are still to be performed. -/
def State.sweepStores (s : State) (tenant k : Nat) : State :=
  { s with stores := modWhere s.stores (fun p => (s.part p.ctx.part).tenant == tenant && colourAt p.bytes == k) (fun (p : PStore) =>
      { p with tag := p.tag.map (fun _ => false) }) }

/-- Every place of R366's table but the registers of threads in trains. -/
def State.sweepAll (s : State) (tenant k : Nat) : State :=
  (((((((s.settleWrites.sweepMemory tenant k).sweepStores tenant k).sweepSram tenant k).sweepThreads tenant k).sweepImages tenant k).sweepLaunches tenant k).sweepQueues
    tenant k).wakeMet

/-- REVOCATION_SWEEP (R366): once every package has acknowledged the marking, the sweep begins; threads in trains are swept between
trains; this package is done when all have been and no begun operation of the colour is left. -/
def execRevocationSweep (tenant colour : Nat) (s : State) : Host.Outcome State Fault Refusal :=
  match (s.revOf tenant colour).map (fun (v : Revocation) => v.phase) with
  | some (.marking [] true) =>
    let pkgs := s.otherPackages tenant
    let await := (((s.tenant tenant).map (fun n => (n.await colour true pkgs).1)).getD pkgs)
    let s := (s.trainsOld tenant colour).modTenant tenant (fun n => (n.await colour true pkgs).2)
    .next ((s.setRev tenant colour (.sweeping await false)).sweepAll tenant colour)
  | some (.marking _ _) => .next s
  | some (.sweeping await false) =>
    let s := s.sweepAll tenant colour
    if s.someOld tenant colour || s.begunOf tenant colour then .next s
    else .next (((s.setRev tenant colour (.sweeping await true)).emit (.sweepAck tenant colour)).trySweepEnd tenant colour)
  | some (.sweeping _ true) => .next s
  | none => .next s

/-- SWEEP_ACK (R366): the last acknowledgement frees the colour. -/
def execSweepAck (tenant colour pkg : Nat) (s : State) : Host.Outcome State Fault Refusal :=
  match (s.revOf tenant colour).map (fun (v : Revocation) => v.phase) with
  | some (.sweeping await own) => .next ((s.setRev tenant colour (.sweeping (await.erase pkg) own)).trySweepEnd tenant colour)
  | some (.marking _ _) => .next (s.earlyAck tenant colour true pkg)
  | none => .next s

end Sys2Proof.Machine
end

