-- ==== Sys2Proof/Machine/Controller.lean ====
section
/-!
DEFINITION. A slice's own units (11 R276, R277; 14 R355, R356; 16 R392; 17 R404; 19 R431): scrubbing, refresh, channel windows, the
monitors, clocks, resets, and the tables that slice firmware writes there.
-/

namespace Sys2Proof.Machine

/-! ## Memory controller -/

/-- Granules of a stack, carve-out included (R277, R337): 80 GiB. -/
def granulesPerStack : Nat := 5368709120

/-- PATROL_SCRUB (R277): the next granule is read and classified, with no reader to inform. Its tag word is read with it, so that an error
there counts as in a tagged read (DESIGN CHOICE, log entry 72). -/
def execPatrolScrub (slice : Nat) (s : State) : Host.Outcome State Fault Refusal :=
  let c := s.slice slice
  if 16 ≤ slice || !c.powered || c.held then .next s
  else
    let g := slice * 2 ^ 33 + c.patrol
    .next ((s.readGranule true g).2.modSlice slice (fun c => { c with
      patrol := (c.patrol + 1) % granulesPerStack, patrolled := s.time, events := { c.events with scrubbed := c.events.scrubbed + 1 } }))

/-- The refresh window in nanoseconds: 32 ms, 16 ms above 85 degrees (R276, R392). -/
def Slice.refreshWindow (c : Slice) : Nat := if c.monitor.status.getLsbD 0 then 16000000 else 32000000

/-- REFRESH_DUE (R276): a refresh of a row group within the window of its timestamp is skipped. One that is issued begins the group's
activations anew. A group that the controller has a timestamp of falls due by itself when its window is over (State.dueNow). -/
def execRefreshDue (slice row : Nat) (s : State) : Host.Outcome State Fault Refusal :=
  if 16 ≤ slice then .next s
  else
    let g := (s.slice slice).rowGroup row
    let skip := decide (s.time < g.stamp + (s.slice slice).refreshWindow)
    .next (s.modSlice slice (fun c => { c.setRowGroup (if skip then g else { g with stamp := s.time, acts := [] }) with
      events := if skip then { c.events with skipped := c.events.skipped + 1 } else { c.events with refreshes := c.events.refreshes + 1 } }))

/-- CHANNEL_WINDOW (R355): 4 µs have passed on a channel; what was served there and who waited belongs to the past. -/
def execChannelWindow (slice chan : Nat) (s : State) : Host.Outcome State Fault Refusal :=
  let start := (kvGet (s.slice slice).windows chan).getD 0
  if 16 ≤ slice || s.time < start + 4000 then .next s
  else
    let past := fun (u : ChanUse) => u.chan == chan && u.window < s.chanWindow
    .next (s.modSlice slice (fun c => { c with
      windows := kvPut c.windows chan (s.time / 4000 * 4000)
      uses := c.uses.filter (fun u => !past u), waits := c.waits.filter (fun u => !past u) }))

/-- ARBITER_TABLE_WRITE (R355): firmware keeps the floors of a channel at or below 10,800 and each ceiling at or above its floor. -/
def execArbiterTableWrite (slice chan part floor ceiling : Nat) (s : State) : Host.Outcome State Fault Refusal :=
  let c := s.slice slice
  let rest := c.arb.filter (fun a => !(a.chan == chan && a.part == part))
  let sum := ((rest.filter (·.chan == chan)).map (·.floor)).foldl (· + ·) floor
  if 16 ≤ slice || 16 ≤ part || 10800 < sum || ceiling < floor || 0xFFFF < ceiling then .next s
  else .next (s.modSlice slice (fun c => { c with arb := { chan := chan, part := part, floor := floor, ceil := ceiling } :: rest }))

/-- WAY_QUOTA_WRITE (R356). -/
def execWayQuotaWrite (slice part : Nat) (mask : BitVec 32) (s : State) : Host.Outcome State Fault Refusal :=
  .next (s.modSlice slice (fun c => { c with ways := c.ways.set part mask }))

/-- FAIRNESS_LIMIT_WRITE (R175): between launches, a value it permits. -/
def execFairnessLimitWrite (cu limit : Nat) (s : State) : Host.Outcome State Fault Refusal :=
  if limit < 256 || 65536 < limit || !(s.groupsOn cu).isEmpty then .next s
  else .next (s.modCu cu (fun c => { c with fairness := limit }))

/-! ## Reset (R404) -/

/-- SLICE_RESET (R404). -/
def execSliceReset (slice : Nat) (s : State) : Host.Outcome State Fault Refusal :=
  .next (if slice < 16 then s.resetSlice slice else s)

/-- SLICE_WATCHDOG (R404): it asks for a reset. -/
def execSliceWatchdog (slice : Nat) (s : State) : Host.Outcome State Fault Refusal :=
  .next (s.modSlice slice (fun c => { c with watchdog := true }))

/-! ## Monitors and clocks -/

/-- The status byte of a temperature in eighths of a degree (R392). -/
def heatStatus (t : BitVec 16) : Byte :=
  (if 680 < t.toInt then 1 else 0) ||| (if 760 < t.toInt then 2 else 0) ||| (if 840 < t.toInt then 4 else 0)

/-- The hottest of a slice's three cluster sensors (R392). -/
def State.dieTemp (s : State) (slice : Nat) : BitVec 16 :=
  let v := fun (j : Nat) => s.sensors.die.getD (3 * slice + j) 0
  [v 1, v 2].foldl (fun m t => if m.toInt < t.toInt then t else m) (v 0)

/-- MONITOR_SAMPLE (R392, R431), every 100 µs: the record is written whole; a critical slice is reset and held until it is below 85
degrees. -/
def execMonitorSample (slice : Nat) (s : State) : Host.Outcome State Fault Refusal :=
  if 16 ≤ slice || !(s.slice slice).powered || s.time < ((s.slice slice).sampled.getD 0) + 100000 then .next s
  else
    let v := fun (l : List (BitVec 16)) => l.getD slice 0
    let t := s.dieTemp slice
    let st := heatStatus t
    let s := s.modSlice slice (fun c => { c with
      sampled := some s.time
      monitor :=
        { dieTemp := t, stackTemp := v s.sensors.stack, coreMv := v s.sensors.core, memMv := v s.sensors.mem, process := v s.sensors.process
          status := st, sample := c.monitor.sample + 1 } })
    let boot := s.curator.excluded.getLsbD slice || !(s.curator.started || s.curator.starting)
    let held := (s.slice slice).held
    .next (if st.getLsbD 2 && !held then
        ((s.resetSlice slice).modSlice slice (fun c => { c with held := true })).holdOwner slice
      else if held && !boot && t.toInt < 680 then (s.modSlice slice (fun c => { c with held := false })).holdOwner slice
      else s)

/-- POWER_CONTROL_STEP (R431): once a millisecond all clocks fall or rise together by the power, and a slice that is too warm lowers
its own; it runs at the lower of the two. -/
def execPowerControlStep (s : State) : Host.Outcome State Fault Refusal :=
  let c := s.curator
  if s.time < c.stepped + 1000000 then .next s
  else
  let above := c.powerLimit < s.sensors.power
  let cool := decide (s.sensors.power * 100 ≤ c.powerLimit * 95)
  let pace := if above then max 10 (c.pace - 1) else if cool then min 20 (c.pace + 1) else c.pace
  let step := fun (c : Slice) =>
    let warm := if c.monitor.status.getLsbD 1 then max 10 (c.warm - 1) else min 20 (c.warm + 1)
    { c with warm := warm, clock := min pace warm }
  .next { s with curator := { c with pace := pace, stepped := s.time }, slices := s.slices.map step }

end Sys2Proof.Machine
end

