-- ==== Sys2Proof/Machine/Partitions.lean ====
section
/-!
DEFINITION. What slice firmware does to partitions, tenants and contexts (02 R12, R14; 09 R215; 13 R333; 15 R357, R358, R363, R378; 17
R406, R458; 19 R433, R454).
-/

namespace Sys2Proof.Machine

/-! ## Tenants -/

/-- A colour table at a tenant's creation: colour 0 live (R363). -/
def freshColours : List Colour :=
  { state := 1, epoch := 0, lo := 0, hi := 0 } :: List.replicate 15 { state := 0, epoch := 0, lo := 0, hi := 0 }

/-- TENANT_CREATE (R363, R413): its keys are generated, its colour table initialised. -/
def execTenantCreate (tenant : Nat) (s : State) : Host.Outcome State Fault Refusal :=
  if (s.tenant tenant).isSome then .next s
  else
    let (n, s) := s.draw
    let (m, s) := s.draw
    .next { s with tenants := s.tenants ++
      [{ id := tenant, colours := freshColours, memKey := Config.xtsKey n, transferKey := Config.xtsKey m, kek := none, pubKeys := []
         exports := [], revs := [], acks := [] }] }

/-- TENANT_END (R413): once no partition is its own; colour 0 is freed and its keys are destroyed, in every controller too (R268). -/
def execTenantEnd (tenant : Nat) (s : State) : Host.Outcome State Fault Refusal :=
  if s.parts.any (fun p => p.state != 0 && p.tenant == tenant) then .next s
  else .next { s with
    tenants := s.tenants.filter (·.id != tenant)
    slices := s.slices.map (fun (c : Slice) => { c with memKeys := c.memKeys.filter (·.tenant != tenant) }) }

/-! ## Creating a partition -/

/-- Slices in ascending order (R12). -/
def ascending (l : List Nat) : List Nat := (List.range 16).filter l.contains

/-- A slice may be given to a new partition: owned by none, powered, and not held since the start (R357, R428). -/
def State.sliceFree (s : State) (n : Nat) : Bool :=
  n < 16 && (s.ownerOf n).isNone && !(s.slice n).held && (s.slice n).powered

/-- The highest generation any partition has held on some of these slices (R454). -/
def State.topGen (s : State) (ns : List Nat) : Nat := (ns.map (fun n => (s.maxGens.getD n 0).toNat)).foldl max 0

/-- Slices remember a generation (R454). -/
def State.noteGen (s : State) (ns : List Nat) (gen : BitVec 16) : State :=
  { s with maxGens := ns.foldl (fun l n => modAt l n (fun g => if g.toNat < gen.toNat then gen else g)) s.maxGens }

/-- Sixteen consecutive frames, aligned to a root table's size (R338). -/
def rootFrames (pool : List Nat) : Bool :=
  let f := pool.headD 0
  16 ≤ pool.length && f % 16 == 0 && pool.take 16 == (List.range 16).map (f + ·)

/-- Firmware takes frames for its tables: zeroed, in state firmware (R344). -/
def State.takeFrames (s : State) (fs : List Nat) : State :=
  fs.foldl (fun s f => (s.scrubFrame f).setFrame f { state := 2, scrub := false, lent := false, part := 0, seq := (s.frame f).seq }) s

/-- A partition's own slices hold all their L2 ways for it (R336). -/
def State.ownWays (s : State) (part : Nat) (ns : List Nat) : State :=
  ns.foldl (fun s n => s.modSlice n (fun c => { c with ways := c.ways.set part 0xFFFFFFFF#32 })) s

/-- A new entry of the partition table, with its virtual function (R357, R433); its slices hold its tenant's keys (R268). -/
def State.openPartition (s : State) (p : Nat) (e : Partition) : State :=
  let s := e.map.foldl (fun s n => s.keysTo p n) (s.modPart p (fun _ => e))
  let s := s.modVf p (fun _ => { Vf.reset with enabled := true, gen := e.gen })
  (s.noteGen e.map e.gen).ownWays p e.map

/-- PARTITION_CREATE (R12, R357, R433, R454): a fresh generation, logical slices in ascending physical order, a root table in the
frames firmware takes, a write log on each slice (R274), and the first frames granted and mapped writable, tag-capable, executable and under the memory key, so that the
tenant can place a record. -/
def execPartitionCreate (p : PartSpec) (s : State) : Host.Outcome State Fault Refusal :=
  let map := ascending p.slices
  let fs := p.pool ++ p.bootFrames
  if 16 ≤ p.part || (s.part p.part).state != 0 || map.isEmpty || map.length != p.slices.length || !map.all s.sliceFree
      || (s.tenant p.tenant).isNone || !rootFrames p.pool || fs.eraseDups.length != fs.length
      || fs.any (fun f => (s.frame f).state != 0 || framesPerStack ≤ f % 2 ^ 21 || 16 ≤ f / 2 ^ 21)
      || p.bootVa.toNat % 65536 != 0 || 2 ^ 56 < p.bootVa.toNat + p.bootFrames.length * 65536
      || p.logFrames < 4096 || 65536 < p.logFrames then .next s
  else
    let e : Partition :=
      { state := 1, gen := BitVec.ofNat 16 (s.topGen map + 1), tenant := p.tenant, fabric := p.fabric, map := map
        root := p.pool.headD 0 * 65536, pkg := p.pkg, grants := [], pool := p.pool, poolUsed := 0, reach := [], staging := []
        receipts := [], closing := false }
    let s := (s.takeFrames p.pool).openPartition p.part e
    let s := p.bootFrames.foldl (fun s f => s.grantFrame p.part f) s
    let s := map.foldl (fun s n => s.reserveLog n p.logFrames) s
    .next ((s.mapRange p.part p.bootVa.toNat p.bootFrames 0x800000000000008C#64).remeasure p.part)

/-! ## Contexts -/

/-- The frames that back a context's slabs (R215): one slab for each resident-thread slot. -/
def slabCount (n slabSize : Nat) : Nat := slabSize / 65536 * (12 * n * 2048)

/-- A root capability keeps the invariants of R153: E, bounds in order and in its space's window, swizzle, element size, an allocated
colour, its own space. -/
def State.rootOk (s : State) (part space : Nat) (c : Cap) : Bool :=
  let d := c.decode
  let win := match space with
    | 0 => (0, 2 ^ 56)
    | 1 => (2 ^ 56, 2 ^ 57)
    | 2 => (0xFC * 2 ^ 56, 0xFD * 2 ^ 56)
    | 3 => (0xFD * 2 ^ 56, 0xFE * 2 ^ 56)
    | 4 => (0xFE * 2 ^ 56, 0xFF * 2 ^ 56)
    | 5 => (0, 2 ^ 56)
    | _ => (0, 16)
  !c.tag || (c.space == space && space < 7 && c.exp ≤ 50 && d.1 ≤ d.2 && win.1 ≤ d.1 && d.2 ≤ win.2 && c.swizzle ≤ 4 && c.esize ≤ 4
    && s.colourState part c.colour != 0)

/-- The frames of some runs, in order. -/
def runFrames (rs : List (Nat × Nat)) : List Nat := rs.flatMap (fun r => (List.range r.2).map (r.1 + ·))

/-- Runs lie apart. -/
def runsApart : List (Nat × Nat) → Bool
  | [] => true
  | r :: rs => rs.all (fun q => q.1 + q.2 ≤ r.1 || r.1 + r.2 ≤ q.1) && runsApart rs

/-- CONTEXT_CREATE (R215, R337): its private slabs are reserved and mapped tag-capable and RC; its handle table is free. -/
def execContextCreate (c : CtxSpec) (s : State) : Host.Outcome State Fault Refusal :=
  let p := s.part c.ctx.part
  let n := slabCount p.n c.slabSize
  if (p.state != 1 && p.state != 2) || p.closing || (s.context c.ctx).isSome || 2 ^ 16 ≤ c.ctx.id || c.slabSize % 65536 != 0 || 2 ^ 24 < c.slabSize
      || c.privBase % 65536 != 0 || 2 ^ 56 < c.privBase + n * 65536 || s.mappedIn c.ctx.part c.privBase n != 0
      || (c.slabRuns.map (·.2)).foldl (· + ·) 0 != n || !runsApart c.slabRuns || !c.slabRuns.all (fun r => 0 < r.2 && s.freeSpan r.1 r.2)
      || !((c.roots.zipIdx).all (fun r => s.rootOk c.ctx.part r.2 r.1)) then .next s
  else
    let x : Context :=
      { id := c.ctx, tenant := p.tenant, prio := c.prio, life := .resident, handles := List.replicate 64 0, slabSize := c.slabSize
        privBase := c.privBase, slabFrames := c.slabRuns, roots := c.roots, remap := List.range 192
        tileMap := 0, spilled := [], replay := [], lown := [], session := none, watches := [], perf := [], queues := [], allots := []
        clkOff := 0, lastClk := 0, image := none }
    let s : State := { s with contexts := s.contexts ++ [x] }
    let s := c.slabRuns.foldl (fun s r =>
      (s.takeRun r.1 r.2 { state := 1, scrub := true, lent := !p.map.contains (r.1 / 2 ^ 21), part := c.ctx.part, seq := 1 }).keysTo
        c.ctx.part (r.1 / 2 ^ 21)) s
    let s := (s.modPart c.ctx.part (fun p => { p with state := 1, grants := p.grants ++ runFrames c.slabRuns })).settleReset c.ctx.part
    .next (s.mapRange c.ctx.part c.privBase (runFrames c.slabRuns) 0x8C#64)

/-- The first steps of a context's end (R458): its launches end, their records are to be written with the partition's generation, in the
order of R34. -/
def State.beginEnd (s : State) (c : CtxId) : State :=
  let mine := s.launches.filter (fun l => l.ctx == c)
  let gen := (s.part c.part).gen
  let s : State := { s with launches := s.launches.filter (fun l => !(l.ctx == c && l.phase == Phase.waiting)) }
  let s := s.endLaunches (mine.map (·.uid))
  let due := fun (l : Launch) => { l with
    gen := gen
    phase := match l.phase with
      | .finishing _ => Phase.finishing none
      | .waiting => .waiting
      | .running => .running }
  let s : State := { s with launches := modWhere s.launches (fun l => l.ctx == c) due }
  s.modContext c (fun x => { x with life := .ending })

/-- The records that can be written at once are, children first (R34, R458). -/
def State.endRecords (s : State) (c : CtxId) : State :=
  (((s.launches.filter (fun l => l.ctx == c)).map (·.uid)).reverse).foldl (fun s uid => match s.launch uid with
    | some l => if s.allDone l then s.writeRecord l else s
    | none => s) s

/-- The last steps of a context's end (R458): nothing of it is left. -/
def State.finishEnd (s : State) (c : CtxId) : State :=
  let s := s.clearContext c
  let s := s.modVf c.part (fun v => { v with
    reqs := v.reqs.filter (fun r => r.ctx.toNat != c.id || s.awaits c.part r.page (· != c))
    queues := v.queues.map (fun (q : QueueRegs) => if q.bound = some c.id then QueueRegs.reset else q) })
  let s := (((s.context c).map (·.slabFrames)).getD []).foldl (fun s r => s.freeRun r.1 r.2) s
  { s with contexts := s.contexts.filter (fun x => !(x.id = c)) }

/-- The private slabs of a context are unmapped, and their invalidation begun (R343, R344). -/
def State.unmapSlabs (s : State) (c : CtxId) : State :=
  let runs := ((s.context c).map (·.slabFrames)).getD []
  let base := ((s.context c).map (·.privBase)).getD 0
  let n := (runs.map (·.2)).foldl (· + ·) 0
  if runs.isEmpty then s else ((s.settlePart c.part).unmapRange c.part base n).atsStale c.part base (n * 65536)

/-- A context ends as far as it can now: it waits for records that other packages have still to acknowledge, and for the invalidation. -/
def State.endContext (s : State) (c : CtxId) : State :=
  let s := if s.ends c then s else s.beginEnd c
  let s := s.endRecords c
  if s.launches.any (fun l => l.ctx == c) then s
  else
    let s := s.unmapSlabs c
    if s.atsBusy c.part then s else s.finishEnd c

/-- CONTEXT_END (R458). -/
def execContextEnd (c : CtxId) (s : State) : Host.Outcome State Fault Refusal :=
  match s.context c with
  | none => .next s
  | some _ => .next (s.endContext c)

/-- QUEUE_BIND (R333): the set's registers, its base among them, are at reset, which a locked interface takes as a change of a frozen item
(R417). -/
def execQueueBind (vf q ctx : Nat) (s : State) : Host.Outcome State Fault Refusal :=
  if (s.context { part := vf, id := ctx }).isNone || 64 ≤ q then .next s
  else if s.frozen vf then .next (s.tdispError vf)
  else .next (s.modQregs vf q (fun _ => { QueueRegs.reset with bound := some ctx }))

/-- CONTEXT_PRIORITY_WRITE (R187). -/
def execContextPriorityWrite (c : CtxId) (prio : BitVec 2) (s : State) : Host.Outcome State Fault Refusal :=
  .next (s.modContext c (fun x => { x with prio := prio }))

/-! ## Removing, gating -/

/-- The catalogue entries and key slots of slices are freed, and their keys purged from every cache (R370). -/
def State.freeCatalogue (s : State) (ns : List Nat) : State :=
  let s := ns.foldl (fun s n => s.modSlice n (fun c => { c with
    cat := List.replicate 16 CatEntry.reset, keys := List.replicate 16 KeySlot.reset })) s
  { s with cus := s.cus.map (fun (c : Cu) => { c with keyCache := c.keyCache.filter (fun k => !ns.contains k.1) }) }

/-- What a removed partition held is free: its frames, but the retired ones, its tables, its write logs, its catalogue; its virtual
function is disabled (R433). -/
def State.freePartition (s : State) (p : Nat) : State :=
  let e := s.part p
  let s := s.settleWrites
  let s := (s.frames.filter (fun f => f.2.part == p && (f.2.state == 1 || f.2.state == 4))).foldl (fun s f => s.freeFrameOf f.1) s
  let s := e.pool.foldl State.freeFrameOf s
  let s := e.map.foldl State.freeLog s
  let s := s.freeCatalogue e.map
  let s := s.invalidate p 0 (2 ^ 56)
  let s : State := { s with
    flights := s.flights.filter (fun f => f.part != p), launches := s.launches.filter (fun l => l.ctx.part != p)
    slices := s.slices.map (fun (c : Slice) => { c with arb := c.arb.filter (fun a => a.part != p), ways := c.ways.set p 0 })
    hostWaits := s.hostWaits.filter (fun w => w.vf != p)
    curator := { s.curator with
      sessions := s.curator.sessions.filter (fun k => k.vf != p), lastBlocks := s.curator.lastBlocks.filter (fun b => b.1 != p) } }
  (s.modPart p (fun _ => Partition.reset)).modVf p (fun _ => Vf.reset)

/-- A partition is removed (R433): its contexts end (R458), and once their records are written what it held is free. -/
def State.closePartition (s : State) (p : Nat) : State :=
  let s := s.modPart p (fun e => { e with closing := true })
  let s := ((s.contexts.filter (fun c => c.id.part == p)).map (·.id)).foldl State.endContext s
  if s.contexts.any (fun c => c.id.part == p) then s else s.freePartition p

/-- PARTITION_REMOVE (R433); of a locked interface it is a change of a frozen item (R417). -/
def execPartitionRemove (part : Nat) (s : State) : Host.Outcome State Fault Refusal :=
  .next (if (s.part part).state = 0 then s else if s.frozen part then s.tdispError part else s.closePartition part)

/-- A tile of a context is spilled to its save area, and its bit set (R306, R401). The map has one bit and one record for a tile's number:
where a context owns the tiles of one number on two CUs, the record of the later spill takes the earlier one's place (DESIGN CHOICE, log
entry 94). -/
def State.spillTile (s : State) (cu i : Nat) : State :=
  let t := s.tile cu i
  match t.owner with
  | none => s
  | some o =>
    let s := s.modContext o (fun (x : Context) => { x with
      tileMap := x.tileMap ||| (1#16 <<< i), spilled := { tile := i, data := t.data, flags := t.flags } :: x.spilled.filter (·.tile != i) })
    s.modCu cu (fun c => { c with tiles := c.tiles.set i Tile.reset })

/-- The physical CUs of slices. -/
def cusOf (ns : List Nat) : List Nat := ns.flatMap (fun n => (List.range 12).map (12 * n + ·))

/-- PARTITION_GATE (R358): the slices of a descheduled partition are powered down, tiles spilled first. -/
def execPartitionGate (part : Nat) (s : State) : Host.Outcome State Fault Refusal :=
  let e := s.part part
  if e.state != 2 then .next s
  else
    let s := (cusOf e.map).foldl (fun s cu => (List.range 16).foldl (fun s i => s.spillTile cu i) s) s
    let s : State := { s with cus := s.cus.mapIdx (fun i c => if e.map.contains (sliceOf i) then { c.cleared with fairness := c.fairness } else c) }
    let s := e.map.foldl (fun s n => s.modSlice n (fun c => { c with powered := false, tlb := [], l2 := [] })) s
    .next (s.modPart part (fun p => { p with state := 3 }))

/-- PARTITION_POWER_UP (R416): the slices have power again, and the partition runs. -/
def execPartitionPowerUp (part : Nat) (s : State) : Host.Outcome State Fault Refusal :=
  let e := s.part part
  if e.state != 3 then .next s
  else .next ((e.map.foldl (fun s n => s.modSlice n (fun c => { c with powered := true })) s).modPart part (fun p => { p with state := 1 }))

/-- VF_RESET (R345, R333, R350): registers at reset, ATS enabled again for its functions; bindings stay. Of a locked interface it is a
change of frozen items, the register bases and the ATS enablement (R417); one in ERROR stays there until STOP_INTERFACE. -/
def execVfReset (vf : Nat) (s : State) : Host.Outcome State Fault Refusal :=
  .next (if s.frozen vf then s.tdispError vf
    else s.modVf vf (fun v => if v.enabled then
      { Vf.reset with
        enabled := true, gen := v.gen, queues := v.queues.map (fun (q : QueueRegs) => { QueueRegs.reset with bound := q.bound })
        reqs := modWhere v.reqs (fun _ => true) (fun (r : PageReq) => { r with written := false })
        tdisp := v.tdisp, links := v.links, switches := v.switches, mapCalls := v.mapCalls, catCalls := v.catCalls }
      else v))

/-- REACH_TABLE_WRITE (R378); while the interface is locked a change of a frozen item (R417). An entry of the own package stays as it
is; ports that are not authenticated leave the mask (R419). -/
def execReachTableWrite (part pkg : Nat) (entry : BitVec 32) (s : State) : Host.Outcome State Fault Refusal :=
  let e := s.part part
  let off := (List.range 12).foldl (fun (m : BitVec 32) i => if s.portOpen i then m else m ||| (1#32 <<< (19 + i))) 0
  .next (if e.state = 0 || 1024 ≤ pkg || pkg = e.pkg.toNat || (entry &&& 0x7FFF#32) != 0 then s
    else if s.frozen part then s.tdispError part
    else (s.modPart part (fun p => { p with reach := kvPut p.reach pkg (entry &&& ~~~off) })).remeasure part)

end Sys2Proof.Machine
end

