-- ==== Sys2Proof/Machine/Images.lean ====
section
/-!
DEFINITION. Pre-emption, save and restore, export and import (17 R394 to R409; 10 R262; 15 R367): quiescence, the image of a context,
its placement on CUs.
-/

namespace Sys2Proof.Machine

/-! ## Quiescence (R396) -/

/-- A thread of a stopped context keeps its PC: at its word, or back at its platform if its train had still to check the block's
header. -/
def State.stopThread (s : State) (r : Train) (t : Thread) : State :=
  match t.run with
  | .train _ => if r.check && r.head then s.arrive t t.blk else s.putThread { t with run := .eligible (s.now t.cu) 0 }
  | _ => s

/-- A launch belongs to a context. -/
def State.launchIn (s : State) (c : CtxId) (uid : Nat) : Bool := ((s.launch uid).map (fun l => l.ctx == c)).getD false

/-- The trains of a context end. -/
def State.stopTrains (s : State) (c : CtxId) : State :=
  let s := if s.cur.any (fun t => t.ctx == c) then s.putBack else s
  let rs := s.trains.filter (fun r => s.launchIn c r.launch)
  let s := rs.foldl (fun s r => (s.members r).foldl (fun s t => match s.thread t.id with
    | some t => s.stopThread r t
    | none => s) s) s
  { s with trains := s.trains.filter (fun r => !s.launchIn c r.launch) }

/-- A sleeping `wadr` goes on with 0 (R236). -/
def State.wakeSleeper (s : State) (t : Thread) : State :=
  match t.run with
  | .parked (.monitor d _) _ => s.resumeNext (t.setReg d 0)
  | _ => s

/-- Calls that firmware has not begun are taken back, and their threads issue them again (R396). -/
def State.recallCalls (s : State) (c : CtxId) : State :=
  let idle := fun (k : Call) => k.status.isNone && match k.caller with
    | some id => s.launchIn c id.launch
    | none => false
  let ids := ((s.vf c.part).mapCalls.filter idle).filterMap (·.caller)
  let s := s.modVf c.part (fun v => { v with mapCalls := v.mapCalls.filter (fun k => !idle k) })
  ids.foldl (fun s id => match s.thread id with
    | some t => s.wakeAt t
    | none => s) s

/-- A write that a context's save waits for: its own, one that happens before its threads' next releases, one whose release they
have read from, or one that they have read (R242, R262). -/
def State.holdsSave (s : State) (c : CtxId) (p : PStore) : Bool :=
  let heads := (s.threads.filter (fun t => t.ctx == c)).flatMap (fun t => t.got ++ t.fenced)
  p.ctx == c || p.hb.any (fun id => s.launchIn c id.launch) || heads.any (·.covers.contains p.req)
    || s.threads.any (fun t => t.ctx == c && t.seen.contains p.req)

/-- Issue stops; peer reads that wait for their beat are sent; results and writes in flight land; sleepers wake; calls not begun are taken
back (R396 steps 1 and 2). A request for a context that does not issue, its restore's replays not yet performed among them, is dropped, and
its firmware asks again (DESIGN CHOICE, log entry 95). -/
def State.preempt (s : State) (c : CtxId) : State :=
  if !s.issues c then s
  else
    let s := ((s.stopTrains c).modContext c (fun x => { x with life := .quiet })).sendReads
    let s := ((s.flights.filter (fun f => s.launchIn c f.thread.launch)).foldl State.landFlight s)
    let s := s.commitReady (s.holdsSave c)
    let s := (s.threads.filter (fun t => t.ctx == c)).foldl State.wakeSleeper (s.unwatch (fun _ id => s.launchIn c id.launch))
    (s.recallCalls c).wakeMet

/-- PREEMPT (R396). -/
def execPreempt (c : CtxId) (s : State) : Host.Outcome State Fault Refusal := .next (s.preempt c)

/-! ## The image (R398, R399) -/

/-- Cycle numbers of a thread, at the save taken as ages and times left, at the restore as cycles again. -/
def Thread.timed (t : Thread) (age : Int → Int) (left : Nat → Nat) : Thread :=
  { t with run := match t.run with
    | .platform => .platform
    | .train h => .train h
    | .parked (.idle till) since => .parked (.idle (left till)) (age since)
    | .parked r since => .parked r (age since)
    | .eligible since n => .eligible (age since) n
    | .exiting st => .exiting st }

/-- A flight of a context that a save records as a replay entry: a peer access not yet answered, or whose answer no thread has taken. -/
def State.replays (s : State) (c : CtxId) (f : Flight) : Bool :=
  s.launchIn c f.thread.launch && match f.kind with
  | .peer => true
  | .store => true
  | .engine _ _ _ => true
  | .load _ _ => f.packet.isSome
  | .loadCap _ _ => f.packet.isSome
  | .cmd _ => false

/-- The copies of a context that have begun: the heads of its copy queues (R396). -/
def State.begunCopies (s : State) (c : CtxId) : List EngineEntry :=
  ((s.context c).map (fun x => x.queues.flatMap (fun q => if q.q < 4 then q.entries.filter (·.begun) else []))).getD []

/-- What quiescence still waits for: a matrix operation in flight, a copy within a chunk, a call firmware has begun, a child that can start
(R396); and answers, until the rest has room in the replay list (R394). -/
def State.unsettled (s : State) (c : CtxId) : Bool :=
  4096 < (s.flights.filter (s.replays c)).length + (s.begunCopies c).length
    || (s.begunCopies c).any (fun e => e.midChunk && e.page.isNone)
    || (cusOf (s.part c.part).map).any (fun cu => match (s.queue c cu 4).head? with
    | some e => e.begun && e.page.isNone
    | none => false)
    || (s.vf c.part).mapCalls.any (fun k => match k.caller with
      | some id => s.launchIn c id.launch
      | none => false)
    || s.stores.any (fun p => !p.done && s.holdsSave c p)
    || s.launches.any (fun l => l.ctx == c && (match l.origin with
      | .child _ _ _ => true
      | .queue _ _ _ => false) && s.mayStart l)

/-- A flight with the CU of its queue renumbered. -/
def Flight.onCu (f : Flight) (g : Nat → Nat) : Flight :=
  { f with kind := match f.kind with
    | .engine c cu q => .engine c (g cu) q
    | .load d x => .load d x
    | .loadCap d x => .loadCap d x
    | .peer => .peer
    | .store => .store
    | .cmd k => .cmd k }

/-- The saved bytes of a region of data SRAM, with its granule tags (kind 0x05). -/
def State.saveRegion (s : State) (r : Region) (lcu : Nat) : SavedBytes :=
  let c := s.cu r.cu
  { cu := lcu, base := r.base, size := r.size, bytes := memSlice c.sram r.base r.size
    tags := (c.sramTags.filter (fun g => r.base / 16 ≤ g && g < (r.base + r.size) / 16)).map (fun g => g - r.base / 16) }

/-- The image of a context that has quiesced. -/
def State.imageOf (s : State) (c : CtxId) : Image :=
  let p := s.part c.part
  let ts := s.threads.filter (fun t => t.ctx == c)
  let gs := s.groups.filter (fun g => g.ctx == c)
  let ms := s.teams.filter (fun m => s.launchIn c m.launch)
  let here := (gs.map (·.cu)).eraseDups
  let allots := ((s.context c).map (·.allots)).getD []
  let log := p.logicalCu
  let teams := ms.map (fun (m : Team) => { m with regions := m.regions.map (fun r => { r with cu := log r.cu }), place := m.place.map log })
  { gen := p.gen, time := s.time, epochs := ((s.tenantOf c.part).map (fun n => n.colours.map (·.epoch))).getD []
    trs := packAll gs ts
    threads := ts.map (fun (t : Thread) =>
      let now := s.now t.cu
      { (t.timed (now - ·) (· - now)).bare with cu := log t.cu, got := [], fenced := [], seen := [] })
    groups := gs.map (fun (g : Group) => { g with cu := log g.cu, slots := [] }), teams := teams
    plats := (s.plats.filter (fun p => p.ctx == c)).map (fun (x : Plat) => { x with cu := log x.cu, stamp := s.now x.cu - x.stamp })
    sram := ms.flatMap (fun m => m.regions.map (fun r => s.saveRegion r (log r.cu)))
    ob := gs.map (fun g => { cu := log g.cu, base := g.obBase, size := g.obSize, bytes := memSlice (s.cu g.cu).ob g.obBase g.obSize, tags := [] })
    wslots := here.map (fun cu => (log cu, match allots.find? (·.cu == cu) with
      | some a => ((s.cu cu).wslots.drop a.first).take a.count
      | none => []))
    homes := (cusOf p.map).map (fun cu => (log cu, cu)) }

/-- A partition without a resident context is descheduled (R358). -/
def State.deschedule (s : State) (part : Nat) : State :=
  if s.contexts.any (fun c => c.id.part == part && (c.life == .resident || c.life == .quiet)) then s
  else s.modPart part (fun p => { p with state := if p.state = 1 then 2 else p.state })

/-- The performance counters of a CU, the cycles of their last occurrences changed: to ages at a save, to cycles at a restore (R388, R399). -/
def PerfSet.rebased (q : PerfSet) (f : Int → Int) : PerfSet :=
  { q with counters := q.counters.map (fun (k : PerfCounter) => { k with recent := k.recent.map (fun r => (f r.1, r.2)) }) }

/-- A context leaves its CUs with an image. A copy that has begun is a replay entry from here on (R396). -/
def State.saveContext (s : State) (c : CtxId) : State :=
  let i := s.imageOf c
  let log := (s.part c.part).logicalCu
  let replay := (s.flights.filter (s.replays c)).map (·.onCu log)
  let s : State := { s with
    teams := modWhere s.teams (fun m => s.launchIn c m.launch) (fun (m : Team) => { m with regions := [] })
    flights := s.flights.filter (fun f => !s.replays c f)
    threads := s.threads.filter (fun t => t.ctx != c), groups := s.groups.filter (fun g => g.ctx != c)
    plats := s.plats.filter (fun p => p.ctx != c) }
  let entry := fun (q : EngineQueue) (e : EngineEntry) => { e with replay := q.q < 4 && e.begun }
  let s := s.modContext c (fun x => { x with
    life := .saved, image := some i, replay := replay, allots := []
    queues := x.queues.map (fun (q : EngineQueue) => { q with cu := log q.cu, entries := q.entries.map (entry q) })
    perf := x.perf.map (fun (q : PerfSet) => { q.rebased (fun t => s.now q.cu - t) with cu := log q.cu }) })
  s.deschedule c.part

/-- The save starts only after quiescence has completed (R395). -/
def State.trySave (s : State) (c : CtxId) : State := if s.settles c && !s.unsettled c then s.saveContext c else s

/-- CONTEXT_SAVE (R396 step 3, R399). -/
def execContextSave (c : CtxId) (s : State) : Host.Outcome State Fault Refusal := .next (s.trySave c)

/-! ## Restore (R402) -/

/-- Where a placement puts a logical CU; one it does not name stays. -/
def placed (place : List (Nat × Nat)) (u : Nat) : Nat := (kvGet place u).getD u

/-- The slices of the partition at the save (R408). -/
def Image.slices (i : Image) : Nat := i.homes.length / 12

/-- The logical CUs an image uses. -/
def Image.cus (i : Image) : List Nat := (i.groups.map (·.cu) ++ i.teams.flatMap (fun m => m.regions.map (·.cu))).eraseDups

/-- A tag of a quad is restored: its colour is live with the epoch the image recorded (R367). -/
def State.epochLive (s : State) (part : Nat) (epochs : List (BitVec 16)) (k : Nat) : Bool :=
  let c := s.colour part k
  c.state == 1 && some c.epoch == epochs[k]?

/-- Ranges that fit one after another into what is free: their places. -/
def fitAll (taken : List (Nat × Nat)) (step limit : Nat) : List Nat → Option (List Nat)
  | [] => some []
  | n :: ns => match lowestFit taken n step limit with
    | none => none
    | some o => (fitAll (taken ++ [(o, n)]) step limit ns).map (o :: ·)

/-- A CU takes what an image has on a logical CU (R10, R402). -/
def State.restoreFits (s : State) (c : CtxId) (i : Image) (u cu : Nat) : Bool :=
  let gs := i.groups.filter (·.cu == u)
  let here := s.groupsOn cu
  let trs := fun (l : List Group) => (l.map (fun g => g.threads * g.regsPer * 4)).foldl (· + ·) 0
  let ctxs := s.ctxsOn cu
  let slots := ((kvGet i.wslots u).getD []).length
  let taken := s.contexts.filterMap (fun x => if ctxs.contains x.id then (x.allots.find? (·.cu == cu)).map (fun a => (a.first, a.count)) else none)
  trs here + trs gs ≤ 2 ^ 20 && here.length + gs.length ≤ 16 && ctxs.length < 4
    && (here ++ gs).foldl (fun n g => n + g.threads) 0 ≤ 2048
    && ctxs.all (fun x => (s.part x.part).tenant == (s.part c.part).tenant)
    && (fitAll (s.regionsOn cu) 65536 (640 * 1024) ((i.sram.filter (·.cu == u)).map (·.size))).isSome
    && (fitAll (here.map (fun g => (g.obBase, g.obSize))) 256 (256 * 1024) (gs.map (·.obSize))).isSome
    && (lowestFit taken slots 1 32).isSome

/-- A placement is permitted: each CU once, on the partition, every team on one cluster, everything fits. -/
def State.restoreOk (s : State) (c : CtxId) (i : Image) (place : List (Nat × Nat)) : Bool :=
  let p := s.part c.part
  let us := i.cus
  let vs := us.map (placed place)
  vs.eraseDups.length == vs.length && vs.all (· < 12 * p.n)
    && i.teams.all (fun m => m.regions.all (fun r => placed place r.cu / 4 == placed place ((m.place.headD 0)) / 4))
    && us.all (fun u => s.restoreFits c i u (p.physicalCu (placed place u)))

/-- Tiles that a context owns on CUs it does not return to are spilled (R401). -/
def State.spillAway (s : State) (c : CtxId) (stays : Nat → Bool) : State :=
  (List.range 192).foldl (fun s cu => if stays cu then s
    else (List.range 16).foldl (fun s i => if (s.tile cu i).owner = some c then s.spillTile cu i else s) s) s

/-- A CU is made ready for a context: its former tenant's state zeroed, weight slots allotted and filled (R282, R399, R403). -/
def State.restoreSlots (s : State) (c : CtxId) (cu : Nat) (ws : List WSlot) : State :=
  let s := s.changeTenant cu (s.part c.part).tenant
  let ctxs := s.ctxsOn cu
  let taken := s.contexts.filterMap (fun x => if ctxs.contains x.id then (x.allots.find? (·.cu == cu)).map (fun a => (a.first, a.count)) else none)
  let first := (lowestFit taken ws.length 1 32).getD 0
  let drop := fun (x : Context) => if ctxs.contains x.id then x else { x with allots := x.allots.filter (·.cu != cu) }
  let s : State := { s with contexts := s.contexts.map drop }
  let s := s.modContext c (fun x => { x with allots := { cu := cu, first := first, count := ws.length } :: x.allots.filter (·.cu != cu) })
  (s.modCu cu (fun k => { k with wslots := k.wslots.take first ++ ws ++ k.wslots.drop (first + ws.length) })).perfOn c cu

/-- One region of data SRAM is written back, with its live tags (R367). -/
def State.restoreRegion (s : State) (c : CtxId) (epochs : List (BitVec 16)) (b : SavedBytes) (cu base : Nat) : State :=
  let tags := b.tags.filter (fun g => s.epochLive c.part epochs (colourAt (memReadN b.bytes (g * 16) 16)))
  s.modCu cu (fun k => { k with
    sram := memPatch k.sram base b.size b.bytes
    sramTags := tags.foldl (fun l g => setAdd l (base / 16 + g)) (setClear k.sramTags (base / 16) ((base + b.size) / 16)) })

/-- The teams of an image are there, as they were saved if they are not any more. -/
def State.recallTeams (s : State) (i : Image) : State :=
  { s with teams := s.teams ++ i.teams.filter (fun m => !s.teams.any (fun x => x.launch == m.launch && x.num == m.num)) }

/-- The regions of the teams are placed and written, team by team. -/
def State.restoreTeams (s : State) (c : CtxId) (i : Image) (at_ : Nat → Nat) : State :=
  let s := s.recallTeams { i with teams := i.teams.map (fun (m : Team) => { m with regions := [] }) }
  (i.teams.foldl (fun (r : State × List SavedBytes) m =>
    let s := m.regions.foldl (fun (q : State × List SavedBytes × List Region) g =>
      match q.2.1 with
      | [] => q
      | b :: bs =>
        let cu := at_ g.cu
        let base := (lowestFit (q.1.regionsOn cu ++ (q.2.2.filter (·.cu == cu)).map (fun r => (r.base, r.size))) g.size 65536 (640 * 1024)).getD 0
        (q.1.restoreRegion c i.epochs b cu base, bs, q.2.2 ++ [{ cu := cu, base := base, size := g.size }])) (r.1, r.2, [])
    let put := fun (x : Team) => { x with regions := s.2.2, place := m.place.map at_, cluster := clusterOf (at_ (m.place.headD 0)) }
    (({ s.1 with teams := modWhere s.1.teams (fun x => x.launch == m.launch && x.num == m.num) put } : State), s.2.1)) (s, i.sram)).1

/-- The groups are placed, with their operand-buffer bytes. -/
def State.restoreGroups (s : State) (i : Image) (at_ : Nat → Nat) : State :=
  (i.groups.zip i.ob).foldl (fun s (x : Group × SavedBytes) =>
    let cu := at_ x.1.cu
    let base := (lowestFit ((s.groupsOn cu).map (fun g => (g.obBase, g.obSize))) x.1.obSize 256 (256 * 1024)).getD 0
    let s := s.modCu cu (fun k => { k with
      ob := memPatch k.ob base x.1.obSize x.2.bytes, order := if k.order.contains x.1.launch then k.order else k.order ++ [x.1.launch] })
    let (k, s) := (s.newObserver x.1.ctx.part cu).draw
    let slots := (s.freeSlots cu (k % 2048)).take x.1.threads
    { s with groups := s.groups ++ [{ x.1 with cu := cu, slots := slots, obBase := base }] }) s

/-- The threads take the slots of their groups, with the tags that are live (R367). -/
def State.restoreThreads (s : State) (c : CtxId) (epochs : List (BitVec 16)) (ts : List Thread) (at_ : Nat → Nat) : State :=
  let live := fun (k : Nat) => s.epochLive c.part epochs k
  ts.foldl (fun s (t : Thread) =>
    let cu := at_ t.cu
    let now := s.now cu
    let slots := ((s.group t.id.launch t.id.group).map (fun (g : Group) => g.slots)).getD []
    let log := t.log.map (fun (o : OpLog) => { o with
      cap := if live o.cap.colour then o.cap else o.cap.withTag false
      dataTag := o.dataTag && live ({ bits := o.data, tag := false } : Cap).colour })
    let u := { t.timed (now - ·) (now + ·) with
      cu := cu, slot := slots.getD t.id.num 0, log := log
      tags := t.tags.mapIdx (fun q b => b && live (t.quad (4 * q)).colour) }
    { s with threads := s.threads ++ [u] }) s

/-- The platform entries come back with their ages, the resident ones first: where a store is full, its newest is spilled (R181, R399). -/
def State.restorePlats (s : State) (ps : List Plat) (at_ : Nat → Nat) : State :=
  let there := fun (s : State) (x : Plat) => { x with cu := at_ x.cu, stamp := s.now (at_ x.cu) - x.stamp }
  let s := (ps.filter (!·.spilled)).foldl (fun s x => s.addPlat (there s x)) s
  { s with plats := s.plats ++ (ps.filter (·.spilled)).map (there s) }

/-- The replay list is performed in its order: each request is sent again with its flow and number (R262, R396), by the package the
context is on now. -/
def State.replayPeers (s : State) (c : CtxId) (l : List Flight) (at_ : Nat → Nat) : State :=
  let e := s.part c.part
  l.foldl (fun s f =>
    let f := f.onCu at_
    let again := fun (p : PeerPacket) =>
      let away := match f.loc with
        | .peer pkg _ => (e.reachEntry pkg).toNat / 2 ^ 15 % 16
        | .hbm _ _ _ => p.part
        | .sram _ _ => p.part
      { p with
        src := e.pkg.toNat, srcPart := c.part, fabric := e.fabric, part := away, gen := e.gen
        home := if flowHome p = (e.pkg.toNat, c.part) then none else some (flowHome p) }
    let pk := f.packet.map again
    let s : State := { s with flights := s.flights ++ [{ f with gen := e.gen, packet := pk, replay := true }] }
    match f.answer, f.loc, pk with
    | none, .peer pkg _, some p => s.onWire c.part pkg p
    | _, _, _ => s) s

/-- Accesses that were logged and whose page is no longer asked for are replayed (R353, R396). -/
def State.replayLogs (s : State) (c : CtxId) : State :=
  let due := s.threads.filter (fun t => t.ctx == c && t.log.any (fun o => o.failed.isNone && !(s.vf c.part).reqs.any (·.page == o.page)))
  due.foldl (fun s t => s.replayThread t.id) s

/-- A queue held on a page that is no longer asked for goes on. -/
def State.freeHeads (s : State) (c : CtxId) : State :=
  let free := fun (e : EngineEntry) => if e.page.any (fun x => !(s.vf c.part).reqs.any (·.page == x.1)) then { e with page := none } else e
  s.modContext c (fun x => { x with queues := x.queues.map (fun (q : EngineQueue) => { q with entries := q.entries.map free }) })

/-- What a context keeps of tags in its queues, its replay list and its launches comes back if the colour is live with the recorded epoch
(R367). -/
def State.restoreTags (s : State) (c : CtxId) (epochs : List (BitVec 16)) : State :=
  let live := fun (k : Nat) => s.epochLive c.part epochs k
  let entry := fun (e : EngineEntry) => { e with op := e.op.mapCaps (keepTag live) }
  let s := s.modContext c (fun x => { x with
    replay := x.replay.map (·.keepTags live), queues := x.queues.map (fun (q : EngineQueue) => { q with entries := q.entries.map entry }) })
  { s with launches := modWhere s.launches (fun l => l.ctx == c) (fun l => l.keepTags live) }

/-- The steps of R402, for a placement that is permitted. -/
def State.restoreContext (s : State) (c : CtxId) (i : Image) (ts : List Thread) (place : List (Nat × Nat)) : State :=
  let p := s.part c.part
  let at_ := fun (u : Nat) => p.physicalCu (placed place u)
  let s := s.spillAway c (fun cu => i.homes.any (fun h => h.2 == cu && i.cus.contains h.1 && at_ h.1 == cu))
  let s := s.restoreTags c i.epochs
  let replay := ((s.context c).map (·.replay)).getD []
  let s := s.modContext c (fun x => { x with
    life := .resident, image := none, replay := [], allots := []
    remap := x.remap.map (placed place)
    queues := x.queues.map (fun (q : EngineQueue) => { q with cu := at_ q.cu })
    perf := x.perf.map (fun (q : PerfSet) => { q.rebased (fun t => s.now (at_ q.cu) - t) with cu := at_ q.cu }) })
  let s := i.wslots.foldl (fun s w => s.restoreSlots c (at_ w.1) w.2) s
  let s := (s.restoreTeams c i at_).restoreGroups i at_
  let s := (s.restoreThreads c i.epochs ts at_).restorePlats i.plats at_
  let s := (s.modPart c.part (fun p => { p with state := if p.state = 2 then 1 else p.state })).settleReset c.part
  (((s.replayPeers c replay at_).replayLogs c).freeHeads c).wakeMet

/-- Every leaf of a partition has the key select of its frames: the transfer key while one of them is held for an export or an import, else
the memory key (R339). The pages that map the frames are the staging ranges: a frame has one E value in every mapping (log entry 90). -/
def State.keyLeaves (s : State) (part : Nat) : State :=
  let held := (s.part part).staging
  (s.leaves part).foldl (fun s l =>
    let f := entryAddr l.2.2 / 65536
    let own := !held.any (fun h => f ≤ h && h < f + 2 ^ (l.2.1 - 16))
    if entryE l.2.2 == own then s
    else
      let bits := if own then l.2.2 ||| 0x80#64 else l.2.2 &&& ~~~0x80#64
      (s.putLeaf part l.1 (levelOf l.2.1) bits).invalidate part l.1 (2 ^ l.2.1)) s

/-- The frames of a mapping entry on the target. -/
def State.entryFrames (s : State) (part : Nat) (m : MapEntry) : List Nat := ((s.part part).grants.drop m.frame).take (m.len / 65536)

/-- The frames of an export's mapping list on the target. -/
def State.importFrames (s : State) (part : Nat) (e : Export) : List Nat := e.maps.flatMap (s.entryFrames part)

/-- An import's transfer ends: its staging ranges are unmapped, the frames are under the memory key again (R347). -/
def State.endStaging (s : State) (part : Nat) (fs : List Nat) : State :=
  (s.modPart part (fun p => { p with staging := p.staging.diff fs })).keyLeaves part

/-- The last export of a partition ends: of its frames only those of imports in progress are still held (R347, R407). -/
def State.endExport (s : State) (part : Nat) : State :=
  let other := s.contexts.any (fun c => c.id.part == part && match c.life with
    | .exported _ => true
    | .resident | .quiet | .saved | .ending => false)
  if other then s
  else (s.modPart part (fun p => { p with
    staging := (s.staged.filter (fun e => e.stage == some part)).flatMap (s.importFrames part) })).keyLeaves part

/-- A transfer of frames begins: they are mapped under the transfer key (R339). -/
def State.beginStaging (s : State) (part : Nat) (fs : List Nat) : State :=
  (s.modPart part (fun p => { p with staging := fs ++ p.staging })).keyLeaves part

/-- The frames that a partition's leaves map. -/
def State.mappedFrames (s : State) (part : Nat) : List Nat :=
  (s.leaves part).flatMap (fun l => (List.range (2 ^ (l.2.1 - 16))).map (entryAddr l.2.2 / 65536 + ·))

/-- CONTEXT_RESTORE (R402): onto CUs that take it, of a partition that is not smaller than the one it was saved on (R406, R408); an image
whose sections do not decode stays saved (R400). A
context whose export was refused has stayed saved here, and its restore ends the transfer (R409). -/
def execContextRestore (c : CtxId) (place : List (Nat × Nat)) (s : State) : Host.Outcome State Fault Refusal :=
  let p := s.part c.part
  match s.context c with
  | none => .next s
  | some x => match s.stowed c, x.image, x.image.bind Image.full with
    | true, some i, some ts =>
      if (p.state = 1 || p.state = 2) && i.slices ≤ p.n && s.restoreOk c i place then
        .next ((if x.life == .saved then s
          else (s.modContext c (fun x => { x with life := .saved })).endExport c.part).restoreContext c i ts place)
      else .next s
    | _, _, _ => .next s

end Sys2Proof.Machine
end

