-- ==== Sys2Proof/Machine/Migration.lean ====
section
/-!
DEFINITION. Live migration (17 R407 to R409; 14 R337) and the reshaping of partitions (17 R406): export images, their checks and
installation on the target, the report back; merging and splitting.
-/

namespace Sys2Proof.Machine

/-- SHA-384 of an export image (R407): the layout within most sections is not the spec's, so the digest is left open. -/
opaque exportDigest : Export → BitVec 384

/-- The length of a section whose layout the spec does not give (R399, R407): by kind and logical CU. -/
opaque sectionLen : Nat → Nat → Context → Image → Nat

/-! ## Header, directory, descriptor (R398, R408) -/

/-- The directory of sections that follow each other from an offset: kind, logical CU, length. -/
def directory : Nat → List (Nat × Nat × Nat) → List Byte
  | _, [] => []
  | at_, (kind, cu, n) :: l =>
    natBytes 2 kind ++ natBytes 2 cu ++ natBytes 4 0 ++ natBytes 4 at_ ++ natBytes 4 n ++ directory (at_ + n) l

/-- The header of an image and its directory (R398). -/
def imageHeader (id : Nat) (i : Image) (l : List (Nat × Nat × Nat)) : List Byte :=
  let start := 64 + 16 * l.length
  natBytes 4 1 ++ natBytes 2 id ++ natBytes 2 i.gen.toNat ++ natBytes 8 (start + l.foldl (fun k x => k + x.2.2) 0) ++ natBytes 4 l.length
    ++ natBytes 4 0 ++ natBytes 8 i.time ++ (List.range 16).flatMap (fun k => natBytes 2 (i.epochs.getD k 0).toNat) ++ directory start l

/-- The entries of a saved context's replay list (R394, R396): peer accesses, and the rest of copies that had begun. -/
def Context.replayCount (c : Context) : Nat := c.replay.length + ((c.queues.flatMap (·.entries)).filter (·.replay)).length

/-- The sections of a saved context (R399): each kind of a CU once for each of its CUs, the others once (DESIGN CHOICE, log entry 36). -/
def sectionsOf (c : Context) (i : Image) : List (Nat × Nat × Nat) :=
  let trs := fun (u : Nat) => (i.trs.filter (fun x => i.groups.any (fun g => g.launch == x.launch && g.num == x.group && g.cu == u))).foldl
    (fun k x => k + x.bytes.length) 0
  i.cus.flatMap (fun u => [0x01, 0x02, 0x04, 0x05, 0x06, 0x07, 0x08].map (fun k => (k, u, if k = 0x01 then trs u else sectionLen k u c i)))
    ++ [0x03, 0x09, 0x0A, 0x0B, 0x0C, 0x0D].map (fun k => (k, 0xFFFF, if k = 0x09 then 64 * c.replayCount else sectionLen k 0xFFFF c i))

/-- The 32 bytes of a compatibility descriptor (R408). -/
def Compat.bytes (d : Compat) : List Byte :=
  natBytes 1 1 ++ natBytes 1 d.slices ++ natBytes 2 d.cus ++ natBytes 2 d.threads ++ natBytes 1 d.groups ++ natBytes 1 d.allot ++ natBytes 4 d.trs
    ++ natBytes 2 d.spKiB ++ natBytes 2 d.obKiB ++ natBytes 2 d.plats ++ natBytes 2 d.replays ++ natBytes 4 d.slab ++ natBytes 8 0

/-- What a descriptor's bytes say (R408). -/
def compatFrom (bs : List Byte) : Compat :=
  let v := fun (o n : Nat) => bytesNat ((bs.drop o).take n)
  { slices := v 0x01 1, cus := v 0x02 2, threads := v 0x04 2, groups := v 0x06 1, allot := v 0x07 1, trs := v 0x08 4, spKiB := v 0x0C 2
    obKiB := v 0x0E 2, plats := v 0x10 2, replays := v 0x12 2, slab := v 0x14 4 }

/-- The reserved bytes of n directory entries are zero. -/
def directoryOk : Nat → List Byte → Bool
  | 0, _ => true
  | n + 1, bs => ((bs.drop 4).take 4).all (· == 0) && directoryOk n (bs.drop 16)

/-- Format 1, and every reserved field of header, directory and descriptor is zero (R409, code 0x02). -/
def Export.formOk (e : Export) : Bool :=
  bytesNat (e.header.take 4) == 1 && ((e.header.drop 0x14).take 4).all (· == 0)
    && directoryOk (bytesNat ((e.header.drop 0x10).take 4)) (e.header.drop 0x40)
    && e.desc.headD 0 == 1 && ((e.desc.drop 0x18).take 8).all (· == 0)

/-! ## Naming anew -/

/-- What is renamed when a context comes under another name: launch serial numbers and the context itself. -/
structure Rename where
  uid : Nat → Nat
  ctx : CtxId

/-- A thread's name. -/
def Rename.tid (r : Rename) (t : TId) : TId := { t with launch := r.uid t.launch }

/-- A thread. -/
def Rename.thread (r : Rename) (t : Thread) : Thread := { t with id := r.tid t.id, ctx := r.ctx }

/-- An origin: queues are the new partition's. -/
def Rename.origin (r : Rename) : Origin → Origin
  | .queue _ q i => .queue r.ctx.part q i
  | .child l t e => .child (r.uid l) t e

/-- A launch. -/
def Rename.launch (r : Rename) (l : Launch) : Launch := { l with uid := r.uid l.uid, ctx := r.ctx, origin := r.origin l.origin }

/-- A team. -/
def Rename.team (r : Rename) (m : Team) : Team :=
  { m with
    launch := r.uid m.launch
    children := m.children.map (fun c => { c with launch := r.uid c.launch })
    waits := m.waits.map (fun w => { w with thread := r.tid w.thread }) }

/-- A flight. -/
def Rename.flight (r : Rename) (f : Flight) : Flight :=
  { f with
    thread := r.tid f.thread, part := r.ctx.part
    kind := match f.kind with
      | .engine _ cu q => .engine r.ctx cu q
      | .load d x => .load d x
      | .loadCap d x => .loadCap d x
      | .peer => .peer
      | .store => .store
      | .cmd k => .cmd k }

/-- A queue. -/
def Rename.queue (r : Rename) (q : EngineQueue) : EngineQueue :=
  { q with entries := q.entries.map (fun e => { e with thread := r.tid e.thread }) }

/-- An image. -/
def Rename.image (r : Rename) (i : Image) : Image :=
  { i with
    trs := i.trs.map (fun c => { c with launch := r.uid c.launch })
    threads := i.threads.map r.thread
    groups := i.groups.map (fun g => { g with launch := r.uid g.launch, ctx := r.ctx })
    teams := i.teams.map r.team
    plats := i.plats.map (fun p => { p with launch := r.uid p.launch, ctx := r.ctx }) }

/-- A saved context. -/
def Rename.context (r : Rename) (c : Context) : Context :=
  { c with id := r.ctx, image := c.image.map r.image, replay := c.replay.map r.flight, queues := c.queues.map r.queue }

/-! ## Export (R407, R408) -/

/-- The largest of what an image's CUs need. -/
def overCus (i : Image) (f : Nat → Nat) : Nat := (i.cus.map f).foldl max 0

/-- The compatibility descriptor (R408). -/
def compatOf (c : Context) (i : Image) : Compat :=
  let gs := fun (u : Nat) => i.groups.filter (·.cu == u)
  let total := fun (l : List Nat) => l.foldl (· + ·) 0
  { slices := i.slices, cus := (i.cus.map (· + 1)).foldl max 0
    threads := overCus i (fun u => total ((gs u).map (·.threads))), groups := overCus i (fun u => (gs u).length)
    allot := overCus i (fun u => ((kvGet i.wslots u).getD []).length)
    trs := overCus i (fun u => total ((gs u).map (fun g => g.threads * g.regsPer * 4)))
    spKiB := overCus i (fun u => total ((i.sram.filter (·.cu == u)).map (·.size)) / 1024)
    obKiB := overCus i (fun u => total ((gs u).map (·.obSize)) / 1024)
    plats := overCus i (fun u => (i.plats.filter (·.cu == u)).length), replays := c.replayCount, slab := c.slabSize }

/-- The mapping list: every mapped range with its leaf bits [7:2] and X and its logical frame (R407). -/
def State.mapList (s : State) (part : Nat) : List MapEntry :=
  let g := (s.part part).grants
  (s.leaves part).map (fun l => { va := l.1, len := 2 ^ l.2.1, bits := leafBits l.2.2, frame := g.idxOf (entryAddr l.2.2 / 65536) })

/-- The tagged granules of the tag-capable pages, by virtual granule number (kind 0x12). -/
def State.tagList (s : State) (part : Nat) : List Nat :=
  (s.leaves part).flatMap (fun l =>
    if entryTC l.2.2 then
      let lo := entryAddr l.2.2 / 16
      (s.tags.filter (fun g => lo ≤ g && g < lo + 2 ^ (l.2.1 - 4))).map (fun g => g - lo + l.1 / 16)
    else [])

/-- The bytes of the tag bitmap: a bit for each granule of every tag-capable page (kind 0x12). -/
def State.tagBytes (s : State) (part : Nat) : Nat :=
  ((s.leaves part).filter (fun l => entryTC l.2.2)).foldl (fun k l => k + 2 ^ l.2.1 / 128) 0

/-- CONTEXT_EXPORT (R407, R421): a saved context whose export the tenant has allowed, to a package whose Curator shares a session key with
this one; its tiles are spilled first, the image is signed, and its frames are held for transfer, mapped under the transfer key (R339). -/
def execContextExport (c : CtxId) (pkg : Nat) (s : State) : Host.Outcome State Fault Refusal :=
  let allowed := ((s.tenantOf c.part).map (fun n => n.exports.contains (c, pkg))).getD false
  match s.context c, kvGet s.curator.peers pkg with
  | some x, some session =>
    if x.life != .saved || !allowed then .next s
    else
      let s := s.spillAway c (fun _ => false)
      match s.context c, x.image with
      | some x, some i =>
        let ls := s.launches.filter (fun l => l.ctx == c)
        let maps := s.mapList c.part
        let more := [(0x10, 32), (0x11, 24 * maps.length), (0x12, s.tagBytes c.part), (0x13, sectionLen 0x13 0xFFFF x i)].map (fun k => (k.1, 0xFFFF, k.2))
        let e : Export :=
          { header := imageHeader c.id i (sectionsOf x i ++ more), desc := (compatOf x i).bytes, src := (s.part c.part).pkg.toNat
            key := Config.transferWrap session (((s.tenantOf c.part).map (·.transferKey)).getD 0), stage := none
            context := { x with session := none, watches := [] }, launches := ls, teams := s.teams.filter (fun m => s.launchIn c m.launch)
            maps := maps, granules := s.tagList c.part, colours := ((s.tenantOf c.part).map (·.colours)).getD []
            clock := (x.lastClk).toNat, signature := [] }
        let e := { e with signature := Config.ecdsaSign s.signingKey (exportDigest e) }
        let s := s.modTenant (s.part c.part).tenant (fun n => { n with exports := n.exports.erase (c, pkg) })
        let s := s.beginStaging c.part (s.mappedFrames c.part)
        .next ((s.modContext c (fun x => { x with life := .exported pkg })).emit (.image e))
      | _, _ => .next s
  | _, _ => .next s

/-- IMPORT_REPORT (R407): the context is discarded on the source, without records; what it held is freed as at a context's end, its private
slabs once their invalidation is complete (R458). Its staging ranges are unmapped, and its frames are mapped under the memory key again. -/
def execImportReport (c : CtxId) (pkg : Nat) (s : State) : Host.Outcome State Fault Refusal :=
  match s.context c with
  | none => .next s
  | some x =>
    if x.life != .exported pkg then .next s
    else
      let s : State := { s with
        teams := s.teams.filter (fun m => !s.launchIn c m.launch), launches := s.launches.filter (fun l => l.ctx != c) }
      .next (((s.modContext c (fun x => { x with life := .ending, image := none })).endExport c.part).endContext c)

/-! ## Import (R409) -/

/-- Every other field of the descriptor fits (code 0x04); a resident thread waits at one platform entry at most. -/
def Compat.fits (d : Compat) (n : Nat) : Bool :=
  d.cus ≤ 12 * n && d.threads ≤ 2048 && d.groups ≤ 16 && d.allot ≤ 32 && d.trs ≤ 2 ^ 20 && d.spKiB ≤ 640 && d.obKiB ≤ 256
    && d.plats ≤ 2048 && d.replays ≤ 4096 && d.slab ≤ 2 ^ 24

/-- Every logical frame of the mapping list is granted to the target (code 0x05). -/
def State.framesThere (s : State) (part : Nat) (e : Export) : Bool :=
  e.maps.all (fun m => (s.entryFrames part m).length == m.len / 65536
    && (s.entryFrames part m).all (fun f => (s.frame f).state == 1 && (s.frame f).part == part))

/-- The transfer key of an export image, if it unwraps under the session key with the source's Curator (R421). -/
def State.transferKey (s : State) (e : Export) : Option (BitVec 512) := (kvGet s.curator.peers e.src).bind (fun k => Config.transferUnwrap k e.key)

/-- The first code that refuses an import; 0 for none (R409). An export without a context's image has a section that does not decode. -/
def State.importCode (s : State) (e : Export) (part : Nat) (c : CtxId) (i : Option Image) (place : List (Nat × Nat)) : Byte :=
  let p := s.part part
  if !Config.ecdsaVerify Config.curatorKey (exportDigest { e with signature := [], stage := none }) e.signature || (s.transferKey e).isNone then 0x01
  else if !e.formOk then 0x02
  else if p.n < (compatFrom e.desc).slices then 0x03
  else if !(compatFrom e.desc).fits p.n || i.any (fun i => !s.restoreOk c i place) then 0x04
  else if !s.framesThere part e then 0x05
  else if (i.bind Image.full).isNone then 0x06
  else 0

/-- An import begins: the ranges of the mapping list are its staging ranges, mapped under the transfer key, through which the contents of the
frames come (R347, R407). What was mapped there is unmapped first, and its invalidation begun (R343). -/
def State.stageImport (s : State) (part : Nat) (e : Export) : State :=
  let s := e.maps.foldl (fun s m =>
    if s.mappedIn part m.va (m.len / 65536) = 0 then s
    else (s.unmapRange part m.va (m.len / 65536)).atsStale part m.va m.len) (s.settlePart part)
  let s := e.maps.foldl (fun s m => s.mapRange part m.va (s.entryFrames part m) m.bits) s
  s.beginStaging part (s.importFrames part e)

/-- The tags that are live come back (R367, R409). -/
def State.importTags (s : State) (part : Nat) (e : Export) (epochs : List (BitVec 16)) : State :=
  e.granules.foldl (fun s g => match s.xlate part (g * 16) .read with
    | .ok pa l _ =>
      if entryTC l && s.epochLive part epochs (colourAt (memReadN s.mem pa 16)) then { s with tags := setAdd s.tags (pa / 16) } else s
    | .absent => s
    | .bad _ _ => s) s

/-- The private slabs of an imported context: what its range maps (R215). -/
def State.slabsOf (s : State) (part : Nat) (x : Context) : List (Nat × Nat) :=
  let n := (x.slabFrames.map (·.2)).foldl (· + ·) 0
  (pagesFrom x.privBase n).filterMap (fun va => (s.pageFrame part va).map (fun f => (f, 1)))

/-- An import ends: the frames are under the memory key, the tags back, the context is restored (R386, R388, R409). -/
def State.finishImport (s : State) (k part : Nat) (e : Export) (r : Rename) (i : Image) (ts : List Thread) (place : List (Nat × Nat)) : State :=
  let s := (s.endStaging part (s.importFrames part e)).importTags part e i.epochs
  let x := { r.context e.context with
    tenant := (s.part part).tenant, life := .saved, session := none, watches := [], slabFrames := s.slabsOf part e.context
    perf := e.context.perf.map (fun (q : PerfSet) => { q with
      moved := 0, counters := q.counters.map (fun k => { k with val := 0, recent := [] }) })
    clkOff := BitVec.ofNat 64 (e.clock - s.time), image := some i }
  let top := (e.launches.map (fun l => l.uid + 1)).foldl max 0
  let s : State := { s with
    contexts := s.contexts ++ [x], launches := s.launches ++ e.launches.map r.launch
    teams := s.teams ++ e.teams.map r.team, nextLaunch := s.nextLaunch + top
    staged := s.staged.eraseIdx k }
  s.restoreContext r.ctx i ts place

/-- CONTEXT_IMPORT (R409, R386, R388): image `k` of those that have arrived is checked, and its mapping list installed for the transfer; once
the transfer is over, which the event coming again says, and the invalidation complete, it is restored under the partition's next free
serial numbers (DESIGN CHOICE, log entry 96). Its clock never goes back, its performance counters are zero and keep their selects, it starts
detached. -/
def execContextImport (k part : Nat) (place : List (Nat × Nat)) (s : State) : Host.Outcome State Fault Refusal :=
  match s.staged[k]? with
  | none => .next s
  | some e =>
    let c : CtxId := { part := part, id := e.context.id.id }
    let r : Rename := { uid := (s.nextLaunch + ·), ctx := c }
    let p := s.part part
    let i := e.context.image.map r.image
    if (s.context c).isSome || (p.state != 1 && p.state != 2) then .next s
    else
      let code := s.importCode e part c i place
      match e.stage with
      | none =>
        if code = 0 then .next (({ s with staged := s.staged.set k { e with stage := some part } } : State).stageImport part e)
        else .next (s.emit (.importRefused code))
      | some q => match i, i.bind Image.full with
        | some i, some ts => if q = part && code = 0 && !s.atsBusy part then .next (s.finishImport k part e r i ts place) else .next s
        | _, _ => .next s

/-! ## Merging and splitting (R406) -/

/-- Every context of a partition is saved. -/
def State.allSaved (s : State) (part : Nat) : Bool := s.contexts.all (fun c => c.id.part != part || s.stowed c.id)

/-- A partition's frames are lent where it does not own their slice (R344). -/
def State.relend (s : State) (part : Nat) : State :=
  let map := (s.part part).map
  let fix := fun (e : Frame) (f : Nat) => if e.part = part then { e with lent := !map.contains (f / 2 ^ 21) } else e
  { s with frames := s.frames.map (fun x => (x.1, fix x.2 x.1)), runs := s.runs.map (fun r => { r with entry := fix r.entry r.first }) }

/-- Everything of partition b becomes partition a's. -/
def State.absorb (s : State) (a b : Nat) : State :=
  let own := fun (e : Frame) => if e.part = b then { e with part := a } else e
  let ren := fun (c : CtxId) => ({ uid := id, ctx := { part := a, id := c.id } } : Rename)
  let tile := fun (t : Tile) => { t with owner := t.owner.map (fun o => if o.part = b then { o with part := a } else o) }
  { s with
    frames := s.frames.map (fun f => (f.1, own f.2)), runs := s.runs.map (fun r => { r with entry := own r.entry })
    contexts := modWhere s.contexts (fun c => c.id.part == b) (fun c => (ren c.id).context c)
    launches := modWhere s.launches (fun l => l.ctx.part == b) (fun l => { l with ctx := { part := a, id := l.ctx.id } })
    cus := s.cus.map (fun (c : Cu) => { c with tiles := c.tiles.map tile })
    tenants := s.tenants.map (fun (n : Tenant) => { n with exports := n.exports.map (fun x => if x.1.part = b then ({ part := a, id := x.1.id }, x.2) else x) })
    slices := s.slices.map (fun (c : Slice) => { c with cat := c.cat.map (fun (e : CatEntry) => if e.part = b then { e with part := a } else e) }) }

/-- The new generation and map of a reshaped partition take hold everywhere (R359, R381); its page requests are written again with the
new generation, and it is measured (R351, R413). -/
def State.reshaped (s : State) (part : Nat) : State :=
  let e := s.part part
  let s := (((s.modVf part (fun v => { v with gen := e.gen, reqs := v.reqs.map (fun (r : PageReq) => { r with written := false }) })).noteGen e.map
    e.gen).ownWays part e.map).relend part
  ((e.reach.foldl (fun s r => s.emit (.generation r.1 part e.gen)) s).settleReset part).remeasure part

/-- The state of a merged partition (R358): gated if both were, running if one was, else descheduled; one whose slice is held is resetting. -/
def mergedState (a b : Nat) : Nat := if a = 3 && b = 3 then 3 else if a = 1 || b = 1 then 1 else 2

/-- Partitions a and b of one tenant become a. Pages that b maps and a does not come into a's table. -/
def State.merge (s : State) (a b : Nat) : State :=
  let ea := s.part a
  let eb := s.part b
  let ls := s.leaves b
  let s := (s.absorb a b).takeFrames eb.pool
  let st := mergedState ea.state eb.state
  let s := s.modPart a (fun e => { e with
    state := st, gen := BitVec.ofNat 16 (max ea.gen.toNat eb.gen.toNat + 1), map := ascending (ea.map ++ eb.map)
    grants := if a < b then ea.grants ++ eb.grants else eb.grants ++ ea.grants, pool := ea.pool ++ eb.pool
    staging := ea.staging ++ eb.staging, receipts := ea.receipts ++ eb.receipts
    reach := eb.reach.foldl (fun l r => if (kvGet l r.1).isSome then l else kvPut l r.1 r.2) ea.reach })
  let s := if st = 3 then s else (ea.map ++ eb.map).foldl (fun s n => s.modSlice n (fun c => { c with powered := true })) s
  let s := ls.foldl (fun s l =>
    let n := 2 ^ l.2.1 / 65536
    if s.mappedIn a l.1 n = 0 then s.mapRange a l.1 ((List.range n).map (entryAddr l.2.2 / 65536 + ·)) (leafBits l.2.2) else s) s
  let calls := s.vf b
  let s := s.modVf a (fun v => { v with mapCalls := v.mapCalls ++ calls.mapCalls, catCalls := v.catCalls ++ calls.catCalls })
  let s := (s.modPart b (fun _ => Partition.reset)).modVf b (fun _ => Vf.reset)
  let s : State := { s with
    hostWaits := s.hostWaits.filter (·.vf != b), curator := { s.curator with lastBlocks := s.curator.lastBlocks.filter (·.1 != b) } }
  (s.invalidate b 0 (2 ^ 56)).reshaped a

/-- Slices of partition a become partition b, with a table of its own, b gated as a is; contexts and frames stay a's. No TLB of those slices
keeps an entry of a (R341). -/
def State.split (s : State) (a b : Nat) (slices : List Nat) : State :=
  let ea := s.part a
  let new := ascending slices
  match s.freeRoot (new.headD 0) with
  | none => s
  | some f =>
    let pool := (List.range 16).map (f + ·)
    let gen := ea.gen + 1
    let e : Partition :=
      { state := if ea.state = 3 then 3 else 1, gen := gen, tenant := ea.tenant, fabric := ea.fabric, map := new, root := f * 65536, pkg := ea.pkg
        grants := [], pool := pool, poolUsed := 0, reach := ea.reach, staging := [], receipts := [], closing := false }
    let s := (s.takeFrames pool).modPart a (fun e => { e with gen := gen, map := ea.map.filter (fun n => !new.contains n) })
    let s := new.foldl (fun s n => s.modSlice n (fun c => { c with ways := c.ways.set a 0, tlb := [] })) s
    let s : State := { s with cus := s.cus.mapIdx (fun i c => if new.contains (sliceOf i) then { c with tlb := [] } else c) }
    ((s.openPartition b e).reshaped b).reshaped a

/-- PARTITION_MERGE_SPLIT (R406): while every context of each is saved; of a locked interface it is a change of frozen items (R417). -/
def execPartitionMergeSplit (m : Reshape) (s : State) : Host.Outcome State Fault Refusal :=
  match m with
  | .merge a b =>
    let ea := s.part a
    let eb := s.part b
    if a = b || ea.state = 0 || eb.state = 0 || ea.tenant != eb.tenant || !s.allSaved a || !s.allSaved b
        || s.contexts.any (fun c => c.id.part == b && (s.context { part := a, id := c.id.id }).isSome) then .next s
    else if s.frozen a then .next (s.tdispError a)
    else if s.frozen b then .next (s.tdispError b)
    else .next (s.merge a b)
  | .split a b slices =>
    let ea := s.part a
    if a = b || 16 ≤ b || ea.state = 0 || (s.part b).state != 0 || !s.allSaved a || slices.isEmpty
        || (ascending slices).length != slices.length || !slices.all ea.map.contains || ea.map.all slices.contains then .next s
    else if s.frozen a then .next (s.tdispError a)
    else .next (s.split a b slices)

end Sys2Proof.Machine
end

