-- ==== Sys2Proof/Machine/Boot.lean ====
section
/-!
DEFINITION. Bring-up (19 R427 to R432): cold start and its failures, minimal mode, the commands of the management port.
-/

namespace Sys2Proof.Machine

/-- What a cold start leaves of the package (R427, R429): the Curator's retained registers, the slice clocks, staged firmware, and
what lies outside the package. The time count begins again. -/
def State.cold (s : State) : State :=
  let c := s.curator
  { State.reset with
    curator := { Curator.reset with
      fails := c.fails, reason := c.reason, badSlices := c.badSlices, powerLimit := c.powerLimit, pace := c.pace, minimal := c.minimal
      started := false, starting := false, boot := c.boot + 1, staged := c.staged, digests := c.digests }
    slices := s.slices.map (fun (x : Slice) => { Slice.reset with clock := x.clock, warm := x.warm })
    staged := s.staged, inbox := s.inbox, schedule := s.schedule, turn := s.turn, free := s.free, memLate := s.memLate
    upsets := s.upsets, sensors := s.sensors, ecc := s.ecc, out := s.out }

/-- Every slice is held in reset (R430). -/
def State.holdAll (s : State) : State := { s with slices := s.slices.map (fun (c : Slice) => { c with held := true }) }

/-- A start fails (R428, R430): counted, reasoned; the third in a row enters minimal mode. -/
def State.bootFails (s : State) (code : Byte) : State :=
  let n := min 3 (s.curator.fails + 1)
  { s.holdAll with
    vfs := List.replicate 16 Vf.reset
    curator := { s.curator with fails := n, reason := code, started := false, starting := false, minimal := n = 3 } }

/-- The slices whose stacks failed are held, marked and reported (R428); with none, the boot reason stays as it is. -/
def State.excludeSlices (s : State) (bad : BitVec 16) : State :=
  let s : State := { s with
    slices := s.slices.mapIdx (fun i c => { c with held := bad.getLsbD i })
    curator := { s.curator with excluded := bad } }
  if bad = 0 then s else ({ s with curator := { s.curator with badSlices := bad, reason := 0x06 } } : State).emit (.boot 0x06 bad)

/-- Measurement i of the firmware that runs (R415): of a staged image, or what ran before. -/
def Curator.measured (c : Curator) (i : Nat) : BitVec 384 :=
  match kvGet c.staged i with
  | some image => Config.sha384 image
  | none => (c.digests[i - 1]?).getD (Config.firmwareDigest c.boot i)

/-- The start completes: step 5 has ended (R428). -/
def State.bootEnds (s : State) : State :=
  { s with curator := { s.curator with fails := 0, started := true, starting := false } }

/-- The steps of R428 with what they meet. -/
def State.boot (s : State) (b : BootResult) : State :=
  let s := s.cold
  if !b.romOk then s.bootFails 0x01
  else if !b.firmwareOk then s.bootFails 0x02
  else
    let s : State := { s with curator := { s.curator with digests := (List.range 5).map (fun i => s.curator.measured (i + 1)), staged := [] } }
    if !b.railsOk then s.bootFails 0x03
    else if !b.linksOk || b.badStacks = 0xFFFF#16 then s.bootFails 0x04
    else
      let s := s.excludeSlices b.badStacks
      if b.hostOk then s.bootEnds else { s with curator := { s.curator with starting := true } }

/-- COLD_START (R428); minimal mode stays (R430). -/
def execColdStart (b : BootResult) (s : State) : Host.Outcome State Fault Refusal :=
  if s.curator.minimal then .next s else .next (s.boot b)

/-- BOOT_TIMEOUT (R428): step 5 has not ended within 60 s. -/
def execBootTimeout (s : State) : Host.Outcome State Fault Refusal :=
  if s.curator.starting && 60000000000 ≤ s.time then .next (s.bootFails 0x05) else .next s

/-- BOOT_REASON_REPORT (R430): every second while the device is in minimal mode. -/
def execBootReasonReport (s : State) : Host.Outcome State Fault Refusal :=
  let c := s.curator
  if c.minimal && c.reported + 1000000000 ≤ s.time then
    .next (({ s with curator := { c with reported := s.time } } : State).emit (.boot c.reason c.badSlices))
  else .next s

/-- POWER_INPUT_LOSS (R427): the retained registers are lost; the device does not run until its next cold start. Firmware that has been
staged, and the running firmware's digests, are kept, of which the spec says nothing (DESIGN CHOICE, log entry 97). -/
def execPowerInputLoss (s : State) : Host.Outcome State Fault Refusal :=
  let c := s.curator
  let t := s.cold
  .next { t.holdAll with
    slices := t.slices.map (fun _ => { Slice.reset with held := true })
    curator := { Curator.reset with started := false, boot := c.boot + 1, staged := c.staged, digests := c.digests } }

/-- SET_POWER_LIMIT (R431): 600 to 2,400 W in steps of 50; other values are refused. -/
def execSetPowerLimit (watts : Nat) (s : State) : Host.Outcome State Fault Refusal :=
  if 600 ≤ watts && watts ≤ 2400 && watts % 50 == 0 then .next { s with curator := { s.curator with powerLimit := watts } } else .next s

/-- RETRY_BOOT (R430): the count is cleared and the package starts again. -/
def execRetryBoot (b : BootResult) (s : State) : Host.Outcome State Fault Refusal :=
  .next (({ s with curator := { s.curator with fails := 0, minimal := false } } : State).boot b)

/-- FIRMWARE_STAGE (R432): kept for the next start's step 2. -/
def execFirmwareStage (kind : Nat) (image : List Byte) (s : State) : Host.Outcome State Fault Refusal :=
  .next { s with curator := { s.curator with staged := kvPut s.curator.staged kind image } }

end Sys2Proof.Machine
end

