-- ==== Sys2Proof/Machine/Attest.lean ====
section
/-!
DEFINITION. The Curator's sessions and evidence (18 R413 to R422): SPDM requests of a virtual function, measurements, keys and
permissions of a tenant. The published standards' message layouts are not the spec's: a response is given by its code and the contents
the spec names (log entry 61).
-/

namespace Sys2Proof.Machine

/-! ## SPDM (R415) -/

/-- SPDM response codes (SPDM 1.3). -/
def spdmDigests : Nat := 0x01
def spdmCertificate : Nat := 0x02
def spdmChallengeAuth : Nat := 0x03
def spdmVersion : Nat := 0x04
def spdmMeasurements : Nat := 0x60
def spdmCapabilities : Nat := 0x61
def spdmAlgorithms : Nat := 0x63
def spdmKeyExchangeRsp : Nat := 0x64
def spdmFinishRsp : Nat := 0x65
def spdmHeartbeatAck : Nat := 0x68
def spdmKeyUpdateAck : Nat := 0x69
def spdmEndSessionAck : Nat := 0x6C
def spdmError : Nat := 0x7F

/-- SPDM error codes: an invalid request, an unexpected one, a response not ready (SPDM 1.3). -/
def errInvalid : Byte := 0x01
def errUnexpected : Byte := 0x04
def errNotReady : Byte := 0x42

/-- A response. -/
def State.spdmSay (s : State) (vf code : Nat) (bytes : List Byte) : State := s.emit (.spdm vf code bytes)

/-- An ERROR response. -/
def State.spdmFail (s : State) (vf : Nat) (code : Byte) : State := s.spdmSay vf spdmError [code]

/-- A mailbox answers: a virtual function's while it is enabled, the physical function's, number 16 (18 "Measurements and evidence"). -/
def State.mailboxOpen (s : State) (vf : Nat) : Bool := vf = 16 || (s.vf vf).enabled

/-- A requester's connection. -/
def State.spdmOf (s : State) (vf : Nat) : Spdm :=
  (s.curator.spdm.find? (·.vf == vf)).getD { vf := vf, version := false, caps := false, algs := false, waiting := none }

/-- Changes it. -/
def State.setSpdm (s : State) (x : Spdm) : State :=
  { s with curator := { s.curator with spdm := x :: s.curator.spdm.filter (·.vf != x.vf) } }

/-- A request of a mailbox that answers. -/
def spdmEvent (vf : Nat) (s : State) (f : State → Spdm → State) : Host.Outcome State Fault Refusal :=
  .next (if s.mailboxOpen vf then f s (s.spdmOf vf) else s)

/-- GET_VERSION: 1.3; a connection begins. -/
def execGetVersion (vf : Nat) (s : State) : Host.Outcome State Fault Refusal :=
  spdmEvent vf s fun s _ => (s.setSpdm { vf := vf, version := true, caps := false, algs := false, waiting := none }).spdmSay vf spdmVersion [0x13]

/-- GET_CAPABILITIES. -/
def execGetCapabilities (vf : Nat) (s : State) : Host.Outcome State Fault Refusal :=
  spdmEvent vf s fun s x =>
    if x.version then (s.setSpdm { x with caps := true, algs := false }).spdmSay vf spdmCapabilities [] else s.spdmFail vf errUnexpected

/-- NEGOTIATE_ALGORITHMS: ECDSA P-384, SHA-384 and AES-256-GCM, and no others. -/
def execNegotiateAlgorithms (vf : Nat) (p384 sha384 gcm : Bool) (s : State) : Host.Outcome State Fault Refusal :=
  spdmEvent vf s fun s x =>
    if !x.caps then s.spdmFail vf errUnexpected
    else if p384 && sha384 && gcm then (s.setSpdm { x with algs := true }).spdmSay vf spdmAlgorithms []
    else s.spdmFail vf errInvalid

/-- A request that follows negotiation. -/
def spdmReady (vf : Nat) (s : State) (f : State → Spdm → State) : Host.Outcome State Fault Refusal :=
  spdmEvent vf s fun s x => if x.algs then f s x else s.spdmFail vf errUnexpected

/-- The certificate chain of slot 0, which ends at the alias key. -/
def State.chain (s : State) : List Byte := Config.certChain s.curator.boot

/-- GET_DIGESTS. -/
def execGetDigests (vf : Nat) (s : State) : Host.Outcome State Fault Refusal :=
  spdmReady vf s fun s _ => s.spdmSay vf spdmDigests (natBytes 48 (Config.sha384 s.chain).toNat)

/-- GET_CERTIFICATE: of slot 0 only. -/
def execGetCertificate (vf slot : Nat) (s : State) : Host.Outcome State Fault Refusal :=
  spdmReady vf s fun s _ => if slot = 0 then s.spdmSay vf spdmCertificate s.chain else s.spdmFail vf errInvalid

/-- A message with a nonce, signed by the alias key. -/
def State.signed (s : State) (bytes : List Byte) (nonce : BitVec 256) : List Byte :=
  bytes ++ natBytes 32 nonce.toNat ++ Config.ecdsaSign s.signingKey (Config.sha384 (bytes ++ natBytes 32 nonce.toNat))

/-- CHALLENGE: signed by the alias key. -/
def execChallenge (vf slot : Nat) (nonce : BitVec 256) (s : State) : Host.Outcome State Fault Refusal :=
  spdmReady vf s fun s _ =>
    if slot = 0 then s.spdmSay vf spdmChallengeAuth (s.signed (natBytes 48 (Config.sha384 s.chain).toNat) nonce) else s.spdmFail vf errInvalid

/-! ## Measurements (R415, R416) -/

/-- What GET_MEASUREMENTS answers for an index, from blocks: their number, one, all; none for another index. -/
def measured (bs : List Byte) (index : Nat) : Option (List Byte) :=
  if index = 0 then some [9]
  else if index = 255 then some bs
  else if index ≤ 9 then some (keptBlock bs index)
  else none

/-- The blocks that are signed: fresh ones while the partition runs, else the last, block 9 with the state of now (R416). -/
def State.evidence (s : State) (part : Nat) : List Byte × State :=
  if (s.part part).state = 1 then (s.evidenceBlocks part, s.measure part)
  else
    let last := ((s.curator.lastBlocks.find? (·.1 == part)).map (·.2)).getD (s.evidenceBlocks part)
    (last.take 384 ++ natBytes 1 (s.part part).state ++ last.drop 385, s)

/-- A measurement is answered. -/
def State.answerMeasure (s : State) (vf index : Nat) (nonce : BitVec 256) : State :=
  let (bs, s) := s.evidence vf
  match measured bs index with
  | none => s.spdmFail vf errInvalid
  | some b => s.spdmSay vf spdmMeasurements (s.signed b nonce)

/-- A session. -/
def State.session (s : State) (id : Nat) : Option Session := s.curator.sessions.find? (·.id == id)

/-- Changes a session. -/
def State.modSession (s : State) (id : Nat) (f : Session → Session) : State :=
  { s with curator := { s.curator with sessions := modWhere s.curator.sessions (·.id == id) f } }

/-- A measurement waits: its partition is resetting, or live evidence is required and it does not run (R416). -/
def State.notReady (s : State) (vf : Nat) (live : Bool) : Bool :=
  let st := (s.part vf).state
  st = 4 || (live && st != 1)

/-- GET_MEASUREMENTS (R415, R416): the request that asks for live evidence uses its session's flag up. -/
def execGetMeasurements (vf : Nat) (session : Option Nat) (index : Nat) (nonce : BitVec 256) (s : State) : Host.Outcome State Fault Refusal :=
  spdmReady vf s fun s x =>
    let live := ((session.bind s.session).map (fun k => k.live && k.vf == vf)).getD false
    let s := match session with
      | some id => s.modSession id (fun k => if k.vf = vf then { k with live := false } else k)
      | none => s
    if s.notReady vf live then (s.setSpdm { x with waiting := some (if live then some 1 else none, index, nonce) }).spdmFail vf errNotReady
    else s.answerMeasure vf index nonce

/-- RESPOND_IF_READY (R416). -/
def execRespondIfReady (vf : Nat) (s : State) : Host.Outcome State Fault Refusal :=
  spdmReady vf s fun s x => match x.waiting with
    | none => s.spdmFail vf errUnexpected
    | some (live, index, nonce) =>
      if s.notReady vf live.isSome then s.spdmFail vf errNotReady
      else (s.setSpdm { x with waiting := none }).answerMeasure vf index nonce

/-! ## Sessions (R413, R422, R424) -/

/-- KEY_EXCHANGE (R422): at most 64 sessions, 4 of a partition; the requester's certificate is bound to the function or not. -/
def execKeyExchange (vf : Nat) (cert : List Byte) (s : State) : Host.Outcome State Fault Refusal :=
  spdmReady vf s fun s _ =>
    let l := s.curator.sessions
    if 64 ≤ l.length || (vf != 16 && 4 ≤ (l.filter (·.vf == vf)).length) then s.spdmFail vf errInvalid
    else
      let id := s.curator.nextSession
      let k : Session := { id := id, vf := vf, secure := Config.certBound vf cert, ready := false, live := false, linkKeys := []
                           keyGen := 0, beat := s.time, reading := none }
      ({ s with curator := { s.curator with sessions := l ++ [k], nextSession := id + 1 } } : State).spdmSay vf spdmKeyExchangeRsp (natBytes 4 id)

/-- Debug detaches from a context (R424): watches are disabled, threads parked for debug go on, those of its saved image too. -/
def State.detach (s : State) (c : CtxId) : State :=
  let s := s.modContext c (fun x => { x with session := none, watches := [], image := x.image.map (fun i => i.mapThreads Thread.leaveDebug) })
  (s.threads.filter (fun t => t.ctx == c)).foldl (fun s t => match t.run with
    | .parked (.debug _ _) _ => s.wakeAt t
    | _ => s) s

/-- A session is over: its debug detaches (R424). -/
def State.closeSession (s : State) (id : Nat) : State :=
  let s := ((s.contexts.filter (fun c => c.session = some id)).map (·.id)).foldl State.detach s
  { s with curator := { s.curator with sessions := s.curator.sessions.filter (·.id != id) } }

/-- A request of a session. -/
def sessionEvent (id : Nat) (s : State) (f : State → Session → State) : Host.Outcome State Fault Refusal :=
  match s.session id with
  | none => .next s
  | some k => .next (f s k)

/-- FINISH (R422): the handshake completes, or the session is gone. -/
def execFinish (session : Nat) (mac : List Byte) (s : State) : Host.Outcome State Fault Refusal :=
  sessionEvent session s fun s k =>
    if k.ready then s.spdmFail k.vf errUnexpected
    else if Config.finishOk session mac then (s.modSession session (fun k => { k with ready := true, beat := s.time })).spdmSay k.vf spdmFinishRsp []
    else (s.closeSession session).spdmFail k.vf errInvalid

/-- A request of a session whose handshake is complete. -/
def readyEvent (id : Nat) (s : State) (f : State → Session → State) : Host.Outcome State Fault Refusal :=
  sessionEvent id s fun s k => if k.ready then f s k else s.spdmFail k.vf errUnexpected

/-- HEARTBEAT (R424). -/
def execHeartbeat (session : Nat) (s : State) : Host.Outcome State Fault Refusal :=
  readyEvent session s fun s k => (s.modSession session (fun k => { k with beat := s.time })).spdmSay k.vf spdmHeartbeatAck []

/-- HEARTBEAT_EXPIRY (R424): it acts as DETACH, and the session is over (R413). -/
def execHeartbeatExpiry (session : Nat) (s : State) : Host.Outcome State Fault Refusal := sessionEvent session s fun s _ => s.closeSession session

/-- Fresh keys for a link, one for each direction (R418). -/
def State.rekey (s : State) (link : Nat) : State :=
  let (n, s) := s.draw
  let (m, s) := s.draw
  let fresh := fun (k : Nat × BitVec 256) => (k.1, Config.linkKey (if k.1 = 0 then n else m))
  { s with links := modAt s.links link (fun l => { l with keys := l.keys.map fresh }) }

/-- KEY_UPDATE (R418): the session's keys, and those of the links it has set, are fresh. -/
def execKeyUpdate (session : Nat) (s : State) : Host.Outcome State Fault Refusal :=
  readyEvent session s fun s k =>
    ((k.linkKeys.foldl State.rekey s).modSession session (fun k => { k with keyGen := k.keyGen + 1 })).spdmSay k.vf spdmKeyUpdateAck []

/-- END_SESSION (R424). -/
def execEndSession (session : Nat) (s : State) : Host.Outcome State Fault Refusal :=
  readyEvent session s fun s k => (s.closeSession session).spdmSay k.vf spdmEndSessionAck []

/-! ## Vendor requests (R422) -/

/-- A vendor request: accepted only in a secure session of a requester the operator bound to the virtual function. Its answer carries a
status and what it returns. -/
def vendorEvent (id : Nat) (s : State) (f : State → Session → Nat × List Byte × State) : Host.Outcome State Fault Refusal :=
  readyEvent id s fun s k =>
    if k.secure && k.vf < 16 then
      let (st, bytes, s) := f s k
      s.emit (.vendor id st bytes)
    else s.spdmFail k.vf errInvalid

/-- The tenant of a session's virtual function changes. -/
def State.modSessionTenant (s : State) (k : Session) (f : Tenant → Tenant) : State := s.modTenant (s.part k.vf).tenant f

/-- EVIDENCE_MODE (R416). -/
def execEvidenceMode (session : Nat) (live : Bool) (s : State) : Host.Outcome State Fault Refusal :=
  vendorEvent session s fun s _ => (0, [], s.modSession session (fun k => { k with live := live }))

/-- SET_KEK: slots already filled keep their keys. -/
def execSetKek (session : Nat) (key : BitVec 256) (s : State) : Host.Outcome State Fault Refusal :=
  vendorEvent session s fun s k => (0, [], s.modSessionTenant k (fun n => { n with kek := some key }))

/-- REG_PUB: a P-384 public key of 96 bytes; 16 at most. -/
def execRegPub (session : Nat) (key : List Byte) (s : State) : Host.Outcome State Fault Refusal :=
  vendorEvent session s fun s k =>
    let keys := ((s.tenantOf k.vf).map (·.pubKeys)).getD []
    if key.length != 96 then (1, [], s)
    else if keys.contains key then (0, [], s)
    else if 16 ≤ keys.length then (6, [], s)
    else (0, [], s.modSessionTenant k (fun n => { n with pubKeys := n.pubKeys ++ [key] }))

/-- ALLOW_EXPORT (R421). -/
def execAllowExport (session ctx pkg : Nat) (s : State) : Host.Outcome State Fault Refusal :=
  vendorEvent session s fun s k =>
    let c : CtxId := { part := k.vf, id := ctx }
    if (s.context c).isNone then (2, [], s)
    else if 1024 ≤ pkg then (1, [], s)
    else (0, [], s.modSessionTenant k (fun n => { n with exports := if n.exports.contains (c, pkg) then n.exports else n.exports ++ [(c, pkg)] }))

/-! ## Links and interfaces (R417 to R419) -/

/-- IDE_KM_KEY_PROG (R418): in a session with the link's partner, which comes through the physical function's mailbox (DEDUCED, log entry
93); with keys in both directions the stream is in the secure state. -/
def execIdeKmKeyProg (session link dir : Nat) (key : BitVec 256) (s : State) : Host.Outcome State Fault Refusal :=
  readyEvent session s fun s k =>
    if 3 ≤ link || 2 ≤ dir || k.vf != 16 then s
    else
      let put := fun (l : Link) => let ks := kvPut l.keys dir key; { keys := ks, secure := (kvGet ks 0).isSome && (kvGet ks 1).isSome }
      ({ s with links := modAt s.links link put } : State).modSession session (fun k => { k with linkKeys := setAdd k.linkKeys link })

/-- IDE_STREAM_FAILURE (R417, R418): the link's traffic is dropped, and locked interfaces with the link on their path move to ERROR. -/
def execIdeStreamFailure (link : Nat) (s : State) : Host.Outcome State Fault Refusal :=
  let s : State := { s with links := modAt s.links link (fun _ => { keys := [], secure := false }) }
  .next (if 3 ≤ link then s
    else ((List.range 16).filter (fun vf => s.frozen vf && (s.vf vf).links.contains link)).foldl State.tdispError s)

/-- UALINK_PORT_AUTH (R419): the Curators at the two ends set the port's key; a port whose peer fails stays disabled and leaves every port
mask. -/
def execUalinkPortAuth (port : Nat) (evidence : List Byte) (s : State) : Host.Outcome State Fault Refusal :=
  if 12 ≤ port then .next s
  else if Config.evidenceOk evidence then
    let (n, s) := s.draw
    .next { s with ports := s.ports.set port (some (Config.linkKey n)) }
  else
    let clear := fun (e : BitVec 32) => e &&& ~~~(1#32 <<< (19 + port))
    let s : State := { s with
      ports := s.ports.set port none
      parts := s.parts.map (fun (p : Partition) => { p with reach := p.reach.map (fun r => (r.1, clear r.2)) }) }
    .next ((List.range 16).foldl State.remeasure s)

/-- A switch has presented evidence: its chain verifies to a root of the trust list, and this Curator set its link keys (R418). -/
def State.trusts (s : State) (w : Switch) : Bool := w.keyed && w.chain.any (fun c => s.curator.trust.any (fun r => Config.rootsTo r c))

/-- LOCK_INTERFACE (R417, R418): from CONFIG_UNLOCKED, over links whose keys the Curator has set, past switches it trusts. -/
def execLockInterface (vf : Nat) (s : State) : Host.Outcome State Fault Refusal :=
  let v := s.vf vf
  .next (if v.enabled && v.tdisp == .unlocked && v.links.all s.linkSecure && v.switches.all s.trusts then s.modVf vf (fun v => { v with tdisp := .locked }) else s)

/-- START_INTERFACE (R417). -/
def execStartInterface (vf : Nat) (s : State) : Host.Outcome State Fault Refusal :=
  let v := s.vf vf
  .next (if v.enabled && v.tdisp == .locked then s.modVf vf (fun v => { v with tdisp := .run }) else s)

/-- STOP_INTERFACE (R417): contexts are saved, and once all are the queues are reset and the interface is unlocked; until then the
request waits and is tried again. -/
def execStopInterface (vf : Nat) (s : State) : Host.Outcome State Fault Refusal :=
  if !(s.vf vf).enabled then .next s
  else
    let cs := (s.contexts.filter (fun c => c.id.part == vf)).map (·.id)
    let s := cs.foldl (fun s c => (s.preempt c).trySave c) s
    if !s.allSaved vf then .next (s.hostWait 16 (.stopInterface vf))
    else .next ((s.hostDone (.stopInterface vf)).modVf vf (fun v => { v with
      tdisp := .unlocked, queues := v.queues.map (fun (q : QueueRegs) => { QueueRegs.reset with bound := q.bound }) }))

end Sys2Proof.Machine
end

