-- ==== Sys2Proof/Machine/Debug.lean ====
section
/-!
DEFINITION. Tenant debug (18 R422 to R426): attaching, watch ranges, reading a parked thread's state and memory, stepping, resuming.
-/

namespace Sys2Proof.Machine

/-- A request about a context: it exists (status 2 otherwise). -/
def ctxRequest (session ctx : Nat) (s : State) (f : State → Context → Nat × List Byte × State) : Host.Outcome State Fault Refusal :=
  vendorEvent session s fun s k => match s.context { part := k.vf, id := ctx } with
    | none => (2, [], s)
    | some x => f s x

/-- A request about a context to which the session is attached (status 3 otherwise). -/
def debugRequest (session ctx : Nat) (s : State) (f : State → Context → Nat × List Byte × State) : Host.Outcome State Fault Refusal :=
  ctxRequest session ctx s fun s x => if x.session = some session then f s x else (3, [], s)

/-- ATTACH (R424). -/
def execAttach (session ctx : Nat) (s : State) : Host.Outcome State Fault Refusal :=
  ctxRequest session ctx s fun s x => match x.session with
    | some id => if id = session then (0, [], s) else (4, [], s)
    | none => (0, [], s.modContext x.id (fun x => { x with session := some session }))

/-- DETACH (R424). -/
def execDetach (session ctx : Nat) (s : State) : Host.Outcome State Fault Refusal :=
  debugRequest session ctx s fun s x => (0, [], s.detach x.id)

/-- SET_WATCH (R422, R425): index 0 to 3; base and length multiples of 16. -/
def execSetWatch (session ctx index : Nat) (kinds : BitVec 8) (base len : Word64) (s : State) : Host.Outcome State Fault Refusal :=
  debugRequest session ctx s fun s x =>
    if 4 ≤ index || 8 ≤ kinds.toNat || base.toNat % 16 != 0 || len.toNat % 16 != 0 then (1, [], s)
    else
      let all := x.watches ++ List.replicate (4 - x.watches.length) { kinds := 0, base := 0, len := 0 }
      (0, [], s.modContext x.id (fun x => { x with watches := all.set index { kinds := kinds, base := base, len := len } }))

/-- A thread of a context that is parked for debug, with its class and code or address. -/
def State.debugThread (s : State) (c : CtxId) (id : TId) : Option (Thread × FClass × Word64) :=
  match s.thread id with
  | some t => match t.run with
    | .parked (.debug cls a) _ => if t.ctx = c then some (t, cls, a) else none
    | _ => none
  | none => none

/-- The 48 bytes of an operand-log entry (R183). The two operands of an `acas` have 8 bytes each of the 16 at 0x18, the compared value
first (DESIGN CHOICE, log entry 76). -/
def OpLog.bytes (o : OpLog) : List Byte :=
  let mid := match o.failed with
    | some c => natBytes 16 c.code.toNat
    | none => if o.op = 0x84 then natBytes 8 o.data.toNat ++ natBytes 8 o.data2.toNat else natBytes 16 o.data.toNat
  let word := o.op.toNat + o.mod.toNat * 2 ^ 8 + o.dst.toNat * 2 ^ 19 + (if o.cap.tag then 2 ^ 28 else 0) + 2 ^ 29
    + if o.failed.isSome then 2 ^ 30 else 0
  natBytes 16 o.cap.bits.toNat ++ natBytes 4 o.idx.toNat ++ natBytes 4 o.col.toNat ++ mid ++ natBytes 4 (pcBits o.blk o.off).toNat
    ++ natBytes 4 word

/-- The values of an item of a thread's state; none for one that is not there (R422). -/
def State.itemBytes (s : State) (t : Thread) : StateItem → Option (List Byte × State)
  | .regs lo hi =>
    if hi < lo || t.nregs ≤ hi then none
    else some ((List.range (hi + 1 - lo)).flatMap (fun i => natBytes 4 (t.reg (lo + i)).toNat), s)
  | .preds => some (natBytes 2 (t.preds ||| 1).toNat, s)
  | .special n =>
    if 0x12 < n then none
    else if n = 0x0A then
      let (v, s) := s.clock t false
      some (natBytes 8 v.toNat, s)
    else some (natBytes (if n = 0x0E then 8 else 4) (s.special t n), s)
  | .opLog => some (match t.log with
    | some o => o.bytes
    | none => List.replicate 48 0, s)

/-- READ_STATE (R422). -/
def execReadState (session ctx : Nat) (t : TId) (item : StateItem) (s : State) : Host.Outcome State Fault Refusal :=
  debugRequest session ctx s fun s x => match s.debugThread x.id t with
    | none => (5, [], s)
    | some (u, _, _) => match s.itemBytes u item with
      | none => (1, [], s)
      | some (bytes, s) => (0, bytes, s)

/-- One byte of the package's own memory as `ld.b8` through a quad reads it; none where a check stops the load (R157, R340). An uncorrectable
one under a protected launch is a rollback (R275). -/
def State.debugByte (s : State) (t : Thread) (c : Cap) (ea : Int) : Option Byte × State :=
  match s.deref t c { need := permLD, ea := ea, n := 1, al := 1, lacks := false, column := false } with
  | some _ => (none, s)
  | none => match s.land t c.space ea.toNat .read with
    | .ok (.sram cu off) => ((s.seenBytes t.sees (sramKey cu off) 1).head?, s)
    | .ok (.hbm pa _ _) =>
      let (bad, s) := (((s.touched t c.space ea.toNat).settleFrame pa).chargeRead t.ctx.part pa 1).readSeen t.sees false pa 1
      if bad then (none, match s.protectedLaunch t.ctx.part with
        | some l => s.rollback l (s.badGranules pa 1)
        | none => s)
      else ((s.seenBytes t.sees pa 1).head?, s)
    | .ok (.peer _ _) => (none, s)
    | .bad _ _ => (none, s.touched t c.space ea.toNat)
    | .absent _ => (none, s.touched t c.space ea.toNat)

/-- Bytes as loads of one byte after another through a quad read them; none where a check stops one. -/
def State.debugBytes (s : State) (t : Thread) (c : Cap) (ea : Int) : Nat → Option (List Byte) × State
  | 0 => (some [], s)
  | n + 1 => match s.debugBytes t c ea n with
    | (none, s) => (none, s)
    | (some bs, s) => match s.debugByte t c (ea + n) with
      | (none, s) => (none, s)
      | (some b, s) => (some (bs ++ [b]), s)

/-- What a debugger's read comes to. -/
inductive DebugRead where
  | got (bytes : List Byte) (s : State)
  | stopped (s : State)
  | waits (s : State)

/-- A debugger's read of one piece, which crosses no page: of the own package at once, of another package by a request whose answer it waits
for, number k of those of the thread (R340, R379). -/
def State.debugPiece (s : State) (t : Thread) (c : Cap) (k a n : Nat) : DebugRead :=
  match s.land t c.space a .read, s.launch t.id.launch with
  | .ok (.peer pkg off), some l =>
    if (List.range n).any (fun i => (s.deref t c { need := permLD, ea := ((a + i : Nat) : Int), n := 1, al := 1, lacks := false, column := false }).isSome) then .stopped s
    else match s.cmdPeer l (1000 + 32 * (1024 * t.id.group + t.id.num) + k) pkg off n (.read n false) with
      | (some (.data bytes _), s) => .got bytes s
      | (some _, s) => .stopped s
      | (none, s) => .waits s
  | _, _ => match s.debugBytes t c a n with
    | (some bs, s) => .got bs s
    | (none, s) => .stopped s

/-- The pieces of a debugger's read, one after another: all requests are sent before an answer is waited for. -/
def State.debugPieces (s : State) (t : Thread) (c : Cap) : List (Nat × Nat) → Nat → List Byte → Bool → DebugRead
  | [], _, bs, wait => if wait then .waits s else .got bs s
  | (a, n) :: ps, k, bs, wait => match s.debugPiece t c k a n with
    | .got b s => s.debugPieces t c ps (k + 1) (bs ++ b) wait
    | .stopped s => .stopped s
    | .waits s => s.debugPieces t c ps (k + 1) bs true

/-- A debugger's read: an address below 0 is none that a check lets pass. -/
def State.debugRead (s : State) (t : Thread) (c : Cap) (ea : Int) (n : Nat) : DebugRead :=
  if ea < 0 then (if n = 0 then .got [] s else .stopped s) else s.debugPieces t c (cut256 (n / 256 + 2) ea.toNat n) 0 [] false

/-- Its requests are over. -/
def State.dropDebug (s : State) (t : TId) : State :=
  let base := 1000 + 32 * (1024 * t.group + t.num)
  { s with flights := s.flights.filter (fun f => !(f.thread.launch == t.launch && match f.kind with
    | .cmd k => base ≤ k && k < base + 32
    | .load _ _ | .loadCap _ _ | .peer | .store | .engine _ _ _ => false)) }

/-- What a debugger's read of a thread parked for debug comes to now: its status and bytes, or that it waits. -/
def State.readMem (s : State) (part : Nat) (r : DebugWait) : Option (Nat × List Byte) × State :=
  match s.debugThread { part := part, id := r.ctx } r.thread with
  | none => (some (5, []), s.dropDebug r.thread)
  | some (u, _, _) =>
    if 4096 < r.len || r.quad % 4 != 0 || u.nregs ≤ r.quad then (some (1, []), s)
    else
      let c := u.quad r.quad
      match s.debugRead u c ((c.cursor : Int) + r.off.toInt) r.len with
      | .got bs s => (some (0, bs), s.dropDebug r.thread)
      | .stopped s => (some (1, []), s.dropDebug r.thread)
      | .waits s => (none, s)

/-- READ_MEM (R422, R423): what a load of the thread through the quad would read, byte by byte; nothing where a check stops it. Where it
needs answers of other packages, the session's response comes when they are there (DEDUCED, log entry 77). -/
def execReadMem (session ctx : Nat) (t : TId) (quad : Nat) (off : Word64) (len : Nat) (s : State) : Host.Outcome State Fault Refusal :=
  let r : DebugWait := { ctx := ctx, thread := t, quad := quad, off := off, len := len }
  let mine := (s.session session).filter (fun k => k.ready && k.secure && k.vf < 16
    && (s.context { part := k.vf, id := ctx }).any (·.session == some session))
  match mine.map (fun k => s.readMem k.vf r) with
  | some (none, s) => .next (s.modSession session (fun k => { k with reading := some r }))
  | some (some x, s) => debugRequest session ctx s fun s _ => (x.1, x.2, s)
  | none => debugRequest session ctx s fun s _ => (5, [], s)

/-- The answers that a debugger's read waits for are there. -/
def State.readReady (s : State) (t : TId) : Bool :=
  let base := 1000 + 32 * (1024 * t.group + t.num)
  s.flights.all (fun f => f.answer.isSome || !(f.thread.launch == t.launch && match f.kind with
    | .cmd k => base ≤ k && k < base + 32
    | .load _ _ | .loadCap _ _ | .peer | .store | .engine _ _ _ => false))

/-- The reads of debuggers whose answers have come are answered. -/
def State.finishReads (s : State) : State :=
  s.curator.sessions.foldl (fun s k => match k.reading with
    | none => s
    | some r =>
      if !s.readReady r.thread then s
      else match s.readMem k.vf r with
        | (none, s) => s
        | (some x, s) => (s.modSession k.id (fun k => { k with reading := none })).emit (.vendor k.id x.1 x.2)) s

/-- The threads of a group parked for debug at a position. -/
def State.parkedAt (s : State) (c : CtxId) (launch group : Nat) (pick : Thread → Bool) : List Thread :=
  s.threads.filter (fun t => t.ctx == c && t.id.launch == launch && t.id.group == group && pick t && match t.run with
    | .parked (.debug _ _) _ => true
    | _ => false)

/-- A debugger's step has to wait: the CU of its threads has no slot free for a train (R39). -/
def State.stepWaits (s : State) (session ctx launch group blk off : Nat) : Bool :=
  (s.session session).any (fun k =>
    let c : CtxId := { part := k.vf, id := ctx }
    (s.context c).any (fun x => x.session == some session)
      && ((s.parkedAt c launch group (fun t => t.blk.toNat == blk && t.off.toNat == off)).head?).any (fun t =>
        trainSlots ≤ (s.trains.filter (fun r => r.cu == t.cu)).length))

/-- STEP (R426): the lowest threads parked for debug at a position form a train that issues one word; the request waits for a free slot
of their CU and is tried again. -/
def execStep (session ctx launch group blk off : Nat) (s : State) : Host.Outcome State Fault Refusal :=
  let me : Instr := .step session ctx launch group blk off
  if s.stepWaits session ctx launch group blk off then .next (s.hostWait 16 me)
  else debugRequest session ctx (s.hostDone me) fun s x =>
    let ts := s.parkedAt x.id launch group (fun t => t.blk.toNat == blk && t.off.toNat == off)
    match ts.head? with
    | none => (5, [], s)
    | some t =>
      let nums := lowest64 ((ts.map (fun t => t.id.num)).foldl setAdd [])
      let mine := fun (u : Thread) => u.id.launch == launch && u.id.group == group && nums.contains u.id.num
      let s := s.modThreads mine (fun (u : Thread) => { u with steps := true })
      (0, [], s.formTrain t.cu x.id launch group t.blk t.off nums false)

/-- A debug-parked thread goes on, or takes its fault (R426, R190). After a `brk` it is parked at the next word, and the fault names the
word before (R199). -/
def State.resumeDebug (s : State) (t : Thread) (deliver : Bool) : State :=
  match t.run with
  | .parked (.debug cls a) _ => if deliver then s.deliverNow { t with watchSkip := false } cls a t.blk (if cls = .breakpoint then t.off - 1 else t.off) else s.wakeAt t
  | _ => s

/-- RESUME (R426): one thread or all of a group. -/
def execResume (session ctx launch group : Nat) (thread : Option Nat) (deliver : Bool) (s : State) : Host.Outcome State Fault Refusal :=
  debugRequest session ctx s fun s x =>
    let ts := s.parkedAt x.id launch group (fun t => thread.isNone || thread == some t.id.num)
    if ts.isEmpty then (5, [], s)
    else (0, [], ts.foldl (fun s t => s.resumeDebug t deliver) s)

end Sys2Proof.Machine
end

