-- ==== Sys2Proof/Machine/ImmF.lean ====
section
/-!
DEFINITION. The I-form arithmetic instructions (04 R115, R116; 05 R147) and the pair word (03 R65 to R68).
-/

namespace Sys2Proof.Machine

/-- An I-form instruction of g[a] and imm32, as 32-bit values (R115). -/
def immOp (op : Nat) (w : IWord) (s : State) (f : Word → Word → Word) : Host.Outcome State Fault Refusal :=
  issue (.i op w) s fun s t => .go s (t.setReg w.d.toNat (f (t.reg w.a.toNat) w.imm))

/-- addi (R115). -/
def execAddi (w : IWord) (s : State) : Host.Outcome State Fault Refusal := immOp 0x01 w s fun x y => x + y

/-- muli (R115). -/
def execMuli (w : IWord) (s : State) : Host.Outcome State Fault Refusal := immOp 0x02 w s fun x y => x * y

/-- andi (R115). -/
def execAndi (w : IWord) (s : State) : Host.Outcome State Fault Refusal := immOp 0x03 w s fun x y => x &&& y

/-- ori (R115). -/
def execOri (w : IWord) (s : State) : Host.Outcome State Fault Refusal := immOp 0x04 w s fun x y => x ||| y

/-- xori (R115). -/
def execXori (w : IWord) (s : State) : Host.Outcome State Fault Refusal := immOp 0x05 w s fun x y => x ^^^ y

/-- movi (R115). -/
def execMovi (w : IWord) (s : State) : Host.Outcome State Fault Refusal := immOp 0x06 w s fun _ y => y

/-- movhi (R115). -/
def execMovhi (w : IWord) (s : State) : Host.Outcome State Fault Refusal :=
  immOp 0x07 w s fun x y => (y <<< 16) ||| (x &&& 0xFFFF#32)

/-- The conditions of `cmpi` (R116). -/
def immCond (cond : Nat) (x y : Word) : Bool :=
  match cond with
  | 0 => x == y
  | 1 => x != y
  | 2 => x.slt y
  | 3 => !x.slt y
  | 4 => !y.slt x
  | 5 => y.slt x
  | 6 => x.ult y
  | _ => !x.ult y

/-- cmpi (R116). -/
def execCmpi (w : IWord) (s : State) : Host.Outcome State Fault Refusal :=
  issue (.i 0x08 w) s fun s t =>
    .go s (t.setPred (w.d.toNat % 16) (immCond (w.d.toNat / 64) (t.reg w.a.toNat) w.imm))

/-- mini (R115). -/
def execMini (w : IWord) (s : State) : Host.Outcome State Fault Refusal :=
  immOp 0x09 w s fun x y => if x.slt y then x else y

/-- maxi (R115). -/
def execMaxi (w : IWord) (s : State) : Host.Outcome State Fault Refusal :=
  immOp 0x0A w s fun x y => if x.slt y then y else x

/-- shli (R115). -/
def execShli (w : IWord) (s : State) : Host.Outcome State Fault Refusal := immOp 0x0B w s fun x y => x <<< (y.toNat % 32)

/-- shri (R115). -/
def execShri (w : IWord) (s : State) : Host.Outcome State Fault Refusal := immOp 0x0C w s fun x y => x >>> (y.toNat % 32)

/-- sari (R115). -/
def execSari (w : IWord) (s : State) : Host.Outcome State Fault Refusal :=
  immOp 0x0D w s fun x y => x.sshiftRight (y.toNat % 32)

/-- fmovi (R147). -/
def execFmovi (w : IWord) (s : State) : Host.Outcome State Fault Refusal := immOp 0x0E w s fun _ y => y

/-- An f32 operation of g[a] and an immediate, to nearest even (R147). -/
def immFloat (op : Nat) (w : IWord) (s : State) (f : FVal → FVal → FRes) : Host.Outcome State Fault Refusal :=
  issue (.i op w) s fun s t =>
    let r := f (Fmt.f32.read (t.reg w.a.toNat).toNat) (Fmt.f32.read w.imm.toNat)
    .go s ((t.setReg w.d.toNat (BitVec.ofNat 32 r.bits)).raise r.flags)

/-- faddi (R147). -/
def execFaddi (w : IWord) (s : State) : Host.Outcome State Fault Refusal := immFloat 0x0F w s (addRes .f32 .rn)

/-- fmuli (R147). -/
def execFmuli (w : IWord) (s : State) : Host.Outcome State Fault Refusal := immFloat 0x10 w s (mulRes .f32 .rn)

/-! ## The pair word -/

/-- A slot's value and flags, from d, s and imm6 (R65). -/
def slotVal (op : SlotOp) (d v : Word) (imm : BitVec 6) : Word × BitVec 5 :=
  let k := imm.signExtend 32
  let fl := fun (r : FRes) => (BitVec.ofNat 32 r.bits, r.flags)
  let x := Fmt.f32.read d.toNat
  let y := Fmt.f32.read v.toNat
  match op with
  | .nop => (d, 0)
  | .add => (d + v, 0)
  | .sub => (d - v, 0)
  | .mul => (d * v, 0)
  | .and => (d &&& v, 0)
  | .or => (d ||| v, 0)
  | .xor => (d ^^^ v, 0)
  | .shl => (d <<< (v.toNat % 32), 0)
  | .shr => (d >>> (v.toNat % 32), 0)
  | .sar => (d.sshiftRight (v.toNat % 32), 0)
  | .mov => (v, 0)
  | .min => (if d.slt v then d else v, 0)
  | .max => (if d.slt v then v else d, 0)
  | .not => (~~~v, 0)
  | .addi => (d + k, 0)
  | .shli => (d <<< imm.toNat, 0)
  | .shri => (d >>> imm.toNat, 0)
  | .sari => (d.sshiftRight imm.toNat, 0)
  | .movi => (k, 0)
  | .andi => (d &&& k, 0)
  | .fadd => fl (addRes .f32 .rn x y)
  | .fmul => fl (mulRes .f32 .rn x y)
  | .fmin => fl (minMaxRes .f32 false d.toNat v.toNat)
  | .fmax => fl (minMaxRes .f32 true d.toNat v.toNat)
  | .fmov => (v, 0)

/-- A slot's effect on `t`, its operands read from `t0`, before either slot writes (R66). -/
def slotRun (p : PSlot) (t0 t : Thread) : Thread :=
  if !t0.slotGuard p.guard || p.op == .nop then t
  else
    let r := slotVal p.op (t0.reg p.d.toNat) (t0.reg p.s.toNat) p.imm
    (t.setReg p.d.toNat r.1).raise r.2

/-- The pair word (R66). -/
def execPairWord (s0 s1 : PSlot) (s : State) : Host.Outcome State Fault Refusal :=
  issue (.p s0 s1) s fun s t => .go s (slotRun s1 t (slotRun s0 t t))

end Sys2Proof.Machine
end

