-- ==== Sys2Proof/Machine/Dispatch.lean ====
section
/-!
DEFINITION. The dispatch: one arm for each instruction, one call of its meaning.
-/

namespace Sys2Proof.Machine

/-- What an instruction does to a state. -/
def exec (i : Instr) (s : State) : Host.Outcome State Fault Refusal :=
  match i with
  | .add w => Sys2Proof.Machine.execAdd w s
  | .sub w => Sys2Proof.Machine.execSub w s
  | .addc w => Sys2Proof.Machine.execAddc w s
  | .subb w => Sys2Proof.Machine.execSubb w s
  | .mul w => Sys2Proof.Machine.execMul w s
  | .mulhi w => Sys2Proof.Machine.execMulhi w s
  | .mulw w => Sys2Proof.Machine.execMulw w s
  | .mad w => Sys2Proof.Machine.execMad w s
  | .madhi w => Sys2Proof.Machine.execMadhi w s
  | .min w => Sys2Proof.Machine.execMin w s
  | .max w => Sys2Proof.Machine.execMax w s
  | .abs w => Sys2Proof.Machine.execAbs w s
  | .neg w => Sys2Proof.Machine.execNeg w s
  | .sadd w => Sys2Proof.Machine.execSadd w s
  | .ssub w => Sys2Proof.Machine.execSsub w s
  | .and w => Sys2Proof.Machine.execAnd w s
  | .or w => Sys2Proof.Machine.execOr w s
  | .xor w => Sys2Proof.Machine.execXor w s
  | .andn w => Sys2Proof.Machine.execAndn w s
  | .orn w => Sys2Proof.Machine.execOrn w s
  | .not w => Sys2Proof.Machine.execNot w s
  | .shl w => Sys2Proof.Machine.execShl w s
  | .shr w => Sys2Proof.Machine.execShr w s
  | .sar w => Sys2Proof.Machine.execSar w s
  | .rol w => Sys2Proof.Machine.execRol w s
  | .ror w => Sys2Proof.Machine.execRor w s
  | .bfx w => Sys2Proof.Machine.execBfx w s
  | .bfi w => Sys2Proof.Machine.execBfi w s
  | .popc w => Sys2Proof.Machine.execPopc w s
  | .clz w => Sys2Proof.Machine.execClz w s
  | .ctz w => Sys2Proof.Machine.execCtz w s
  | .brev w => Sys2Proof.Machine.execBrev w s
  | .bperm w => Sys2Proof.Machine.execBperm w s
  | .sel w => Sys2Proof.Machine.execSel w s
  | .mov w => Sys2Proof.Machine.execMov w s
  | .clmul w => Sys2Proof.Machine.execClmul w s
  | .clmulhi w => Sys2Proof.Machine.execClmulhi w s
  | .dot4 w => Sys2Proof.Machine.execDot4 w s
  | .adiff w => Sys2Proof.Machine.execAdiff w s
  | .cmp w => Sys2Proof.Machine.execCmp w s
  | .pset w => Sys2Proof.Machine.execPset w s
  | .p2g w => Sys2Proof.Machine.execP2g w s
  | .g2p w => Sys2Proof.Machine.execG2p w s
  | .scadd w => Sys2Proof.Machine.execScadd w s
  | .fadd w => Sys2Proof.Machine.execFadd w s
  | .fsub w => Sys2Proof.Machine.execFsub w s
  | .fmul w => Sys2Proof.Machine.execFmul w s
  | .ffma w => Sys2Proof.Machine.execFfma w s
  | .fmin w => Sys2Proof.Machine.execFmin w s
  | .fmax w => Sys2Proof.Machine.execFmax w s
  | .fmov w => Sys2Proof.Machine.execFmov w s
  | .fcmp w => Sys2Proof.Machine.execFcmp w s
  | .fclass w => Sys2Proof.Machine.execFclass w s
  | .fdiv w => Sys2Proof.Machine.execFdiv w s
  | .fsqrt w => Sys2Proof.Machine.execFsqrt w s
  | .frcp w => Sys2Proof.Machine.execFrcp w s
  | .frsq w => Sys2Proof.Machine.execFrsq w s
  | .fex2 w => Sys2Proof.Machine.execFex2 w s
  | .flg2 w => Sys2Proof.Machine.execFlg2 w s
  | .fsin w => Sys2Proof.Machine.execFsin w s
  | .fcos w => Sys2Proof.Machine.execFcos w s
  | .fcvt w => Sys2Proof.Machine.execFcvt w s
  | .f2i w => Sys2Proof.Machine.execF2i w s
  | .i2f w => Sys2Proof.Machine.execI2f w s
  | .frnd w => Sys2Proof.Machine.execFrnd w s
  | .fscale w => Sys2Proof.Machine.execFscale w s
  | .fgexp w => Sys2Proof.Machine.execFgexp w s
  | .hadd2 w => Sys2Proof.Machine.execHadd2 w s
  | .hmul2 w => Sys2Proof.Machine.execHmul2 w s
  | .hfma2 w => Sys2Proof.Machine.execHfma2 w s
  | .fdot2 w => Sys2Proof.Machine.execFdot2 w s
  | .qdeq w => Sys2Proof.Machine.execQdeq w s
  | .addi w => Sys2Proof.Machine.execAddi w s
  | .muli w => Sys2Proof.Machine.execMuli w s
  | .andi w => Sys2Proof.Machine.execAndi w s
  | .ori w => Sys2Proof.Machine.execOri w s
  | .xori w => Sys2Proof.Machine.execXori w s
  | .movi w => Sys2Proof.Machine.execMovi w s
  | .movhi w => Sys2Proof.Machine.execMovhi w s
  | .cmpi w => Sys2Proof.Machine.execCmpi w s
  | .mini w => Sys2Proof.Machine.execMini w s
  | .maxi w => Sys2Proof.Machine.execMaxi w s
  | .shli w => Sys2Proof.Machine.execShli w s
  | .shri w => Sys2Proof.Machine.execShri w s
  | .sari w => Sys2Proof.Machine.execSari w s
  | .fmovi w => Sys2Proof.Machine.execFmovi w s
  | .faddi w => Sys2Proof.Machine.execFaddi w s
  | .fmuli w => Sys2Proof.Machine.execFmuli w s
  | .bra w => Sys2Proof.Machine.execBra w s
  | .brc w => Sys2Proof.Machine.execBrc w s
  | .call w => Sys2Proof.Machine.execCall w s
  | .exitI w => Sys2Proof.Machine.execExitI w s
  | .trap w => Sys2Proof.Machine.execTrap w s
  | .pairWord s0 s1 => Sys2Proof.Machine.execPairWord s0 s1 s
  | .cget w => Sys2Proof.Machine.execCget w s
  | .cinc w => Sys2Proof.Machine.execCinc w s
  | .csetc w => Sys2Proof.Machine.execCsetc w s
  | .cbnd w => Sys2Proof.Machine.execCbnd w s
  | .cperm w => Sys2Proof.Machine.execCperm w s
  | .cview w => Sys2Proof.Machine.execCview w s
  | .cseal w => Sys2Proof.Machine.execCseal w s
  | .cunseal w => Sys2Proof.Machine.execCunseal w s
  | .ctag w => Sys2Proof.Machine.execCtag w s
  | .cspc w => Sys2Proof.Machine.execCspc w s
  | .ccast w => Sys2Proof.Machine.execCcast w s
  | .ceq w => Sys2Proof.Machine.execCeq w s
  | .cdif w => Sys2Proof.Machine.execCdif w s
  | .cclr w => Sys2Proof.Machine.execCclr w s
  | .cmov w => Sys2Proof.Machine.execCmov w s
  | .crep w => Sys2Proof.Machine.execCrep w s
  | .ld w => Sys2Proof.Machine.execLd w s
  | .ldc w => Sys2Proof.Machine.execLdc w s
  | .ldv w => Sys2Proof.Machine.execLdv w s
  | .st w => Sys2Proof.Machine.execSt w s
  | .stc w => Sys2Proof.Machine.execStc w s
  | .stv w => Sys2Proof.Machine.execStv w s
  | .atom w => Sys2Proof.Machine.execAtom w s
  | .acas w => Sys2Proof.Machine.execAcas w s
  | .red w => Sys2Proof.Machine.execRed w s
  | .acasc w => Sys2Proof.Machine.execAcasc w s
  | .wadr w => Sys2Proof.Machine.execWadr w s
  | .wake w => Sys2Proof.Machine.execWake w s
  | .pf w => Sys2Proof.Machine.execPf w s
  | .fence w => Sys2Proof.Machine.execFence w s
  | .drain w => Sys2Proof.Machine.execDrain w s
  | .cpy w => Sys2Proof.Machine.execCpy w s
  | .cpyv w => Sys2Proof.Machine.execCpyv w s
  | .cpyg w => Sys2Proof.Machine.execCpyg w s
  | .cpyf w => Sys2Proof.Machine.execCpyf w s
  | .qfen w => Sys2Proof.Machine.execQfen w s
  | .wfill w => Sys2Proof.Machine.execWfill w s
  | .mmo w => Sys2Proof.Machine.execMmo w s
  | .mst w => Sys2Proof.Machine.execMst w s
  | .mzro w => Sys2Proof.Machine.execMzro w s
  | .mget w => Sys2Proof.Machine.execMget w s
  | .obres w => Sys2Proof.Machine.execObres w s
  | .obrel w => Sys2Proof.Machine.execObrel w s
  | .obset w => Sys2Proof.Machine.execObset w s
  | .qpush w => Sys2Proof.Machine.execQpush w s
  | .qpop w => Sys2Proof.Machine.execQpop w s
  | .stacq w => Sys2Proof.Machine.execStacq w s
  | .strel w => Sys2Proof.Machine.execStrel w s
  | .bar w => Sys2Proof.Machine.execBar w s
  | .hbar w => Sys2Proof.Machine.execHbar w s
  | .launch w => Sys2Proof.Machine.execLaunch w s
  | .join w => Sys2Proof.Machine.execJoin w s
  | .wait w => Sys2Proof.Machine.execWait w s
  | .clk w => Sys2Proof.Machine.execClk w s
  | .rds w => Sys2Proof.Machine.execRds w s
  | .wrs w => Sys2Proof.Machine.execWrs w s
  | .perfcRd w => Sys2Proof.Machine.execPerfcRd w s
  | .perfcSel w => Sys2Proof.Machine.execPerfcSel w s
  | .brx w => Sys2Proof.Machine.execBrx w s
  | .callx w => Sys2Proof.Machine.execCallx w s
  | .ret w => Sys2Proof.Machine.execRet w s
  | .exitX w => Sys2Proof.Machine.execExitX w s
  | .nop w => Sys2Proof.Machine.execNop w s
  | .brk w => Sys2Proof.Machine.execBrk w s
  | .idle w => Sys2Proof.Machine.execIdle w s
  | .elect w => Sys2Proof.Machine.execElect w s
  | .syscMap w => Sys2Proof.Machine.execSyscMap w s
  | .syscAlloc w => Sys2Proof.Machine.execSyscAlloc w s
  | .syscRevoke w => Sys2Proof.Machine.execSyscRevoke w s
  | .syscLown w => Sys2Proof.Machine.execSyscLown w s
  | .rti w => Sys2Proof.Machine.execRti w s
  | .trainForm cu => Sys2Proof.Machine.execTrainForm cu s
  | .lateResultPark t => Sys2Proof.Machine.execLateResultPark t s
  | .idleExpiry t => Sys2Proof.Machine.execIdleExpiry t s
  | .wadrTimeout t => Sys2Proof.Machine.execWadrTimeout t s
  | .memoryResponse k => Sys2Proof.Machine.execMemoryResponse k s
  | .storePerformed k scope => Sys2Proof.Machine.execStorePerformed k scope s
  | .copyPerform c cu q => Sys2Proof.Machine.execCopyPerform c cu q s
  | .wfillPerform c cu => Sys2Proof.Machine.execWfillPerform c cu s
  | .mmoPerform c cu => Sys2Proof.Machine.execMmoPerform c cu s
  | .firstUseTrap c cu tile => Sys2Proof.Machine.execFirstUseTrap c cu tile s
  | .subnormalAssist c cu => Sys2Proof.Machine.execSubnormalAssist c cu s
  | .mstPerform c cu => Sys2Proof.Machine.execMstPerform c cu s
  | .mzroPerform c cu => Sys2Proof.Machine.execMzroPerform c cu s
  | .obsetPerform c cu => Sys2Proof.Machine.execObsetPerform c cu s
  | .obrelPerform c cu => Sys2Proof.Machine.execObrelPerform c cu s
  | .qfenJoin c cu id => Sys2Proof.Machine.execQfenJoin c cu id s
  | .keyCacheFill cu slice entry => Sys2Proof.Machine.execKeyCacheFill cu slice entry s
  | .launchStart l => Sys2Proof.Machine.execLaunchStart l s
  | .teamAdmit l cus => Sys2Proof.Machine.execTeamAdmit l cus s
  | .completionRecordWrite l => Sys2Proof.Machine.execCompletionRecordWrite l s
  | .cmdNop vf q => Sys2Proof.Machine.execCmdNop vf q s
  | .cmdLaunch vf q => Sys2Proof.Machine.execCmdLaunch vf q s
  | .cmdHandle vf q => Sys2Proof.Machine.execCmdHandle vf q s
  | .qtail vf q v => Sys2Proof.Machine.execQtail vf q v s
  | .qstatRun vf q run => Sys2Proof.Machine.execQstatRun vf q run s
  | .qstatClearStopped vf q => Sys2Proof.Machine.execQstatClearStopped vf q s
  | .prreplyResolved vf id gen => Sys2Proof.Machine.execPrreplyResolved vf id gen s
  | .prreplyInvalid vf id gen => Sys2Proof.Machine.execPrreplyInvalid vf id gen s
  | .vfErrorClear vf => Sys2Proof.Machine.execVfErrorClear vf s
  | .registerWrite vf off v => Sys2Proof.Machine.execRegisterWrite vf off v s
  | .mapRequest part => Sys2Proof.Machine.execMapRequest part s
  | .unmapRequest part => Sys2Proof.Machine.execUnmapRequest part s
  | .protectRequest part => Sys2Proof.Machine.execProtectRequest part s
  | .catLoad part => Sys2Proof.Machine.execCatLoad part s
  | .catPin part => Sys2Proof.Machine.execCatPin part s
  | .catUnpin part => Sys2Proof.Machine.execCatUnpin part s
  | .deaccession part => Sys2Proof.Machine.execDeaccession part s
  | .hostAccess vf va op => Sys2Proof.Machine.execHostAccess vf va op s
  | .atsTranslationRequest vf fn va => Sys2Proof.Machine.execAtsTranslationRequest vf fn va s
  | .atsInvalidationCompletion vf fn => Sys2Proof.Machine.execAtsInvalidationCompletion vf fn s
  | .atsTimeout vf fn => Sys2Proof.Machine.execAtsTimeout vf fn s
  | .peerRequest p => Sys2Proof.Machine.execPeerRequest p s
  | .peerResponse p => Sys2Proof.Machine.execPeerResponse p s
  | .generationUpdate pkg part gen => Sys2Proof.Machine.execGenerationUpdate pkg part gen s
  | .colourMarking tenant colour => Sys2Proof.Machine.execColourMarking tenant colour s
  | .markingAck tenant colour pkg => Sys2Proof.Machine.execMarkingAck tenant colour pkg s
  | .revocationSweep tenant colour => Sys2Proof.Machine.execRevocationSweep tenant colour s
  | .sweepAck tenant colour pkg => Sys2Proof.Machine.execSweepAck tenant colour pkg s
  | .frameGrant part slice => Sys2Proof.Machine.execFrameGrant part slice s
  | .ownerChangeScrub first count => Sys2Proof.Machine.execOwnerChangeScrub first count s
  | .patrolScrub slice => Sys2Proof.Machine.execPatrolScrub slice s
  | .refreshDue slice row => Sys2Proof.Machine.execRefreshDue slice row s
  | .channelWindow slice chan => Sys2Proof.Machine.execChannelWindow slice chan s
  | .useCountDecay slice => Sys2Proof.Machine.execUseCountDecay slice s
  | .partitionCreate p => Sys2Proof.Machine.execPartitionCreate p s
  | .preempt c => Sys2Proof.Machine.execPreempt c s
  | .contextSave c => Sys2Proof.Machine.execContextSave c s
  | .contextRestore c place => Sys2Proof.Machine.execContextRestore c place s
  | .contextExport c pkg => Sys2Proof.Machine.execContextExport c pkg s
  | .contextImport k part place => Sys2Proof.Machine.execContextImport k part place s
  | .contextEnd c => Sys2Proof.Machine.execContextEnd c s
  | .partitionMergeSplit m => Sys2Proof.Machine.execPartitionMergeSplit m s
  | .sliceReset slice => Sys2Proof.Machine.execSliceReset slice s
  | .sliceWatchdog slice => Sys2Proof.Machine.execSliceWatchdog slice s
  | .monitorSample slice => Sys2Proof.Machine.execMonitorSample slice s
  | .powerControlStep => Sys2Proof.Machine.execPowerControlStep s
  | .coldStart b => Sys2Proof.Machine.execColdStart b s
  | .bootTimeout => Sys2Proof.Machine.execBootTimeout s
  | .bootReasonReport => Sys2Proof.Machine.execBootReasonReport s
  | .powerInputLoss => Sys2Proof.Machine.execPowerInputLoss s
  | .setPowerLimit watts => Sys2Proof.Machine.execSetPowerLimit watts s
  | .retryBoot b => Sys2Proof.Machine.execRetryBoot b s
  | .firmwareStage kind image => Sys2Proof.Machine.execFirmwareStage kind image s
  | .getVersion vf => Sys2Proof.Machine.execGetVersion vf s
  | .getCapabilities vf => Sys2Proof.Machine.execGetCapabilities vf s
  | .negotiateAlgorithms vf p384 sha384 gcm => Sys2Proof.Machine.execNegotiateAlgorithms vf p384 sha384 gcm s
  | .getDigests vf => Sys2Proof.Machine.execGetDigests vf s
  | .getCertificate vf slot => Sys2Proof.Machine.execGetCertificate vf slot s
  | .challenge vf slot nonce => Sys2Proof.Machine.execChallenge vf slot nonce s
  | .getMeasurements vf session index nonce => Sys2Proof.Machine.execGetMeasurements vf session index nonce s
  | .keyExchange vf cert => Sys2Proof.Machine.execKeyExchange vf cert s
  | .finish session mac => Sys2Proof.Machine.execFinish session mac s
  | .heartbeat session => Sys2Proof.Machine.execHeartbeat session s
  | .heartbeatExpiry session => Sys2Proof.Machine.execHeartbeatExpiry session s
  | .keyUpdate session => Sys2Proof.Machine.execKeyUpdate session s
  | .endSession session => Sys2Proof.Machine.execEndSession session s
  | .respondIfReady vf => Sys2Proof.Machine.execRespondIfReady vf s
  | .evidenceMode session live => Sys2Proof.Machine.execEvidenceMode session live s
  | .setKek session key => Sys2Proof.Machine.execSetKek session key s
  | .regPub session key => Sys2Proof.Machine.execRegPub session key s
  | .allowExport session ctx pkg => Sys2Proof.Machine.execAllowExport session ctx pkg s
  | .attach session ctx => Sys2Proof.Machine.execAttach session ctx s
  | .detach session ctx => Sys2Proof.Machine.execDetach session ctx s
  | .setWatch session ctx index kinds base len => Sys2Proof.Machine.execSetWatch session ctx index kinds base len s
  | .readState session ctx t item => Sys2Proof.Machine.execReadState session ctx t item s
  | .readMem session ctx t quad off len => Sys2Proof.Machine.execReadMem session ctx t quad off len s
  | .step session ctx launch group blk off => Sys2Proof.Machine.execStep session ctx launch group blk off s
  | .resume session ctx launch group thread deliver => Sys2Proof.Machine.execResume session ctx launch group thread deliver s
  | .lockInterface vf => Sys2Proof.Machine.execLockInterface vf s
  | .startInterface vf => Sys2Proof.Machine.execStartInterface vf s
  | .stopInterface vf => Sys2Proof.Machine.execStopInterface vf s
  | .ideStreamFailure link => Sys2Proof.Machine.execIdeStreamFailure link s
  | .ualinkPortAuth port evidence => Sys2Proof.Machine.execUalinkPortAuth port evidence s
  | .partitionRemove part => Sys2Proof.Machine.execPartitionRemove part s
  | .frameReclaim frame => Sys2Proof.Machine.execFrameReclaim frame s
  | .tenantCreate tenant => Sys2Proof.Machine.execTenantCreate tenant s
  | .tenantEnd tenant => Sys2Proof.Machine.execTenantEnd tenant s
  | .contextCreate c => Sys2Proof.Machine.execContextCreate c s
  | .queueBind vf q ctx => Sys2Proof.Machine.execQueueBind vf q ctx s
  | .partitionGate part => Sys2Proof.Machine.execPartitionGate part s
  | .partitionPowerUp part => Sys2Proof.Machine.execPartitionPowerUp part s
  | .vfReset vf => Sys2Proof.Machine.execVfReset vf s
  | .reachTableWrite part pkg entry => Sys2Proof.Machine.execReachTableWrite part pkg entry s
  | .arbiterTableWrite slice chan part floor ceiling => Sys2Proof.Machine.execArbiterTableWrite slice chan part floor ceiling s
  | .wayQuotaWrite slice part mask => Sys2Proof.Machine.execWayQuotaWrite slice part mask s
  | .fairnessLimitWrite cu limit => Sys2Proof.Machine.execFairnessLimitWrite cu limit s
  | .contextPriorityWrite c prio => Sys2Proof.Machine.execContextPriorityWrite c prio s
  | .ideKmKeyProg session link dir key => Sys2Proof.Machine.execIdeKmKeyProg session link dir key s
  | .importReport c pkg => Sys2Proof.Machine.execImportReport c pkg s

end Sys2Proof.Machine
end

