-- ==== Sys2Proof/Machine/Offers.lean ====
section
/-!
DEFINITION. What the machine may do of itself besides letting a thread issue: the events that its own units
make (spec/95), each with the operands that name it now. A step takes one of those that change something.
-/

namespace Sys2Proof.Machine

/-- Trains a CU could form (R186). -/
def State.offerTrains (s : State) : List Instr :=
  ((s.threads.map (·.cu)).eraseDups.filter (fun cu => (s.choice cu).isSome)).map .trainForm

/-- What the passing of time does to a thread (R198, R235). -/
def Thread.offers (t : Thread) : List Instr :=
  match t.run with
  | .parked (.idle _) _ => [.idleExpiry t.id]
  | .parked (.monitor _ (some _)) _ => [.wadrTimeout t.id]
  | _ => []

/-- Answers of the memory, and writes performed at each scope (R209, R254). -/
def State.offerMemory (s : State) : List Instr :=
  s.flights.map (fun f => .memoryResponse f.req)
    ++ (List.range s.stores.length).flatMap (fun k => match s.stores[k]? with
      | some p => (.grp :: .sys :: .cmd :: .fab :: p.hidden.map Observer.cu).map (.storePerformed k)
      | none => [])

/-- The tile an `mget` waits for in a thread of a context on a CU (R306). -/
def Thread.tileWait (t : Thread) : List Nat :=
  match t.run with
  | .train (some h) => match h.cond with
    | .tile i _ => [i]
    | _ => []
  | .parked (.late (.tile i _)) _ => [i]
  | _ => []

/-- What the engines may do with the head of one queue (R289, R296, R302 to R316, R370). -/
def State.offerHead (s : State) (c : CtxId) (q : EngineQueue) : List Instr :=
  match q.entries.head? with
  | none => []
  | some e =>
    let traps := e.op.tiles.map (Instr.firstUseTrap c q.cu)
    let assist := if e.assist then [Instr.subnormalAssist c q.cu] else []
    match e.op with
    | .join id _ => [.qfenJoin c q.cu id]
    | .cpy _ _ _ _ | .cpyv _ _ _ _ _ _ | .cpyg _ _ _ _ | .cpyf _ _ _ => [.copyPerform c q.cu q.q]
    | .wfill _ _ _ _ => [.wfillPerform c q.cu]
    | .mmo _ _ bs =>
      let key := match s.keyMissing c q.cu (readBlock bs) with
        | some (slice, entry) => [Instr.keyCacheFill q.cu slice entry]
        | none => []
      .mmoPerform c q.cu :: traps ++ assist ++ key
    | .mst _ _ _ _ => .mstPerform c q.cu :: traps
    | .mzro _ => .mzroPerform c q.cu :: traps
    | .obset _ _ _ => [.obsetPerform c q.cu]
    | .obrel _ => [.obrelPerform c q.cu]

/-- What the engines may do (R281, R306); a quiet context is saved once nothing of it is left in flight (R396). -/
def State.offerEngines (s : State) : List Instr :=
  s.contexts.flatMap (fun c => c.queues.flatMap (s.offerHead c.id)
    ++ (match c.life with
      | .quiet => [.contextSave c.id]
      | .ending => [.contextEnd c.id]
      | .resident | .saved | .exported _ => []))
    ++ s.threads.flatMap (fun t => t.tileWait.map (Instr.firstUseTrap t.ctx t.cu))

/-- A placement of the rest of a team among the CUs of a cluster, first fit with another try where one fails (R27). -/
def State.searchPlace (s : State) (l : Launch) (cus : List Nat) : Nat → List Nat → Option (List Nat)
  | 0, done => some done
  | n + 1, done => cus.findSome? (fun cu => if s.roomOn l (done ++ [cu]) cu then s.searchPlace l cus n (done ++ [cu]) else none)

/-- The placements offered for the next team of a launch: the fixed one (R30), else one for each cluster (R27, R29). -/
def State.places (s : State) (l : Launch) : List (List Nat) :=
  let p := s.part l.ctx.part
  if l.flags.getLsbD 0 then [l.fixedPlace p l.teams]
  else (List.range (3 * p.n)).filterMap (fun j =>
    s.searchPlace l ((List.range 4).map (fun i => p.physicalCu (4 * j + i))) l.teamSize [])

/-- What the command processor may do with the launches (R29, R52, R332). -/
def State.offerLaunches (s : State) : List Instr :=
  s.launches.flatMap (fun l => match l.phase with
    | .waiting => [.launchStart l.uid]
    | .running => .completionRecordWrite l.uid :: (if l.teams * l.teamSize < l.groups then s.places l else []).map (.teamAdmit l.uid)
    | .finishing _ => [.completionRecordWrite l.uid])

/-- Command queues with an entry to read (R334), and calls that wait for firmware (R346, R374). -/
def State.offerFirmware (s : State) : List Instr :=
  (List.range s.vfs.length).flatMap (fun v =>
    let f := s.vf v
    (((List.range f.queues.length).filter (fun q => s.mayRead v q)).flatMap (fun q => [.cmdNop v q, .cmdLaunch v q, .cmdHandle v q]))
      ++ ((List.range f.queues.length).filter (fun q => (s.qregs v q).handle.isSome)).map (.cmdHandle v)
      ++ (if f.mapCalls.isEmpty then [] else [.mapRequest v, .unmapRequest v, .protectRequest v])
      ++ (if f.catCalls.isEmpty then [] else [.catLoad v, .catPin v, .catUnpin v, .deaccession v]))

/-- A request for live evidence has slice firmware power up a gated partition or restore a descheduled one (R416). -/
def State.offerEvidence (s : State) : List Instr :=
  (s.curator.spdm.filter (fun x => match x.waiting with
    | some (some _, _, _) => true
    | some (none, _, _) => false
    | none => false)).flatMap (fun x =>
      if (s.part x.vf).state == 3 then [.partitionPowerUp x.vf]
      else if (s.part x.vf).state == 2 then (s.contexts.filter (fun c => c.id.part == x.vf)).map (fun c => .contextRestore c.id [])
      else [])

/-- Revocations in progress (R365, R366), slices whose watchdog asks for a reset (R404), partitions being removed (R433). -/
def State.offerCurator (s : State) : List Instr :=
  s.tenants.flatMap (fun n => n.revs.flatMap (fun v => [.colourMarking n.id v.colour, .revocationSweep n.id v.colour]))
    ++ ((List.range s.slices.length).filter (fun k => (s.slice k).watchdog)).map .sliceReset
    ++ ((List.range s.parts.length).filter (fun p => (s.part p).closing)).map .partitionRemove

/-- The nanoseconds from one granule of the patrol to the next, so that every one of a stack is read in 24 hours (R277). -/
def patrolPeriod : Nat := 86400000000000 / granulesPerStack

/-- What must come before time goes on: a thread held at its word for too long that leaves its train (R182, R189), a refresh whose row group's
window is over (R276), a granule of the patrol (R277), the halving of use counts (R371), a monitor sample whose 100 µs are over (R392), a start's
end (R428), a boot report (R430), a step of the clocks (R431). Some of it changes nothing after all. -/
def State.dueNow (s : State) : List Instr :=
  (s.threads.filter (fun t => match t.run with
    | .train (some _) => true
    | _ => false)).map (fun t => .lateResultPark t.id)
    ++ (List.range s.slices.length).flatMap (fun n =>
      let c := s.slice n
      (if c.decayed + 1000000000 ≤ s.time then [.useCountDecay n] else []) ++ (if c.patrolled + patrolPeriod ≤ s.time then [.patrolScrub n] else [])
        ++ ((c.rowGroups.filter (fun g => g.stamp + c.refreshWindow ≤ s.time)).map (fun g => .refreshDue n g.row))
        ++ if c.powered && c.sampled.getD 0 + 100000 ≤ s.time then [.monitorSample n] else [])
    ++ [.powerControlStep, .bootTimeout, .bootReasonReport]

/-- Everything the machine's units may do now, and perhaps some events whose time has not come: these change nothing. -/
def State.offers (s : State) : List Instr :=
  s.dueNow ++ s.hostWaits.map (·.op) ++ s.threads.flatMap Thread.offers ++ s.offerMemory ++ s.offerEngines ++ s.offerLaunches ++ s.offerFirmware
    ++ s.offerCurator ++ s.offerEvidence

end Sys2Proof.Machine
end

