-- ==== Sys2Proof/Machine/Turns.lean ====
section
/-!
DEFINITION. The machine's turn when no thread issues.
-/

namespace Sys2Proof.Machine

/-- What the machine may turn to next: the schedule's choice, or else one after another (the model's own: the spec
leaves the order of independent units open). -/
def State.schedulePick (s : State) : Nat × State :=
  match s.schedule with
  | k :: ks => (k, { s with schedule := ks })
  | [] => (s.turn, { s with turn := s.turn + 1 })

/-- An offered event does something now. -/
def State.moves (s : State) (i : Instr) : Bool :=
  match exec i s with
  | .next t => t != s
  | .fault _ => true
  | .refused _ => true

/-- What follows by itself from what has happened, in the same nanosecond: trains turn on or end (R41, R43), threads whose reasons
have cleared become eligible (R182), replays that had to wait are tried again (R185), threads that a fault ends leave (R50, R190),
spilled entries fill free places (R181), peer requests go on in their flows (R261), a context alone on a CU has all its weight slots
(R282), reads of debuggers are answered (R422). -/
def State.settled (s : State) : State :=
  let s := (s.sweepTrains.wakeMet.retryReplays.settleAll).drainFlows.widenAll.finishReads
  (s.plats.map (·.cu)).eraseDups.foldl State.settlePlats s

/-- What may happen next: what follows by itself comes first, then a train's next word, the forming of a train, an event of one of
the machine's units, and time. Time does not pass while a train may issue, a free slot has a candidate, or something is due, so that every
train goes on, and a thread is in a train, within the bound of R189. -/
def stepPick (s : State) : Host.Outcome State Fault Refusal :=
  if s.settled != s then .next s.settled
  else
    let trains := s.trains.filter s.trainReady
    let forms := s.offerTrains
    let evs := s.offers.filter s.moves
    let n := trains.length + forms.length + evs.length
    let all := if trains.isEmpty && forms.isEmpty && !s.dueNow.any s.moves then n + 1 else n
    let (k, s) := s.schedulePick
    match trains[k % all]? with
    | some r => .next (s.pickFrom r)
    | none => match (forms ++ evs)[k % all - trains.length]? with
      | some i => exec i s
      | none => .next s.tick

end Sys2Proof.Machine
end

