-- ==== Sys2Proof/Machine/Step.lean ====
section
/-!
DEFINITION. One step of the machine: an event of its surroundings that waits in the inbox; else the turn of the
issuing thread; else, as the schedule says, a train's next thread or an event of one of the machine's own
units; else time passes.
-/

namespace Sys2Proof.Machine

/-- ONE STEP. -/
def step (s : State) : Host.Outcome State Fault Refusal :=
  match s.inbox with
  | i :: is => exec i { s with inbox := is }
  | [] => match s.cur with
    | some t =>
      if t.issued then .next (s.rotate t)
      else match s.turn? t with
        | .run i s => exec i s
        | .done s => .next s
    | none => stepPick s

/-- The machine with a word placed where the next step fetches: it is word 1 of block 0 of a code object at global
address 0 of partition 0, mapped by tables in frame 0 onto frame 1; its thread is about to issue it, and no event
waits. A host's command queue loads a program through CMD_LAUNCH and LAUNCH_START; this stands for that. -/
def State.withFetchWord (s : State) (nbits w : Nat) : State :=
  let ctx : CtxId := { part := 0, id := 0 }
  let uid := s.nextLaunch
  let word := BitVec.ofNat 64 (w % 2 ^ nbits)
  let frame : Frame := { state := 1, scrub := false, lent := false, part := 0, seq := 0 }
  let s : State := { s with
    mem := memWriteN (memWriteN (memWriteN (memWriteN (memWriteN s.mem 0 (natBytes 8 0x1001)) 0x1000 (natBytes 8 0x2001))
      0x2000 (natBytes 8 0x3001)) 0x3000 (natBytes 8 (0x8000000000010003))) 0x10020 (natBytes 8 word.toNat)
    frames := kvPut (kvPut s.frames 0 { frame with state := 2 }) 1 frame }
  let s := s.modPart 0 (fun p => { p with state := 1, map := [0], root := 0, tenant := 0 })
  { s with
    inbox := [], cur := some (placedThread ctx uid), launches := placedLaunch ctx uid :: s.launches
    contexts := placedContext ctx :: s.contexts.filter (fun c => !(c.id = ctx)), nextLaunch := uid + 1
    groups := { launch := uid, num := 0, ctx := ctx, cu := 0, stage := 0, role := 3, threads := 1, slots := [0], regsPer := 512, obBase := 0
                obSize := 0, resvs := List.replicate 16 Resv.free, arrived := 0, bonus := 0 } :: s.groups
    teams := { launch := uid, num := 0, cluster := 0, place := [0], regions := [], arrivals := [], children := [], waits := [] } :: s.teams
    trains := { cu := 0, launch := uid, group := 0, blk := 0, off := 1, lanes := [0], todo := [0], done := [], elected := none
                since := 0, page := none, check := false, head := false, word := none, old := [], pos := [0], reqs := [], turned := false
                tried := [] } :: s.trains }

end Sys2Proof.Machine
end

