-- ==== Sys2Proof/Safety.lean ====
section
/-!
DEFINITION. What counts as a safe run, the form that a state's memories have, and the terms the claims are made
in: when a word takes its own effect, how its thread goes on, which registers and predicates it wrote.
-/

namespace Sys2Proof.Machine

/-! ## Runs and memories -/

/-- Every memory of a CU has the canonical form (R213, R281). -/
def Cu.memWf (c : Cu) : Bool :=
  Memory.wf c.sram && Memory.wf c.ob && c.wslots.all (fun w => Memory.wf w.bytes) && c.tiles.all (fun t => Memory.wf t.data)

/-- Every memory of the package has the canonical form: equal memories are equal data. -/
def State.memWf (s : State) : Bool := Memory.wf s.mem && s.cus.all Cu.memWf

/-- A run of `k` steps that comes to a next state at each. -/
def Completes (s : State) (k : Nat) : Prop := ∃ t, Host.Core.run Sys2Proof.core k s = .next t

/-- A safe run: however far it is followed, no step stops. A fault of a thread is no stop: it is recorded in the
thread, and the machine goes on (R78). -/
def Safe (s : State) : Prop := ∀ k, Completes s k

/-! ## A word takes its own effect -/

/-- Thread `t` issues the word of `i`, and nothing comes before its own effect: its guard is true and its operands are
defined and allocated (R73), it names no pending register and no logged access stops it (R94, R184), no result in
flight will write a register it names (R182), no peer write of it has been answered with an error (R380), and no upset is laid on a
checked lane (R48). -/
structure Ready (i : Instr) (s : State) (t : Thread) : Prop where
  cur : s.cur = some t
  guard : guardTrue t i.code = true
  operands : operandsOk t i.code = true
  free : blocked s t i.code = none
  flight : awaitsFlight s t i.code = false
  peer : t.peerFault = none
  sound : s.upsets.lane = false

/-- The thread's word is not its block's last (R72), and no STEP request let it go (R426). -/
def Thread.mid (t : Thread) : Bool := !t.atEnd && !t.steps

/-- A thread that goes on to the next word of its block (R72). -/
def Thread.stepped (t : Thread) : Thread :=
  { t with off := t.off + 1, issued := true, run := .train none, watchSkip := false, mark := none }

/-- The state in which the issuing thread has gone on as `t`: nothing but that thread differs from `s`. -/
def State.goesOn (s : State) (t : Thread) : State := { s with cur := some t.stepped }

/-! ## What a word wrote -/

/-- The registers of a result of one register or of a pair (R91). -/
def valRegs (wide : Bool) (n : Nat) : List Nat := if wide then [n, n + 1] else [n]

/-- The value of one register or of a pair. -/
def Thread.val (t : Thread) (wide : Bool) (n : Nat) : Nat := if wide then (t.pair n).toNat else (t.reg n).toNat

/-- `t'` is `t` with some of the registers `regs` written as data and nothing else: every other register is as it
was, and the tag of each quad they lie in is clear (R92). -/
structure Wrote (t t' : Thread) (regs : List Nat) : Prop where
  rest : t' = { t with regs := t'.regs, tags := t'.tags }
  count : t'.regs.length = t.regs.length
  others : ∀ n, n ∉ regs → t'.reg n = t.reg n
  tags : ∀ q, t'.tags.getD q false = (t.tags.getD q false && !regs.any (fun n => n / 4 == q))

/-- `t'` is `t` with predicate `p` written and nothing else; a write to p0 has no effect (R87). -/
structure WrotePred (t t' : Thread) (p : Nat) (b : Bool) : Prop where
  rest : t' = { t with preds := t'.preds }
  preds : ∀ q, q < 16 → t'.pred q = if q = p ∧ p ≠ 0 then b else t.pred q

/-- `t'` is `t` with the capability `c` written to the quad at `d` and nothing else: its 128 bits, and its tag where
the thread has a tag for that quad. -/
structure WroteQuad (t t' : Thread) (d : Nat) (c : Cap) : Prop where
  rest : t' = { t with regs := t'.regs, tags := t'.tags }
  count : t'.regs.length = t.regs.length
  others : ∀ n, (n < d ∨ d + 4 ≤ n) → t'.reg n = t.reg n
  tags : ∀ q, q ≠ d / 4 → t'.tags.getD q false = t.tags.getD q false
  quad : t'.quad d = { c with tag := c.tag && decide (d / 4 < t.tags.length) }

/-- The state after the issuing thread `t` takes an exception at its word, the word having no other effect (R5, R190). -/
def State.trapped (s : State) (t : Thread) (c : FClass) (addr : Word64) : State :=
  (s.deliverNow { t with issued := true, steps := false, watchSkip := false, mark := none } c addr t.blk t.off).reportStep t

end Sys2Proof.Machine
end

