-- ==== Sys2Proof/Certificates/Slice0/Obligations.lean ====
section
/-!
DEFINITION. The claims made of the machine, from the numbered rules of the spec, for the provers.
-/

open Sys2Proof Sys2Proof.Machine

/-! ## Encoding and the step -/

/-- 03 R55 to R77: decoding the word of a well-formed instruction gives that instruction, with every field at every
value its encoding admits. -/
def Obligations.DecodeOfEncode : Prop :=
  ∀ (i : Instr) (x : Word64), i.wf = true → encode i = some x → decode x = .instr i

/-- 03 R55 to R77: no bit of a word is dropped: a word that decodes to an instruction is the word of that
instruction. 03 R73 step 2, R75: a word is met as a block header exactly where its format is F and its op8 is 0. -/
def Obligations.EncodeOfDecode : Prop :=
  (∀ (x : Word64) (i : Instr), decode x = .instr i → encode i = some x ∧ i.selectOk = true)
  ∧ (∀ x : Word64, decode x = .header ↔ x.extractLsb' 62 2 = 0 ∧ x.extractLsb' 54 8 = 0)

/-- 03 R57, R63 to R65, R69, R75 to R77: words written out bit by bit from the encoding tables decode to what they
stand for. -/
def Obligations.WordsOfTheTables : Prop :=
  decode (0b00_00000001_0000_0_000001010_0000010100_0000011110_0000000000_00_000_00000 : BitVec 64)
    = .instr (.add { guard := { pred := 0, neg := false }, d := 10, a := 20, b := 30, c := 0, retain := 0, mod := 0 })
  ∧ decode (0b10_0000001_0011_1_000000111_000001000_11111111111111111111111111111111 : BitVec 64)
    = .instr (.addi { guard := { pred := 3, neg := true }, d := 7, a := 8, imm := 0xFFFFFFFF })
  ∧ decode (0b11_0001000000_0000_0_000000101_000001000_000001100_000000000_00000010010 : BitVec 64)
    = .instr (.ld { guard := { pred := 0, neg := false }, d := 5, a := 8, b := 12, c := 0, mod := 0b10010 })
  ∧ decode (0b01_000001_00_00000011_000000100_000000_010000_01_00000101_000000000_111111 : BitVec 64)
    = .instr (.pairWord { op := .add, guard := 0, d := 3, s := 4, imm := 0 } { op := .addi, guard := 1, d := 5, s := 0, imm := 63 })
  ∧ decode (0b11_0110000101_0000_0_000000100_000000100_000000000_000000000_00000000010 : BitVec 64)
    = .instr (.syscAlloc { guard := { pred := 0, neg := false }, d := 4, a := 4, b := 0, c := 0, mod := 2 })

/-- 03 R73, 07 R176: A STEP RUNS THE DECODED INSTRUCTION. With no event waiting, the issuing thread's word, fetched by
its train or fetched now, is decoded and the step is what the decoded instruction does; when it is fetched now, the
train keeps the word and the performance counters count it. -/
def Obligations.StepRunsTheDecodedWord : Prop :=
  (∀ (s : State) (t : Thread) (r : Train) (l : Launch) (x : Word64) (i : Instr),
    s.inbox = [] → s.cur = some t → t.issued = false → s.trains.find? (inTrain t) = some r → s.launch t.id.launch = some l →
    r.check = false → r.word = some x → decode x = .instr i → step s = exec i s)
  ∧ (∀ (s s1 : State) (t : Thread) (r : Train) (l : Launch) (v : Nat) (i : Instr),
    s.inbox = [] → s.cur = some t → t.issued = false → s.trains.find? (inTrain t) = some r → s.launch t.id.launch = some l →
    r.check = false → r.word = none → s.fetchWord l r.cu (t.start + r.off.toNat) = .got v s1 →
    decode (BitVec.ofNat 64 v) = .instr i →
    step s = exec i ((s1.modTrain t (fun r => { r with word := some (BitVec.ofNat 64 v) })).countWord t r i.code))

/-- The model's own convention (log entry 2): an event that waits in the inbox is the next step, and it is taken off; a thread
that has issued gives its place to the train's next thread. -/
def Obligations.StepTakesTheInbox : Prop :=
  (∀ (s : State) (i : Instr) (is : List Instr), s.inbox = i :: is → step s = exec i { s with inbox := is })
  ∧ (∀ (s : State) (t : Thread), s.inbox = [] → s.cur = some t → t.issued = true → step s = .next (s.rotate t))

/-- 04 R78: NO STEP STOPS. Faults are taken by the thread and the machine goes on: from every state in which no word
waits in the inbox where an event belongs, a step answers a next state. -/
def Obligations.NoStepStops : Prop :=
  ∀ s : State, (∀ i ∈ s.inbox.head?, i.code = .event) → ∃ s', step s = .next s'

/-- THE INVARIANT: every step keeps the canonical form of HBM's contents, whatever it does to them. -/
def Obligations.StepKeepsMemoryForm : Prop :=
  ∀ s s' : State, Memory.wf s.mem = true → step s = .next s' → Memory.wf s'.mem = true

/-- What reset leaves (00, 09 R213, 12 R281, 14 R333, R357, 16 R382, 19 R429): memory with nothing listed in its
canonical form, no thread, launch or context, every partition unused, every virtual function disabled with its queue sizes
at 4, every tile free and zero, every weight slot invalid, the retained cold-start values, the time count at 0. -/
def Obligations.ResetState : Prop :=
  State.reset.memWf = true ∧ State.reset.mem = [] ∧ State.reset.cur = none ∧ State.reset.threads = []
  ∧ State.reset.launches = [] ∧ State.reset.contexts = [] ∧ State.reset.time = 0
  ∧ (∀ p ∈ State.reset.parts, p.state = 0) ∧ (∀ v ∈ State.reset.vfs, v.enabled = false ∧ ∀ q ∈ v.queues, q.qsize = 4 ∧ q.run = false)
  ∧ (∀ c ∈ State.reset.cus, (∀ x ∈ c.tiles, x.owner = none ∧ x.flags = 0 ∧ x.data = []) ∧ ∀ x ∈ c.wslots, x.valid = false)
  ∧ (∀ f, (State.reset.frame f).state = 0 ∧ (State.reset.frame f).scrub = true)
  ∧ State.reset.curator.powerLimit = 2400 ∧ State.reset.curator.fails = 0

/-! ## Every word: its guard, its operands, its exceptions -/

/-- 03 R73: a word whose guard is false has no effect but that its thread goes on to the next word; 07 R72: from its block's last word it
takes ILLEGAL_TARGET; 18 R426: a thread that STEP let go parks for debug again at the next word. -/
def Obligations.FalseGuardHasNoEffect : Prop :=
  ∀ (i : Instr) (s : State) (t : Thread), i.code ≠ .event → s.cur = some t → guardTrue t i.code = false →
    (t.mid = true → exec i s = .next (s.goesOn t))
    ∧ (t.atEnd = true → exec i s = .next (s.trapped t .illegalTarget 0))
    ∧ (t.atEnd = false → t.steps = true → ∃ (s' : State) (t' : Thread), exec i s = .next s' ∧ s'.cur = some t' ∧ s'.mem = s.mem ∧ t'.off = t.off + 1
      ∧ t'.run = .parked (.debug .breakpoint 0) (s.now t.cu) ∧ t'.regs = t.regs ∧ t'.tags = t.tags ∧ t'.preds = t.preds)

/-- 03 R73 step 4, 07 R190, 04 R95: a word with an undefined or unallocated operand is ILLEGAL_OPERAND: its thread saves the
class, 0 and its place, enters the handler mode, and arrives at the handler block; no register, predicate or byte of memory
changes. -/
def Obligations.BadOperandTrap : Prop :=
  ∀ (i : Instr) (s : State) (t : Thread), i.code ≠ .event → s.cur = some t → guardTrue t i.code = true →
    operandsOk t i.code = false → s.upsets.lane = false → s.faultEnds t = false → t.steps = false →
    ∃ (s' : State) (t' : Thread), exec i s = .next s' ∧ s'.cur = some t' ∧ t'.fcode = 0x02 ∧ t'.faddr = 0 ∧ t'.fblk = pcBits t.blk t.off
      ∧ t'.inHandler = true ∧ t'.blk = s.handlerOf t.id.launch ∧ t'.off = 1 ∧ t'.run = .platform
      ∧ t'.regs = t.regs ∧ t'.tags = t.tags ∧ t'.preds = t.preds ∧ t'.fps = t.fps ∧ s'.mem = s.mem ∧ s'.cus = s.cus

/-- 07 R190: TAKING AN EXCEPTION. A thread outside its handler, of a launch with a handler block, saves the class's code, the
address and the place of the fault, enters the handler mode and waits at the handler block's platform; a thread in its
handler, or of a launch without one, is ended with the class's status. No byte of memory changes. 07 R190, 02 R50: the classes that end a thread give it the statuses 0xF0 to 0xF6 by the high digit of their code. -/
def Obligations.TakingAnException : Prop :=
  (∀ (s : State) (t : Thread) (c : FClass) (addr : Word64) (blk : BitVec 16) (off : BitVec 10), s.cur = some t →
    (s.deliver t c addr blk off).mem = s.mem
    ∧ (s.faultEnds t = false → ∃ t', (s.deliver t c addr blk off).cur = some t' ∧ t'.fcode = c.code ∧ t'.faddr = addr
        ∧ t'.fblk = 0#6 ++ off ++ blk ∧ t'.inHandler = true ∧ t'.blk = s.handlerOf t.id.launch ∧ t'.off = 1
        ∧ t'.run = .platform ∧ t'.regs = t.regs ∧ t'.tags = t.tags ∧ t'.preds = t.preds ∧ t'.fps = t.fps ∧ t'.log = t.log
        ∧ (s.deliver t c addr blk off).plats.any (fun p => p.cu == t.cu && p.launch == t.id.launch && p.group == t.id.group
            && p.blk == s.handlerOf t.id.launch && (t.id.num < 1024 → p.mask.getLsbD t.id.num)) = true)
    ∧ (s.faultEnds t = true → (s.deliver t c addr blk off).cur = some { t with run := .exiting (0xF0 ||| (c.code >>> 4)) }))
  ∧ (∀ c : FClass, c.exitStatus.toNat = 0xF0 + c.code.toNat / 16)

/-! ## Integer words (04) -/

/-- The per-lane results of R101 and R104, on unbounded integers: x, y and z are the lanes of a, b and c. -/
def laneTable (w : FWord) : List (Instr × (Int → Int → Int → Int)) :=
  let n := laneWidth w.ty
  let sat := fun (x : Int) => if w.lo = 1 then satS x n else x
  let clamp := fun (x : Int) => if laneSigned w.ty then satS x n else satU x n
  [ (.add w, fun x y _ => x + y), (.sub w, fun x y _ => x - y), (.mul w, fun x y _ => x * y),
    (.mulhi w, fun x y _ => x * y / 2 ^ n), (.mad w, fun x y z => x * y + z), (.madhi w, fun x y z => (x * y + z) / 2 ^ n),
    (.min w, fun x y _ => if x < y then x else y), (.max w, fun x y _ => if y < x then x else y),
    (.abs w, fun x _ _ => sat (x.natAbs : Int)), (.neg w, fun x _ _ => sat (-x)), (.sadd w, fun x y _ => clamp (x + y)),
    (.ssub w, fun x y _ => clamp (x - y)), (.adiff w, fun x y _ => ((x - y).natAbs : Int)),
    (.scadd w, fun x y _ => x + y * 2 ^ w.lo) ]

/-- 04 R97, R101, R104: each lane of the result is the table's value of the same lanes of the operands, modulo 2 to the lane
width; nothing else changes. -/
def Obligations.LaneArithmetic : Prop :=
  ∀ (w : FWord) (s : State) (t : Thread) (i : Instr) (f : Int → Int → Int → Int), (i, f) ∈ laneTable w → Ready i s t →
    t.mid = true → ∃ t', exec i s = .next (s.goesOn t') ∧ Wrote t t' (valRegs (intWide w.ty) w.d.toNat)
      ∧ ∀ l, l < laneCount w.ty → (laneBits w.ty (t'.val (intWide w.ty) w.d.toNat) l : Int)
        = f (laneVal w.ty (srcInt s t w.ty w.a) l) (laneVal w.ty (srcInt s t w.ty w.b) l) (laneVal w.ty (srcInt s t w.ty w.c) l)
          % 2 ^ laneWidth w.ty

/-- The shifts and rotations of R107, on a lane's bits. -/
def shiftTable (w : FWord) : List (Instr × ((n : Nat) → BitVec n → Nat → BitVec n)) :=
  [ (.shl w, fun _ x k => x <<< k), (.shr w, fun _ x k => x >>> k), (.sar w, fun _ x k => x.sshiftRight k),
    (.rol w, fun _ x k => x.rotateLeft k), (.ror w, fun _ x k => x.rotateRight k) ]

/-- The results of R108: `r` is the result of a lane of `n` bits whose value is `x`. -/
def countTable (w : FWord) : List (Instr × (Nat → Nat → Nat → Prop)) :=
  [ (.popc w, fun n x r => r = ((List.range n).filter (fun j => x.testBit j)).length),
    (.clz w, fun n x r => r ≤ n ∧ (∀ j, n - r ≤ j → j < n → x.testBit j = false) ∧ (r < n → x.testBit (n - 1 - r) = true)),
    (.ctz w, fun n x r => r ≤ n ∧ (∀ j, j < r → x.testBit j = false) ∧ (r < n → x.testBit r = true)),
    (.brev w, fun n x r => r < 2 ^ n ∧ ∀ j, j < n → r.testBit j = x.testBit (n - 1 - j)) ]

/-- 04 R107: each lane is shifted or rotated by the same lane of b modulo the width; in a 64-bit type by the 32-bit b modulo
64. 04 R108: the counts of a lane's bits, and its bits in reverse order. -/
def Obligations.ShiftsAndBitCounts : Prop :=
  (∀ (w : FWord) (s : State) (t : Thread) (i : Instr) (f : (n : Nat) → BitVec n → Nat → BitVec n), (i, f) ∈ shiftTable w →
    Ready i s t → t.mid = true → ∃ t', exec i s = .next (s.goesOn t') ∧ Wrote t t' (valRegs (intWide w.ty) w.d.toNat)
      ∧ ∀ l, l < laneCount w.ty → laneBits w.ty (t'.val (intWide w.ty) w.d.toNat) l
        = (f (laneWidth w.ty) (BitVec.ofNat _ (laneBits w.ty (srcInt s t w.ty w.a) l))
            (if intWide w.ty then src32 s t w.b % 64 else laneBits w.ty (src32 s t w.b) l % laneWidth w.ty)).toNat)
  ∧ (∀ (w : FWord) (s : State) (t : Thread) (i : Instr) (f : Nat → Nat → Nat → Prop), (i, f) ∈ countTable w → Ready i s t →
    t.mid = true → ∃ t', exec i s = .next (s.goesOn t') ∧ Wrote t t' (valRegs (intWide w.ty) w.d.toNat)
      ∧ ∀ l, l < laneCount w.ty →
        f (laneWidth w.ty) (laneBits w.ty (srcInt s t w.ty w.a) l) (laneBits w.ty (t'.val (intWide w.ty) w.d.toNat) l))

/-- The logical operations of R106, bit by bit. -/
def logicTable (w : FWord) : List (Instr × (Bool → Bool → Bool)) :=
  [ (.and w, fun x y => x && y), (.or w, fun x y => x || y), (.xor w, fun x y => xor x y), (.andn w, fun x y => x && !y),
    (.orn w, fun x y => x || !y), (.not w, fun x _ => !x) ]

/-- 04 R106: the logical words, bitwise on the whole operand. 04 R112: `mov` writes a's value; `sel` a's where its predicate, complemented by c[4], holds, else b's. -/
def Obligations.LogicMoveSelect : Prop :=
  (∀ (w : FWord) (s : State) (t : Thread) (i : Instr) (f : Bool → Bool → Bool), (i, f) ∈ logicTable w → Ready i s t →
    t.mid = true → ∃ t', exec i s = .next (s.goesOn t') ∧ Wrote t t' (valRegs (intWide w.ty) w.d.toNat)
      ∧ ∀ j, j < (if intWide w.ty then 64 else 32) → (t'.val (intWide w.ty) w.d.toNat).testBit j
        = f ((srcInt s t w.ty w.a).testBit j) ((srcInt s t w.ty w.b).testBit j))
  ∧ ((∀ (w : FWord) (s : State) (t : Thread), Ready (.mov w) s t → t.mid = true →
    ∃ t', exec (.mov w) s = .next (s.goesOn t') ∧ Wrote t t' (valRegs (intWide w.ty) w.d.toNat)
      ∧ t'.val (intWide w.ty) w.d.toNat = srcInt s t w.ty w.a)
  ∧ (∀ (w : FWord) (s : State) (t : Thread), Ready (.sel w) s t → t.mid = true →
    ∃ t', exec (.sel w) s = .next (s.goesOn t') ∧ Wrote t t' (valRegs (intWide w.ty) w.d.toNat)
      ∧ t'.val (intWide w.ty) w.d.toNat
        = if t.pred (w.c.toNat % 16) = !w.c.getLsbD 4 then srcInt s t w.ty w.a else srcInt s t w.ty w.b))

/-- 04 R105: `addc` and `subb` add or subtract modulo 2^w with the carry-in of p[P], and write the carry or borrow out to
p[P]. -/
def Obligations.CarryChains : Prop :=
  ∀ (w : FWord) (s : State) (t : Thread), t.mid = true →
    let n := laneWidth w.ty
    let x := srcInt s t w.ty w.a
    let y := srcInt s t w.ty w.b
    let p := w.lo % 16
    let ci := if w.lo / 16 = 1 ∧ t.pred p = true then 1 else 0
    (Ready (.addc w) s t → ∃ t1 t2, exec (.addc w) s = .next (s.goesOn t2) ∧ Wrote t t1 (valRegs (intWide w.ty) w.d.toNat)
      ∧ WrotePred t1 t2 p (decide (2 ^ n ≤ x + y + ci)) ∧ t1.val (intWide w.ty) w.d.toNat = (x + y + ci) % 2 ^ n)
    ∧ (Ready (.subb w) s t → ∃ t1 t2, exec (.subb w) s = .next (s.goesOn t2) ∧ Wrote t t1 (valRegs (intWide w.ty) w.d.toNat)
      ∧ WrotePred t1 t2 p (decide (x < y + ci)) ∧ t1.val (intWide w.ty) w.d.toNat = (2 ^ n + x - y - ci) % 2 ^ n)

/-- 04 R102, R103: `mulw` writes the full product of two 32-bit operands; `dot4` adds the four products of bytes to c, and
saturates with .sat. -/
def Obligations.WideProducts : Prop :=
  (∀ (w : FWord) (s : State) (t : Thread), Ready (.mulw w) s t → t.mid = true →
    ∃ t', exec (.mulw w) s = .next (s.goesOn t') ∧ Wrote t t' [w.d.toNat, w.d.toNat + 1]
      ∧ (t'.pair w.d.toNat).toInt % 2 ^ 64 = (laneVal w.ty (src32 s t w.a) 0 * laneVal w.ty (src32 s t w.b) 0) % 2 ^ 64)
  ∧ (∀ (w : FWord) (s : State) (t : Thread), Ready (.dot4 w) s t → t.mid = true →
    let x := fun l => laneVal w.ty (src32 s t w.a) l * laneVal w.ty (src32 s t w.b) l
    let c : Int := if laneSigned w.ty then (BitVec.ofNat 32 (src32 s t w.c)).toInt else (src32 s t w.c : Int)
    let sum := c + x 0 + x 1 + x 2 + x 3
    ∃ t', exec (.dot4 w) s = .next (s.goesOn t') ∧ Wrote t t' [w.d.toNat]
      ∧ t'.reg w.d.toNat = BitVec.ofInt 32 (if w.lo = 1 then (if laneSigned w.ty then satS sum 32 else satU sum 32) else sum))

/-- 04 R109: bit j of `bfx` is bit pos + j of a below the field's length, above it 0 or the field's top bit; bit j of `bfi` is
a's bit j - pos inside the field and b's outside. 04 R110, R111: `bperm` selects each byte, or its sign, from the eight bytes of b:a; bit j of the carry-less product is the
parity of the pairs of bits of a and b whose places sum to j: `clmul` writes bits 0 to 63, `clmulhi` 64 to 127. -/
def Obligations.FieldsPermutesProducts : Prop :=
  ((∀ (w : FWord) (s : State) (t : Thread), Ready (.bfx w) s t → t.mid = true →
    let n := laneWidth w.ty
    let a := srcInt s t w.ty w.a
    let pos := src32 s t w.b % 256
    let len := min (src32 s t w.b / 256 % 256) (n - pos)
    ∃ t', exec (.bfx w) s = .next (s.goesOn t') ∧ Wrote t t' (valRegs (intWide w.ty) w.d.toNat)
      ∧ ∀ j, j < n → (t'.val (intWide w.ty) w.d.toNat).testBit j
        = if len = 0 then false else if j < len then a.testBit (pos + j) else laneSigned w.ty && a.testBit (pos + len - 1))
  ∧ (∀ (w : FWord) (s : State) (t : Thread), Ready (.bfi w) s t → t.mid = true →
    let n := laneWidth w.ty
    let pos := src32 s t w.c % 256
    let len := min (src32 s t w.c / 256 % 256) (n - pos)
    ∃ t', exec (.bfi w) s = .next (s.goesOn t') ∧ Wrote t t' (valRegs (intWide w.ty) w.d.toNat)
      ∧ ∀ j, j < n → (t'.val (intWide w.ty) w.d.toNat).testBit j
        = if pos ≤ j ∧ j < pos + len then (srcInt s t w.ty w.a).testBit (j - pos) else (srcInt s t w.ty w.b).testBit j))
  ∧ ((∀ (w : FWord) (s : State) (t : Thread), Ready (.bperm w) s t → t.mid = true →
    let byte := fun (k : Nat) => if k < 4 then src32 s t w.a / 256 ^ k % 256 else src32 s t w.b / 256 ^ (k - 4) % 256
    ∃ t', exec (.bperm w) s = .next (s.goesOn t') ∧ Wrote t t' [w.d.toNat]
      ∧ ∀ k, k < 4 → (t'.reg w.d.toNat).toNat / 256 ^ k % 256
        = let sel := src32 s t w.c / 16 ^ k % 16
          if sel < 8 then byte sel else if 128 ≤ byte (sel - 8) then 255 else 0)
  ∧ (∀ (w : FWord) (s : State) (t : Thread) (i : Instr) (base : Nat), (i, base) ∈ [(Instr.clmul w, 0), (Instr.clmulhi w, 64)] →
    Ready i s t → t.mid = true → ∃ t', exec i s = .next (s.goesOn t') ∧ Wrote t t' [w.d.toNat, w.d.toNat + 1]
      ∧ ∀ j, j < 64 → (t'.pair w.d.toNat).getLsbD j
        = decide (((List.range 64).filter (fun k => (srcInt s t w.ty w.b).testBit k && decide (k ≤ base + j)
            && (srcInt s t w.ty w.a).testBit (base + j - k))).length % 2 = 1)))

/-- 04 R113, R114, R116: what `cmp`, `cmpi`, `pset`, `p2g` and `g2p` write: a predicate from a comparison and a combining
predicate, from a two-input table, the predicates as a mask, and predicates from a mask. -/
def Obligations.PredicateWords : Prop :=
  (∀ (w : FWord) (s : State) (t : Thread), Ready (.cmp w) s t → t.mid = true →
    let x := laneVal w.ty (srcInt s t w.ty w.a) 0
    let y := laneVal w.ty (srcInt s t w.ty w.b) 0
    let r := [decide (x = y), decide (x ≠ y), decide (x < y), decide (x ≥ y), decide (x ≤ y), decide (x > y)].getD (w.lo / 4) false
    let q := t.pred (w.c.toNat % 16)
    ∃ t', exec (.cmp w) s = .next (s.goesOn t')
      ∧ WrotePred t t' w.d.toNat (if w.lo % 4 = 0 then r else if w.lo % 4 = 1 then r && q else r || q))
  ∧ (∀ (w : IWord) (s : State) (t : Thread), Ready (.cmpi w) s t → t.mid = true →
    let x := t.reg w.a.toNat
    let r := [decide (x = w.imm), decide (x ≠ w.imm), decide (x.toInt < w.imm.toInt), decide (x.toInt ≥ w.imm.toInt),
      decide (x.toInt ≤ w.imm.toInt), decide (x.toInt > w.imm.toInt), decide (x.toNat < w.imm.toNat),
      decide (x.toNat ≥ w.imm.toNat)].getD (w.d.toNat / 64) false
    ∃ t', exec (.cmpi w) s = .next (s.goesOn t') ∧ WrotePred t t' (w.d.toNat % 16) r)
  ∧ (∀ (w : FWord) (s : State) (t : Thread), Ready (.pset w) s t → t.mid = true →
    ∃ t', exec (.pset w) s = .next (s.goesOn t') ∧ WrotePred t t' w.d.toNat
      (w.mod.getLsbD (2 * (t.pred w.a.toNat).toNat + (t.pred w.b.toNat).toNat)))
  ∧ (∀ (w : FWord) (s : State) (t : Thread), Ready (.p2g w) s t → t.mid = true →
    ∃ t', exec (.p2g w) s = .next (s.goesOn t') ∧ Wrote t t' [w.d.toNat]
      ∧ ∀ j, j < 32 → (t'.reg w.d.toNat).getLsbD j = (decide (j < 16) && t.pred j))
  ∧ (∀ (w : FWord) (s : State) (t : Thread), Ready (.g2p w) s t → t.mid = true →
    ∃ t', exec (.g2p w) s = .next (s.goesOn t') ∧ t' = { t with preds := t'.preds }
      ∧ ∀ q, q < 16 → t'.pred q
        = if q ≠ 0 ∧ (src32 s t w.b).testBit q = true then (src32 s t w.a).testBit q else t.pred q)

/-- The 32-bit results of R115 and R147 from g[a] and the immediate. -/
def immTable (w : IWord) : List (Instr × (Word → Word → Word)) :=
  [ (.addi w, fun x y => x + y), (.muli w, fun x y => x * y), (.andi w, fun x y => x &&& y), (.ori w, fun x y => x ||| y),
    (.xori w, fun x y => x ^^^ y), (.movi w, fun _ y => y), (.movhi w, fun x y => y.extractLsb' 0 16 ++ x.extractLsb' 0 16),
    (.mini w, fun x y => if x.toInt < y.toInt then x else y), (.maxi w, fun x y => if x.toInt < y.toInt then y else x),
    (.shli w, fun x y => x <<< y.toNat), (.shri w, fun x y => x >>> y.toNat), (.sari w, fun x y => x.sshiftRight y.toNat),
    (.fmovi w, fun _ y => y) ]

/-! ## Floating-point words (05) -/

/-- The value of a finite datum; 0 for the others. -/
def Sys2Proof.Machine.FVal.rat : FVal → ℚ
  | .fin n m e => (if n then -1 else 1) * (m : ℚ) * (2 : ℚ) ^ e
  | .inf _ => 0
  | .nan _ => 0

/-- The order of two data that are no NaN (R137): infinities beyond every finite value, zeros equal. -/
def Sys2Proof.Machine.FVal.order : FVal → FVal → Ordering
  | .inf a, .inf b => if a = b then .eq else if a then .lt else .gt
  | .inf a, _ => if a then .lt else .gt
  | _, .inf b => if b then .gt else .lt
  | x, y => if x.rat < y.rat then .lt else if x.rat = y.rat then .eq else .gt

/-- A number rounded to an integer under each rounding mode (R124). -/
def roundRat (md : Rnd) (v : ℚ) : ℤ :=
  match md with
  | .rz => if v < 0 then ⌈v⌉ else ⌊v⌋
  | .rp => ⌈v⌉
  | .rm => ⌊v⌋
  | .rn => if v - ⌊v⌋ < 1 / 2 then ⌊v⌋ else if 1 / 2 < v - ⌊v⌋ then ⌊v⌋ + 1 else if ⌊v⌋ % 2 = 0 then ⌊v⌋ else ⌊v⌋ + 1

/-- The integer `n` is the real number `v` rounded in a mode: toward zero, up, down, or to nearest with ties to even (R124). -/
def RoundsTo (md : Rnd) (v : ℝ) (n : ℤ) : Prop :=
  match md with
  | .rz => |(n : ℝ)| ≤ |v| ∧ |v| < |(n : ℝ)| + 1 ∧ 0 ≤ n * v
  | .rp => v ≤ n ∧ n < v + 1
  | .rm => (n : ℝ) ≤ v ∧ v < n + 1
  | .rn => |v - n| ≤ 1 / 2 ∧ (|v - n| = 1 / 2 → n % 2 = 0)

/-- ONE ROUNDING (R124, R125): `r` is the nonzero real number `v` rounded once into a format, with its flags. `e` is the binary exponent of
`v`; `wide` is `v` rounded to the format's precision as though the exponent range were unbounded, and `y` with the spacing that subnormals
have below the smallest normal. Beyond the largest finite value the result is the table's and sets OF and NX; else it is the datum `y`,
NX where that differs from `v`, and UF where `v` is also tiny. -/
def RoundedOnce (f : Fmt) (md : Rnd) (v : ℝ) (r : FRes) : Prop :=
  ∃ e j k : ℤ, (2 : ℝ) ^ e ≤ |v| ∧ |v| < (2 : ℝ) ^ (e + 1) ∧
    let q := max e (1 - (f.bias : ℤ)) - ((f.prec : ℤ) - 1)
    let wide := (j : ℝ) * 2 ^ (e - ((f.prec : ℤ) - 1))
    let y := (k : ℝ) * 2 ^ q
    RoundsTo md (v / 2 ^ (e - ((f.prec : ℤ) - 1))) j ∧ RoundsTo md (v / 2 ^ q) k
    ∧ ((2 ^ f.prec - 1) * (2 : ℝ) ^ ((f.bias : ℤ) - ((f.prec : ℤ) - 1)) < |wide| →
        r.flags = flagOF ||| flagNX
        ∧ (0 < v → r.bits = if md = .rz ∨ md = .rm then f.infinity false - 1 else f.infinity false)
        ∧ (v < 0 → r.bits = if md = .rz ∨ md = .rp then f.infinity true - 1 else f.infinity true))
    ∧ (|wide| ≤ (2 ^ f.prec - 1) * (2 : ℝ) ^ ((f.bias : ℤ) - ((f.prec : ℤ) - 1)) →
        r.bits < 2 ^ f.width
        ∧ (∃ (n : Bool) (m : Nat) (x : ℤ), f.read r.bits = .fin n m x ∧ (n = true ↔ v < 0) ∧ (((FVal.fin n m x).rat : ℚ) : ℝ) = y)
        ∧ (y = v → r.flags = 0)
        ∧ (y ≠ v → r.flags = if |wide| < (2 : ℝ) ^ (1 - (f.bias : ℤ)) then flagUF ||| flagNX else flagNX))

/-- The canonical NaN, with NV where one of the operands is signalling (R126). -/
def quietNan (f : Fmt) (l : List FVal) (r : FRes) : Prop := r = { bits := f.nan, flags := if l.any FVal.isSnan then flagNV else 0 }

/-- The canonical NaN of an invalid operation (R127). -/
def invalid (f : Fmt) (r : FRes) : Prop := r = { bits := f.nan, flags := flagNV }

/-- x + y, rounded once (R124, R126, R127, R133). -/
def SumOf (f : Fmt) (md : Rnd) (x y : FVal) (r : FRes) : Prop :=
  match x, y with
  | .nan _, _ => quietNan f [x, y] r
  | _, .nan _ => quietNan f [x, y] r
  | .inf a, .inf b => if a = b then r = { bits := f.infinity a, flags := 0 } else invalid f r
  | .inf a, .fin _ _ _ => r = { bits := f.infinity a, flags := 0 }
  | .fin _ _ _, .inf b => r = { bits := f.infinity b, flags := 0 }
  | .fin a _ _, .fin b _ _ =>
    if x.rat + y.rat = 0 then r = { bits := f.zero (if a = b then a else decide (md = .rm)), flags := 0 }
    else RoundedOnce f md ((x.rat + y.rat : ℚ) : ℝ) r

/-- x × y, rounded once. -/
def ProductOf (f : Fmt) (md : Rnd) (x y : FVal) (r : FRes) : Prop :=
  match x, y with
  | .nan _, _ => quietNan f [x, y] r
  | _, .nan _ => quietNan f [x, y] r
  | .inf a, .inf b => r = { bits := f.infinity (a != b), flags := 0 }
  | .inf a, .fin b m _ => if m = 0 then invalid f r else r = { bits := f.infinity (a != b), flags := 0 }
  | .fin a m _, .inf b => if m = 0 then invalid f r else r = { bits := f.infinity (a != b), flags := 0 }
  | .fin a _ _, .fin b _ _ =>
    if x.rat * y.rat = 0 then r = { bits := f.zero (a != b), flags := 0 } else RoundedOnce f md ((x.rat * y.rat : ℚ) : ℝ) r

/-- Zero times an infinity, which is invalid whatever is added (R127). -/
def zeroTimesInf : FVal → FVal → Bool
  | .inf _, .fin _ m _ => decide (m = 0)
  | .fin _ m _, .inf _ => decide (m = 0)
  | .inf _, .inf _ => false
  | .fin _ _ _, .fin _ _ _ => false
  | .nan _, _ => false
  | _, .nan _ => false

/-- A datum's sign. -/
def Sys2Proof.Machine.FVal.sign : FVal → Bool
  | .fin n _ _ => n
  | .inf n => n
  | .nan _ => false

/-- Whether a datum is an infinity. -/
def Sys2Proof.Machine.FVal.isInf : FVal → Bool
  | .inf _ => true
  | .fin _ _ _ => false
  | .nan _ => false

/-- The infinities of a list of products and addends, by sign: a product's is its factors' signs'. -/
def infSign (l : List (FVal × FVal)) (s : Bool) : Bool := l.any (fun p => (p.1.isInf || p.2.isInf) && (p.1.sign != p.2.sign) == s)

/-- The sum of products, exact and then rounded once (R133, R134): a zero times an infinity and infinities of both signs are invalid; with
`early`, the latter come before a NaN. A zero sum of terms of one sign has that sign, else the mode's. -/
def SumOfProducts (f : Fmt) (md : Rnd) (early : Bool) (l : List (FVal × FVal)) (r : FRes) : Prop :=
  let v : ℚ := (l.map (fun p => p.1.rat * p.2.rat)).sum
  let nan := l.any (fun p => p.1.isNan || p.2.isNan)
  let mixed := (l.filter (fun p => !p.1.isNan && !p.2.isNan)).any (fun p => infSign [p] true)
    && (l.filter (fun p => !p.1.isNan && !p.2.isNan)).any (fun p => infSign [p] false)
  if l.any (fun p => zeroTimesInf p.1 p.2) = true ∨ (mixed = true ∧ (early = true ∨ nan = false)) then invalid f r
  else if nan = true then quietNan f (l.flatMap (fun p => [p.1, p.2])) r
  else if infSign l true = true then r = { bits := f.infinity true, flags := 0 }
  else if infSign l false = true then r = { bits := f.infinity false, flags := 0 }
  else if v = 0 then r = { bits := f.zero (if l.all (fun p => p.1.sign != p.2.sign) then true else if l.all (fun p => p.1.sign == p.2.sign) then false
    else decide (md = .rm)), flags := 0 }
  else RoundedOnce f md (v : ℝ) r

/-- 1, as a datum. -/
def Sys2Proof.Machine.FVal.one : FVal := .fin false 1 0

/-- x / y, rounded once (R127, R133). -/
def QuotientOf (f : Fmt) (md : Rnd) (x y : FVal) (r : FRes) : Prop :=
  match x, y with
  | .nan _, _ => quietNan f [x, y] r
  | _, .nan _ => quietNan f [x, y] r
  | .inf _, .inf _ => invalid f r
  | .inf a, .fin b _ _ => r = { bits := f.infinity (a != b), flags := 0 }
  | .fin a _ _, .inf b => r = { bits := f.zero (a != b), flags := 0 }
  | .fin a _ _, .fin b _ _ =>
    if y.rat = 0 then (if x.rat = 0 then invalid f r else r = { bits := f.infinity (a != b), flags := flagDZ })
    else if x.rat = 0 then r = { bits := f.zero (a != b), flags := 0 }
    else RoundedOnce f md ((x.rat / y.rat : ℚ) : ℝ) r

/-- sqrt x, rounded once (R127, R133). -/
def RootOf (f : Fmt) (md : Rnd) (x : FVal) (r : FRes) : Prop :=
  match x with
  | .nan _ => quietNan f [x] r
  | .inf n => if n then invalid f r else r = { bits := f.infinity false, flags := 0 }
  | .fin n m _ => if m = 0 then r = { bits := f.zero n, flags := 0 } else if n then invalid f r else RoundedOnce f md (Real.sqrt (x.rat : ℝ)) r

/-- The smaller or larger of two patterns, −0 below +0; a NaN gives way to a number (R135). -/
def ExtremeOf (f : Fmt) (larger : Bool) (x y : Nat) (r : FRes) : Prop :=
  let a := f.read x
  let b := f.read y
  let below := a.order b = .lt ∨ (a.order b = .eq ∧ (a.sign = true ∨ b.sign = false))
  r.flags = (if a.isSnan || b.isSnan then flagNV else 0)
    ∧ (a.isNan = true → b.isNan = true → r.bits = f.nan) ∧ (a.isNan = true → b.isNan = false → r.bits = y) ∧ (a.isNan = false → b.isNan = true → r.bits = x)
    ∧ (a.isNan = false → b.isNan = false → (below → r.bits = if larger then y else x) ∧ (¬below → r.bits = if larger then x else y))

/-- A pattern rounded to an integral value of its format, with its sign; an integral value as it is (R144). -/
def IntegralOf (f : Fmt) (md : Rnd) (x : Nat) (r : FRes) : Prop :=
  match f.read x with
  | .nan _ => quietNan f [f.read x] r
  | .inf _ => r = { bits := x, flags := 0 }
  | .fin n m e =>
    let v := (FVal.fin n m e).rat
    r.flags = 0 ∧ ((∃ k : ℤ, v = k) → r.bits = x)
      ∧ ((∀ k : ℤ, v ≠ k) → r.bits < 2 ^ f.width ∧ ∃ (m' : Nat) (e' : ℤ), f.read r.bits = .fin n m' e' ∧ (FVal.fin n m' e').rat = roundRat md v)

/-- A result under the saturate bit is clamped to [0, 1], its flags kept (R129). -/
def Saturated (f : Fmt) (sat : Bool) (raw r : FRes) : Prop :=
  r.flags = raw.flags ∧ (sat = false → r.bits = raw.bits)
    ∧ (sat = true → match f.read raw.bits with
      | .nan _ => r.bits = 0
      | .inf n => r.bits = if n then 0 else f.one
      | .fin n m e => r.bits = if n ∨ m = 0 then 0 else if 1 < (FVal.fin n m e).rat then f.one else raw.bits)

/-- The bits a result of lanes `r` has in its register or pair (R119). -/
def laneResult (ty : Nat) (r : Nat → FRes) : Nat := if ty = 4 ∨ ty = 5 then (r 0).bits + 65536 * (r 1).bits else (r 0).bits

/-- The flags of a result of lanes `r`: the OR of its lanes' (R128). -/
def laneFlags (ty : Nat) (r : Nat → FRes) : BitVec 5 := if ty = 4 ∨ ty = 5 then (r 0).flags ||| (r 1).flags else (r 0).flags

/-- `t'` is `t` with the floating-point result of lanes `r` in `d` and its flags raised, and nothing else. -/
def WroteFloat (t t' : Thread) (ty d : Nat) (r : Nat → FRes) : Prop :=
  ∃ t1, Wrote t t1 (valRegs (decide (ty = 1)) d) ∧ t' = { t1 with fps := t.fps ||| laneFlags ty r }
    ∧ t1.val (decide (ty = 1)) d = laneResult ty r % 2 ^ (if ty = 1 then 64 else 32)

/-- The word completes and writes, in each lane `l` of its type, a result that `ok l` allows, clamped under its saturate bit; nothing else
changes. -/
def WritesFloat (i : Instr) (s : State) (t : Thread) (ty d : Nat) (sat : Bool) (ok : Nat → FRes → Prop) : Prop :=
  ∃ (t' : Thread) (raw r : Nat → FRes), exec i s = .next (s.goesOn t') ∧ WroteFloat t t' ty d r
    ∧ ∀ l, l < (if ty = 4 ∨ ty = 5 then 2 else 1) → ok l (raw l) ∧ Saturated (fmtOf ty) sat (raw l) (r l)

/-- The arithmetic words, with what R133, R135, R136 and R144 say of the result of a lane from the lanes' patterns x, y and z. -/
def floatTable (w : FWord) : List (Instr × (Fmt → Nat → Nat → Nat → FRes → Prop)) :=
  let md := rndOf w.rnd
  [ (.fadd w, fun f x y _ => SumOf f md (f.read x) (f.read y)), (.fsub w, fun f x y _ => SumOf f md (f.read x) (f.read y).neg),
    (.fmul w, fun f x y _ => ProductOf f md (f.read x) (f.read y)),
    (.ffma w, fun f x y z => SumOfProducts f md false [(f.read x, f.read y), (f.read z, FVal.one)]),
    (.fmin w, fun f x y _ => ExtremeOf f false x y), (.fmax w, fun f x y _ => ExtremeOf f true x y),
    (.fmov w, fun _ x _ _ r => r = { bits := x, flags := 0 }), (.fdiv w, fun f x y _ => QuotientOf f md (f.read x) (f.read y)),
    (.fsqrt w, fun f x _ _ => RootOf f md (f.read x)), (.frnd w, fun f x _ _ => IntegralOf f md x),
    (.hadd2 w, fun f x y _ => SumOf f md (f.read x) (f.read y)), (.hmul2 w, fun f x y _ => ProductOf f md (f.read x) (f.read y)),
    (.hfma2 w, fun f x y z => SumOfProducts f md false [(f.read x, f.read y), (f.read z, FVal.one)]) ]

/-- 05 R119, R124 to R130, R133, R135, R136, R144: the arithmetic words complete: each lane gets the exact result rounded once, from a after
its negate and absolute modifiers, clamped under the saturate bit; the lanes' flags are ORed into s.fps; nothing else changes. -/
def Obligations.FloatArithmetic : Prop :=
  ∀ (w : FWord) (s : State) (t : Thread) (i : Instr) (ok : Fmt → Nat → Nat → Nat → FRes → Prop), (i, ok) ∈ floatTable w → Ready i s t →
    t.mid = true → WritesFloat i s t w.ty w.d.toNat (wordSat w) (fun l => ok (fmtOf w.ty) (laneA w w.ty (srcFloat s t w.ty w.a) l)
      (floatLane w.ty (srcFloat s t w.ty w.b) l) (floatLane w.ty (srcFloat s t w.ty w.c) l))

/-- A result that is exact, without a flag: the datum of the value `v`, which is not zero. -/
def ExactDatum (f : Fmt) (v : ℚ) (r : FRes) : Prop :=
  r.flags = 0 ∧ r.bits < 2 ^ f.width ∧ ∃ (n : Bool) (m : Nat) (e : ℤ), f.read r.bits = .fin n m e ∧ (FVal.fin n m e).rat = v

/-- The largest finite value of a format (R118). -/
def Sys2Proof.Machine.Fmt.largest (f : Fmt) : ℚ := (2 ^ f.prec - 1) * (2 : ℚ) ^ ((f.bias : ℤ) - ((f.prec : ℤ) - 1))

/-- The smallest positive value of a format (R118). -/
def Sys2Proof.Machine.Fmt.least (f : Fmt) : ℚ := (2 : ℚ) ^ (2 - (f.bias : ℤ) - (f.prec : ℤ))

/-- An inexact result less than one ulp of the real number `v` away from it: NX, and UF where `v` is tiny (R125, R139). `e` is the binary
exponent of `v`, and `j` is `v` rounded to the format's precision as though the exponent range were unbounded. -/
def WithinUlp (f : Fmt) (v : ℝ) (r : FRes) : Prop :=
  ∃ e j : ℤ, (2 : ℝ) ^ e ≤ |v| ∧ |v| < (2 : ℝ) ^ (e + 1) ∧ RoundsTo .rn (v / 2 ^ (e - ((f.prec : ℤ) - 1))) j
    ∧ r.flags = (flagNX ||| if |(j : ℝ) * 2 ^ (e - ((f.prec : ℤ) - 1))| < (2 : ℝ) ^ (1 - (f.bias : ℤ)) then flagUF else 0)
    ∧ r.bits < 2 ^ f.width ∧ ∃ (n : Bool) (m : Nat) (x : ℤ), f.read r.bits = .fin n m x
      ∧ |(((FVal.fin n m x).rat : ℚ) : ℝ) - v| < (2 : ℝ) ^ (max e (1 - (f.bias : ℤ)) - ((f.prec : ℤ) - 1))

/-- A result that is neither exact nor invalid: NX, and beside it at most UF. -/
def inexact (r : FRes) : Prop := r.flags = flagNX ∨ r.flags = flagNX ||| flagUF

/-- frcp of a datum (R139): 1/x exactly for a power of two; beyond the largest finite value an infinity; else within one ulp. -/
def ReciprocalOf (f : Fmt) (x : FVal) (r : FRes) : Prop :=
  match x with
  | .nan _ => quietNan f [x] r
  | .inf n => r = { bits := f.zero n, flags := 0 }
  | .fin n m _ =>
    if m = 0 then r = { bits := f.infinity n, flags := flagDZ }
    else (f.largest < 1 / |x.rat| → r = { bits := f.infinity n, flags := flagOF ||| flagNX })
      ∧ (1 / |x.rat| ≤ f.largest → (∀ k : ℤ, |x.rat| = (2 : ℚ) ^ k → f.least ≤ 1 / |x.rat| → ExactDatum f (1 / x.rat) r)
        ∧ ((∀ k : ℤ, |x.rat| ≠ (2 : ℚ) ^ k) → WithinUlp f ((1 / x.rat : ℚ) : ℝ) r))

/-- frsq of a datum (R139): exactly for an even power of two, else within one ulp. -/
def ReciprocalRootOf (f : Fmt) (x : FVal) (r : FRes) : Prop :=
  match x with
  | .nan _ => quietNan f [x] r
  | .inf n => if n then invalid f r else r = { bits := f.zero false, flags := 0 }
  | .fin n m _ =>
    if m = 0 then r = { bits := f.infinity n, flags := flagDZ } else if n then invalid f r
    else (∀ k : ℤ, x.rat = (2 : ℚ) ^ (2 * k) → ExactDatum f ((2 : ℚ) ^ (-k)) r)
      ∧ ((∀ k : ℤ, x.rat ≠ (2 : ℚ) ^ (2 * k)) → WithinUlp f (1 / Real.sqrt (x.rat : ℝ)) r)

/-- The special and exact cases of fex2 (R140), and NX else. -/
def PowerOf (f : Fmt) (x : FVal) (r : FRes) : Prop :=
  match x with
  | .nan _ => quietNan f [x] r
  | .inf n => r = { bits := if n then f.zero false else f.infinity false, flags := 0 }
  | .fin _ _ _ => ((f.bias : ℚ) + 1 ≤ x.rat → r = { bits := f.infinity false, flags := flagOF ||| flagNX })
      ∧ (∀ k : ℤ, x.rat = k → f.least ≤ (2 : ℚ) ^ k → (2 : ℚ) ^ k ≤ f.largest → ExactDatum f ((2 : ℚ) ^ k) r)
      ∧ (∀ k : ℤ, x.rat = k → (2 : ℚ) ^ k < f.least → r.flags = flagNX ||| flagUF)
      ∧ ((∀ k : ℤ, x.rat ≠ k) → r.flags &&& flagNX = flagNX)

/-- The special and exact cases of flg2 (R140), and NX else. -/
def LogarithmOf (f : Fmt) (x : FVal) (r : FRes) : Prop :=
  match x with
  | .nan _ => quietNan f [x] r
  | .inf n => if n then invalid f r else r = { bits := f.infinity false, flags := 0 }
  | .fin n m _ =>
    if m = 0 then r = { bits := f.infinity true, flags := flagDZ } else if n then invalid f r
    else (∀ k : ℤ, x.rat = (2 : ℚ) ^ k → if k = 0 then r = { bits := 0, flags := 0 } else ExactDatum f k r)
      ∧ ((∀ k : ℤ, x.rat ≠ (2 : ℚ) ^ k) → inexact r)

/-- The special and exact cases of fsin and, with `cosine`, of fcos (R140), and NX else. -/
def SineOf (cosine : Bool) (f : Fmt) (x : FVal) (r : FRes) : Prop :=
  match x with
  | .nan _ => quietNan f [x] r
  | .inf _ => invalid f r
  | .fin n m _ => if m = 0 then r = { bits := if cosine then f.one else f.zero n, flags := 0 } else inexact r

/-- 05 R139, R140: the approximate words complete, whatever the free value they draw their result by (log entry 57). `frcp` and `frsq` write the exact
value where it is representable, else a value less than one ulp from it, with NX and, where it is tiny, UF; `fex2`, `flg2`, `fsin` and `fcos` write
the tables' special and exact cases, and every other result sets NX (how near those results come is not stated here). A NaN gives the canonical NaN. The
result is clamped under the saturate bit, its flags are ORed into s.fps, and nothing else changes. 05 R139: the cases `frcp` and `frsq` fix whatever the free value: the reciprocals of zeros, infinities and NaNs, and NaN with
NV below -0. -/
def Obligations.FloatApproximations : Prop :=
  (∀ (w : FWord) (s : State) (t : Thread), t.mid = true →
    let x := (fmtOf w.ty).read (laneA w w.ty (srcFloat s t w.ty w.a) 0)
    let completes := fun (i : Instr) (ok : FRes → Prop) => ∃ (t' : Thread) (raw r : FRes), exec i s = .next (s.goesOn t')
      ∧ WroteFloat t t' w.ty w.d.toNat (fun _ => r) ∧ ok raw ∧ Saturated (fmtOf w.ty) (wordSat w) raw r
    (Ready (.frcp w) s t → completes (.frcp w) (ReciprocalOf (fmtOf w.ty) x))
    ∧ (Ready (.frsq w) s t → completes (.frsq w) (ReciprocalRootOf (fmtOf w.ty) x))
    ∧ (Ready (.fex2 w) s t → completes (.fex2 w) (PowerOf (fmtOf w.ty) x))
    ∧ (Ready (.flg2 w) s t → completes (.flg2 w) (LogarithmOf (fmtOf w.ty) x))
    ∧ (Ready (.fsin w) s t → completes (.fsin w) (SineOf false (fmtOf w.ty) x))
    ∧ (Ready (.fcos w) s t → completes (.fcos w) (SineOf true (fmtOf w.ty) x)))
  ∧ (∀ (f : Fmt) (k n : Nat), 0 < k → ∀ e : Int,
    rcpRes f (.fin false 0 e) n = { bits := f.infinity false, flags := flagDZ }
    ∧ rcpRes f (.fin true 0 e) n = { bits := f.infinity true, flags := flagDZ }
    ∧ rcpRes f (.inf false) n = { bits := f.zero false, flags := 0 } ∧ rcpRes f (.inf true) n = { bits := f.zero true, flags := 0 }
    ∧ rcpRes f (.nan false) n = { bits := f.nan, flags := 0 } ∧ rcpRes f (.nan true) n = { bits := f.nan, flags := flagNV }
    ∧ rsqRes f (.fin false 0 e) n = { bits := f.infinity false, flags := flagDZ }
    ∧ rsqRes f (.fin true 0 e) n = { bits := f.infinity true, flags := flagDZ }
    ∧ rsqRes f (.inf false) n = { bits := f.zero false, flags := 0 } ∧ rsqRes f (.inf true) n = { bits := f.nan, flags := flagNV }
    ∧ rsqRes f (.fin true k e) n = { bits := f.nan, flags := flagNV })

/-- x × 2^n, rounded once; zeros and infinities as they are (R141, R145). -/
def RoundedDatum (f : Fmt) (md : Rnd) (n : ℤ) (x : FVal) (r : FRes) : Prop :=
  match x with
  | .nan _ => quietNan f [x] r
  | .inf s => r = { bits := f.infinity s, flags := 0 }
  | .fin s m _ => if m = 0 then r = { bits := f.zero s, flags := 0 } else RoundedOnce f md ((x.rat : ℝ) * (2 : ℝ) ^ n) r

/-- 05 R141 to R143, R145: the conversions: `fcvt` of the lanes its types name, `f2i` rounded in the word's mode and saturated
with NV, `i2f` and `fscale` rounded once. -/
def Obligations.FloatConversions : Prop :=
  (∀ (w : FWord) (s : State) (t : Thread), Ready (.fcvt w) s t → t.mid = true →
    let st := w.cvtSrc
    let a := srcFloat s t st w.a
    let lane := fun (l : Nat) =>
      if st = 0 ∧ (w.ty = 4 ∨ w.ty = 5) ∧ l = 1 then src32 s t w.c
      else laneA w st a (if w.ty = 4 ∨ w.ty = 5 then (if st = 0 then 0 else l) else if st = 4 ∨ st = 5 then w.b.toNat / 8 % 2 else l)
    WritesFloat (.fcvt w) s t w.ty w.d.toNat (wordSat w) (fun l => RoundedDatum (fmtOf w.ty) (rndOf w.rnd) 0 ((fmtOf st).read (lane l))))
  ∧ (∀ (w : FWord) (s : State) (t : Thread), Ready (.f2i w) s t → t.mid = true →
    let it := w.b.toNat
    let x := (fmtOf w.ty).read (laneA w w.ty (srcFloat s t w.ty w.a) 0)
    let lo := (intRange it).1
    let hi := (intRange it).2
    let n := roundRat (rndOf w.rnd) x.rat
    let r : ℤ × BitVec 5 := match x with
      | .nan _ => (0, flagNV)
      | .inf neg => (if neg then lo else hi, flagNV)
      | .fin _ _ _ => if hi < n then (hi, flagNV) else if n < lo then (lo, flagNV) else (n, if (n : ℚ) = x.rat then 0 else flagNX)
    ∃ t1, exec (.f2i w) s = .next (s.goesOn { t1 with fps := t.fps ||| r.2 }) ∧ Wrote t t1 (valRegs (intWide it) w.d.toNat)
      ∧ (t1.val (intWide it) w.d.toNat : ℤ) = r.1 % 2 ^ (if intWide it then 64 else 32))
  ∧ (∀ (w : FWord) (s : State) (t : Thread), Ready (.i2f w) s t → t.mid = true →
    let v := laneVal w.b.toNat (srcInt s t w.b.toNat w.a) 0
    WritesFloat (.i2f w) s t w.ty w.d.toNat (wordSat w) (fun _ r =>
      (v = 0 → r = { bits := 0, flags := 0 }) ∧ (v ≠ 0 → RoundedOnce (fmtOf w.ty) (rndOf w.rnd) (v : ℝ) r)))
  ∧ (∀ (w : FWord) (s : State) (t : Thread), Ready (.fscale w) s t → t.mid = true →
    let n := (BitVec.ofNat 32 (src32 s t w.b)).toInt
    WritesFloat (.fscale w) s t w.ty w.d.toNat (wordSat w) (fun _ =>
      RoundedDatum (fmtOf w.ty) (rndOf w.rnd) n ((fmtOf w.ty).read (laneA w w.ty (srcFloat s t w.ty w.a) 0))))

/-- 05 R137, R138, R145: `fcmp` writes a predicate by the order of two data, NaNs unordered, and sets NV for a signalling NaN or in
a signalling condition; `fclass` sets the one bit of its operand's class; `fgexp` writes the floor of the binary logarithm. -/
def Obligations.FloatComparisons : Prop :=
  (∀ (w : FWord) (s : State) (t : Thread), Ready (.fcmp w) s t → t.mid = true →
    let x := (fmtOf w.ty).read (laneA w w.ty (srcFloat s t w.ty w.a) 0)
    let y := (fmtOf w.ty).read (floatLane w.ty (srcFloat s t w.ty w.b) 0)
    let un := x.isNan || y.isNan
    let o := x.order y
    let c := w.d.toNat / 64
    let r := [!un && o == .eq, un || o != .eq, !un && o == .lt, !un && o != .gt, !un && o == .gt, !un && o != .lt, un, !un].getD c false
    let q := t.pred (w.c.toNat % 16)
    let k := w.d.toNat / 16 % 4
    let nv := if (2 ≤ c ∧ c ≤ 5 ∧ un = true) ∨ x.isSnan = true ∨ y.isSnan = true then flagNV else 0
    ∃ t1, exec (.fcmp w) s = .next (s.goesOn { t1 with fps := t.fps ||| nv })
      ∧ WrotePred t t1 (w.d.toNat % 16) (if k = 0 then r else if k = 1 then r && q else r || q))
  ∧ (∀ (w : FWord) (s : State) (t : Thread), Ready (.fclass w) s t → t.mid = true →
    let f := fmtOf w.ty
    let x := floatLane w.ty (srcFloat s t w.ty w.a) 0
    let sub := x / 2 ^ (f.prec - 1) % 2 ^ f.ebits = 0
    let k := match f.read x with
      | .nan sg => if sg then 8 else 9
      | .inf ng => if ng then 0 else 7
      | .fin ng m _ => if m = 0 then (if ng then 3 else 4) else if sub then (if ng then 2 else 5) else if ng then 1 else 6
    ∃ t', exec (.fclass w) s = .next (s.goesOn t') ∧ Wrote t t' [w.d.toNat] ∧ (t'.reg w.d.toNat).toNat = 2 ^ k)
  ∧ (∀ (w : FWord) (s : State) (t : Thread), Ready (.fgexp w) s t → t.mid = true →
    let x := (fmtOf w.ty).read (floatLane w.ty (srcFloat s t w.ty w.a) 0)
    ∃ t1, exec (.fgexp w) s = .next (s.goesOn { t1 with fps := t.fps ||| (if x.isSnan then flagNV else 0) })
      ∧ Wrote t t1 [w.d.toNat]
      ∧ match x with
        | .fin _ m _ => if m = 0 then t1.reg w.d.toNat = 0x80000000
            else (2 : ℚ) ^ (t1.reg w.d.toNat).toInt ≤ |x.rat| ∧ |x.rat| < (2 : ℚ) ^ ((t1.reg w.d.toNat).toInt + 1)
        | _ => t1.reg w.d.toNat = 0x7FFFFFFF)

/-- The values of the QN4 codes (R121). -/
def codeValues : List ℚ := [-1, -89 / 128, -67 / 128, -101 / 256, -73 / 256, -47 / 256, -23 / 256, 0, 5 / 64, 41 / 256, 63 / 256, 173 / 512, 113 / 256,
  9 / 16, 185 / 256, 1]

/-- 05 R134, R146, R147: `fdot2` sums two products and an addend with one rounding, `qdeq` scales codebook values, `faddi` and
`fmuli` round to nearest. -/
def Obligations.FloatCompositions : Prop :=
  (∀ (w : FWord) (s : State) (t : Thread), Ready (.fdot2 w) s t → t.mid = true →
    let f := fmtOf w.ty
    let x := fun l => f.read (laneA w w.ty (src32 s t w.a) l)
    let y := fun l => f.read (floatLane w.ty (src32 s t w.b) l)
    WritesFloat (.fdot2 w) s t 0 w.d.toNat (wordSat w) (fun _ =>
      SumOfProducts .f32 (rndOf w.rnd) true [(x 0, y 0), (x 1, y 1), (Fmt.f32.read (src32 s t w.c), FVal.one)]))
  ∧ (∀ (w : FWord) (s : State) (t : Thread), Ready (.qdeq w) s t → t.mid = true →
    let code := fun l => if w.ty = 0 then src32 s t w.b % 8 else 2 * (src32 s t w.b % 4) + l
    WritesFloat (.qdeq w) s t w.ty w.d.toNat (wordSat w) (fun l r =>
      let v := codeValues.getD (src32 s t w.a / 16 ^ code l % 16) 0
      match Fmt.f32.read (src32 s t w.c) with
      | .nan sn => quietNan (fmtOf w.ty) [.nan sn] r
      | .inf n => if v = 0 then invalid (fmtOf w.ty) r else r = { bits := (fmtOf w.ty).infinity (n != decide (v < 0)), flags := 0 }
      | .fin n m e => if v = 0 ∨ m = 0 then r = { bits := (fmtOf w.ty).zero (n != decide (v < 0)), flags := 0 }
          else RoundedOnce (fmtOf w.ty) (rndOf w.rnd) ((v * (FVal.fin n m e).rat : ℚ) : ℝ) r))
  ∧ (∀ (w : IWord) (s : State) (t : Thread) (i : Instr) (ok : FVal → FVal → FRes → Prop),
    (i, ok) ∈ [(Instr.faddi w, SumOf .f32 .rn), (Instr.fmuli w, ProductOf .f32 .rn)] → Ready i s t → t.mid = true →
    WritesFloat i s t 0 w.d.toNat false (fun _ => ok (Fmt.f32.read (t.reg w.a.toNat).toNat) (Fmt.f32.read w.imm.toNat)))

/-- What R65 says of a slot's result and flags, from the values of its destination, its source, and its immediate; the floating-point slots
are the f32 words to nearest even. -/
def SlotResult (op : SlotOp) (d v : Word) (imm : BitVec 6) (r : Word × BitVec 5) : Prop :=
  let k := imm.signExtend 32
  let x := Fmt.f32.read d.toNat
  let y := Fmt.f32.read v.toNat
  let fl : FRes := { bits := r.1.toNat, flags := r.2 }
  match op with
  | .nop => True
  | .add => r = (d + v, 0) | .sub => r = (d - v, 0) | .mul => r = (d * v, 0) | .and => r = (d &&& v, 0) | .or => r = (d ||| v, 0)
  | .xor => r = (d ^^^ v, 0) | .shl => r = (d <<< (v.toNat % 32), 0) | .shr => r = (d >>> (v.toNat % 32), 0)
  | .sar => r = (d.sshiftRight (v.toNat % 32), 0) | .mov => r = (v, 0) | .min => r = (if d.toInt < v.toInt then d else v, 0)
  | .max => r = (if d.toInt < v.toInt then v else d, 0) | .not => r = (~~~v, 0) | .addi => r = (d + k, 0)
  | .shli => r = (d <<< imm.toNat, 0) | .shri => r = (d >>> imm.toNat, 0) | .sari => r = (d.sshiftRight imm.toNat, 0)
  | .movi => r = (k, 0) | .andi => r = (d &&& k, 0)
  | .fadd => SumOf .f32 .rn x y fl | .fmul => ProductOf .f32 .rn x y fl | .fmin => ExtremeOf .f32 false d.toNat v.toNat fl
  | .fmax => ExtremeOf .f32 true d.toNat v.toNat fl | .fmov => r = (v, 0)

/-- 04 R115, 05 R147: the immediate words write one register. 03 R64 to R67: both slots of a pair word read their operands before either writes; a slot writes its register only if its
guard is true and it is no `nop`. -/
def Obligations.ImmediateAndPairWords : Prop :=
  (∀ (w : IWord) (s : State) (t : Thread) (i : Instr) (f : Word → Word → Word), (i, f) ∈ immTable w → Ready i s t →
    ∃ t', Wrote t t' [w.d.toNat] ∧ t'.reg w.d.toNat = f (t.reg w.a.toNat) w.imm
      ∧ (t.mid = true → exec i s = .next (s.goesOn t')) ∧ (t.atEnd = true → exec i s = .next (s.trapped t' .illegalTarget 0)))
  ∧ (∀ (s0 s1 : PSlot) (s : State) (t : Thread), Ready (.pairWord s0 s1) s t → pairOk s0 s1 = true → t.mid = true →
    let runs := fun (p : PSlot) => t.slotGuard p.guard && !decide (p.op = .nop)
    ∃ (t1 t' : Thread) (r0 r1 : Word × BitVec 5), exec (.pairWord s0 s1) s = .next (s.goesOn t')
      ∧ SlotResult s0.op (t.reg s0.d.toNat) (t.reg s0.s.toNat) s0.imm r0 ∧ SlotResult s1.op (t.reg s1.d.toNat) (t.reg s1.s.toNat) s1.imm r1
      ∧ Wrote t t1 ((if runs s0 then [s0.d.toNat] else []) ++ (if runs s1 then [s1.d.toNat] else []))
      ∧ t' = { t1 with fps := t.fps ||| (if runs s0 then r0.2 else 0) ||| (if runs s1 then r1.2 else 0) }
      ∧ (runs s0 = true → t1.reg s0.d.toNat = r0.1) ∧ (runs s1 = true → t1.reg s1.d.toNat = r1.1))

/-- 05 R118, R124: a finite datum of a format, rounded into that format in any mode, is itself, and raises no flag. 05 R124: a result of .rn that is finite is at least as near to the exact value as every finite datum of the format. -/
def Obligations.RoundingIsNearest : Prop :=
  (∀ (f : Fmt) (md : Rnd) (x : Nat) (n : Bool) (m : Nat) (e : Int), x < 2 ^ f.width → f.read x = .fin n m e →
    roundVal f md n m e false = { bits := x, flags := 0 })
  ∧ (∀ (f : Fmt) (n : Bool) (m : Nat) (e : Int) (n' : Bool) (m' : Nat) (e' : Int),
    f.read (roundVal f .rn n m e false).bits = .fin n' m' e' →
    ∀ (y : Nat) (ny : Bool) (my : Nat) (ey : Int), f.read y = .fin ny my ey →
      |(FVal.fin n' m' e').rat - (FVal.fin n m e).rat| ≤ |(FVal.fin ny my ey).rat - (FVal.fin n m e).rat|)

/-! ## Capabilities (06) -/

/-- 06 R151: with the cursor at the base asked for, decoding the encoding that set_bounds gives returns exactly its base and
top. -/
def Obligations.SetBoundsDecodes : Prop :=
  ∀ (x : Cap) (b l : Nat) (y : Bounds), b < 2 ^ 64 → b + l ≤ 2 ^ 64 → setBounds b l = some y →
    ((x.withCursor b).withBounds y).decode = (y.bl, y.tl)

/-- The capability words that derive a quad: what each writes when its checks pass (R162 to R170, R172), from the source x, the quad
or value in b, and the thread. The tag is lost to a revoking colour (R162). -/
def deriveTable (w : XWord) (t : Thread) : List (Instr × Prop × Cap) :=
  let x := t.quad w.a.toNat
  let y := t.quad w.b.toNat
  let d := x.decode
  let l := (t.pair w.b.toNat).toNat
  let step := if w.bit 0 then (t.reg w.b.toNat).toInt else (t.pair w.b.toNat).toInt
  let moved := fun (v : Nat) => (x.withCursor v).withTag (x.tag && x.representable v)
  let whole := x.tag = true ∧ x.otype = 0
  let authority := x.tag = true ∧ y.tag = true ∧ y.otype = 0 ∧ y.space = 6 ∧ y.decode.1 ≤ y.cursor ∧ y.cursor < y.decode.2
    ∧ 1 ≤ y.cursor ∧ y.cursor ≤ 15
  let bounds := setBounds x.cursor l
  let b := bounds.getD { e := 0, b := 0, t := 0, bl := 0, tl := 0 }
  let perms := (t.reg w.b.toNat).toNat
  [ (.cinc w, x.tag = false ∨ x.otype = 0, moved (((x.cursor : Int) + step) % 2 ^ 64).toNat),
    (.csetc w, x.tag = false ∨ x.otype = 0, moved l),
    (.cbnd w, whole ∧ d.1 ≤ x.cursor ∧ x.cursor + l ≤ d.2 ∧ bounds.isSome = true ∧ d.1 ≤ b.bl ∧ b.tl ≤ d.2
      ∧ (w.bit 0 = true → b.bl = x.cursor ∧ b.tl = x.cursor + l), x.withBounds b),
    (.cperm w, whole, x.withField 29 22 (x.perm &&& perms % 256)),
    (.cview w, whole ∧ perms / 256 % 8 ≤ 4 ∧ perms / 32 % 8 ≤ 4, x.withField 18 8 perms),
    (.cseal w, authority ∧ x.otype = 0, x.withField 3 0 y.cursor),
    (.cunseal w, authority ∧ x.otype = y.cursor, x.withField 3 0 0),
    (.ctag w, y.tag = true ∧ y.otype = 0 ∧ x.exp ≤ 50 ∧ x.swizzle ≤ 4 ∧ x.esize ≤ 4 ∧ y.decode.1 ≤ d.1 ∧ d.1 ≤ d.2 ∧ d.2 ≤ y.decode.2
      ∧ x.perm &&& y.perm = x.perm ∧ x.space = y.space ∧ x.colour = y.colour ∧ x.otype = 0, x.withTag true),
    (.ccast w, whole ∧ x.space = w.mod.toNat, x),
    (.cmov w, True, x) ]

/-- 06 R154: NO AUTHORITY IS GAINED: a tagged quad that cinc, csetc, cbnd, cperm, cview or cmov writes comes from a tagged one, with
bounds inside it, no permission it lacks, and its space, colour and object type. -/
def Obligations.NoAuthorityGained : Prop :=
  ∀ (w : XWord) (s : State) (t t' : Thread) (i : Instr),
    i ∈ [Instr.cinc w, .csetc w, .cbnd w, .cperm w, .cview w, .cmov w] → s.cur = some t → guardTrue t i.code = true →
    exec i s = .next (s.goesOn t') → (t'.quad w.d.toNat).tag = true →
    let x := t.quad w.a.toNat
    let y := t'.quad w.d.toNat
    x.tag = true ∧ x.decode.1 ≤ y.decode.1 ∧ y.decode.2 ≤ x.decode.2 ∧ y.perm &&& x.perm = y.perm ∧ y.space = x.space
      ∧ y.colour = x.colour ∧ y.otype = x.otype

/-- 06 R162, R164 to R170, R172: where its checks pass, a deriving word writes its quad, with the tag if its colour is not revoking,
and nothing else. 06 R162, R164 to R170: a deriving word whose source is untagged, or sealed, takes TAG, or SEALED, with address 0 and no effect;
`cinc` and `csetc` do so only for a sealed one. -/
def Obligations.CapabilitiesDerived : Prop :=
  (∀ (w : XWord) (s : State) (t : Thread) (i : Instr) (ok : Prop) (y : Cap), (i, ok, y) ∈ deriveTable w t → Ready i s t → ok →
    t.mid = true → ∃ t', exec i s = .next (s.goesOn t')
      ∧ WroteQuad t t' w.d.toNat { y with tag := y.tag && !decide (s.colourFor t y.colour = 2) })
  ∧ (∀ (w : XWord) (s : State) (t : Thread),
    (∀ i ∈ [Instr.cbnd w, .cperm w, .cview w, .ccast w], Ready i s t →
      ((t.quad w.a.toNat).tag = false → exec i s = .next (s.trapped t .tag 0))
      ∧ ((t.quad w.a.toNat).tag = true → (t.quad w.a.toNat).otype ≠ 0 → exec i s = .next (s.trapped t .sealed 0)))
    ∧ (∀ i ∈ [Instr.cinc w, .csetc w], Ready i s t → (t.quad w.a.toNat).tag = true → (t.quad w.a.toNat).otype ≠ 0 →
      exec i s = .next (s.trapped t .sealed 0)))

/-- What `cget` reads of x by its modifier (R163). -/
def capField (x : Cap) (k : Nat) : Nat :=
  let top := 2 ^ 64 - 1
  [x.cursor, x.decode.1, min x.decode.2 top, min (x.decode.2 - x.decode.1) top, (x.cursor + 2 ^ 64 - x.decode.1) % 2 ^ 64, x.perm,
    x.space, x.swizzle, x.esize, x.pitch, x.colour, x.otype, if x.tag then 1 else 0, x.exp].getD k 0

/-- 06 R163, R169, R171 to R173: the words that read capabilities complete whatever their contents, and write nothing else: `cget` a field; `cspc` the
space, the window of the cursor, whether it is in reach, and the tag; `ceq` the equality of all 128 bits and the tag, or of the cursors; `cdif` the
difference of the cursors in bytes or elements; `crep` the rounded length that `cbnd.exact` accepts, or its mask; `cclr` clears quads. -/
def Obligations.CapabilitiesRead : Prop :=
  (∀ (w : XWord) (s : State) (t : Thread), Ready (.cget w) s t → t.mid = true →
    ∃ t', exec (.cget w) s = .next (s.goesOn t') ∧ Wrote t t' (valRegs (decide (w.mod.toNat < 5)) w.d.toNat)
      ∧ t'.val (decide (w.mod.toNat < 5)) w.d.toNat = capField (t.quad w.a.toNat) w.mod.toNat)
  ∧ (∀ (w : XWord) (s : State) (t : Thread) (win : Nat), Ready (.cspc w) s t → t.mid = true →
    let x := t.quad w.a.toNat
    let inside := fun (k : Nat) => (s.window t k (s.remapped t k x.cursor)).isSome = true
    (win < 5 ∧ inside win ∧ (∀ k, k < win → ¬inside k)) ∨ (win = 7 ∧ ∀ k, k < 5 → ¬inside k) →
    ∃ t', exec (.cspc w) s = .next (s.goesOn t') ∧ Wrote t t' [w.d.toNat]
      ∧ (t'.reg w.d.toNat).toNat = x.space + 8 * win
        + (if x.space < 6 ∧ s.local? t x.space (s.remapped t x.space x.cursor) = true then 64 else 0) + (if x.tag then 128 else 0))
  ∧ (∀ (w : XWord) (s : State) (t : Thread), Ready (.ceq w) s t → t.mid = true →
    ∃ t', exec (.ceq w) s = .next (s.goesOn t') ∧ WrotePred t t' w.d.toNat
      (if w.bit 0 then decide ((t.quad w.a.toNat).cursor = (t.quad w.b.toNat).cursor)
       else decide (t.quad w.a.toNat = t.quad w.b.toNat)))
  ∧ (∀ (w : XWord) (s : State) (t : Thread), Ready (.cdif w) s t → t.mid = true →
    let df := t.pair w.a.toNat - t.pair w.b.toNat
    ∃ t', exec (.cdif w) s = .next (s.goesOn t') ∧ Wrote t t' [w.d.toNat, w.d.toNat + 1]
      ∧ t'.pair w.d.toNat = if w.bit 0 then df.sshiftRight (t.quad w.a.toNat).esize else df)
  ∧ (∀ (w : XWord) (s : State) (t : Thread), Ready (.crep w) s t → t.mid = true →
    let l := (t.pair w.a.toNat).toNat
    let fits := fun (e : Nat) => (l + 2 ^ e - 1) / 2 ^ e ≤ 12287
    ∃ t', exec (.crep w) s = .next (s.goesOn t') ∧ Wrote t t' [w.d.toNat, w.d.toNat + 1]
      ∧ (∀ e, e ≤ 50 → fits e → (∀ k, k < e → ¬fits k) →
        (t'.pair w.d.toNat).toNat = if w.bit 0 then 2 ^ 64 - 2 ^ e else (l + 2 ^ e - 1) / 2 ^ e * 2 ^ e)
      ∧ ((∀ e, e ≤ 50 → ¬fits e) → (t'.pair w.d.toNat).toNat = if w.bit 0 then 0 else 2 ^ 64 - 1))
  ∧ (∀ (w : XWord) (s : State) (t : Thread), Ready (.cclr w) s t → t.mid = true →
    ∃ t', exec (.cclr w) s = .next (s.goesOn t') ∧ t' = { t with regs := t'.regs, tags := t'.tags }
      ∧ ∀ n, t'.reg n = (if w.d.toNat ≤ n ∧ n < w.d.toNat + 4 * (w.mod.toNat + 1) then 0 else t.reg n)
        ∧ t'.tags.getD (n / 4) false = (t.tags.getD (n / 4) false && !(decide (w.d.toNat ≤ n) && decide (n < w.d.toNat + 4 * (w.mod.toNat + 1)))))

/-! ## Control (07, 17 R411) -/

/-- The words that go to a block: the link register and value of a call, and the block (R193, R194). -/
def branchTable (w : IWord) (v : XWord) (t : Thread) : List (Instr × Option (Nat × Nat) × Nat) :=
  [ (.bra w, none, w.imm.toNat % 65536),
    (.brc w, none, if t.pred (w.a.toNat % 16) = !w.a.getLsbD 4 then w.imm.toNat % 65536 else w.imm.toNat / 65536),
    (.call w, some (w.d.toNat, w.imm.toNat / 65536), w.imm.toNat % 65536), (.brx v, none, (t.reg v.a.toNat).toNat),
    (.ret v, none, (t.reg v.a.toNat).toNat),
    (.callx v, some (v.d.toNat, (t.reg v.b.toNat).toNat), (t.reg v.a.toNat).toNat) ]

/-- 07 R192 to R194: a branch to a block of the code object makes its thread wait at that block's platform, a call having written its
link first; no byte of memory changes. 07 R190, R192, R193: a branch to a block id at or beyond the block count takes ILLEGAL_TARGET with the id, zero-extended, as its
address. -/
def Obligations.Branches : Prop :=
  (∀ (w : IWord) (v : XWord) (s : State) (t : Thread) (i : Instr) (link : Option (Nat × Nat)) (b : Nat),
    (i, link, b) ∈ branchTable w v t → Ready i s t → t.steps = false → b < s.blocks t → s.blocks t ≤ 65536 →
    (∀ d k, link = some (d, k) → k < s.blocks t) →
    ∃ s' t1, exec i s = .next s' ∧ s'.cur = some { t1 with blk := BitVec.ofNat 16 b, off := 1, issued := true, run := .platform, watchSkip := false, mark := none }
      ∧ (link = none → t1 = t) ∧ (∀ d k, link = some (d, k) → Wrote t t1 [d] ∧ (t1.reg d).toNat = k)
      ∧ s'.mem = s.mem ∧ s'.cus = s.cus ∧ s'.threads = s.threads)
  ∧ (∀ (w : IWord) (v : XWord) (s : State) (t : Thread) (i : Instr) (link : Option (Nat × Nat)) (b : Nat),
    (i, link, b) ∈ branchTable w v t → Ready i s t → s.blocks t ≤ b → (∀ d k, link = some (d, k) → k < s.blocks t) →
    exec i s = .next (s.trapped t .illegalTarget (BitVec.ofNat 64 b)))

/-- 07 R198 to R200: `nop` goes on; `brk` goes on while no session is attached and parks for debug after its word under one; `idle`
parks at the next word until its cycles have passed; `elect` makes one thread of the train the elected one and writes whether it is
this one. 07 R190, R197: `trap` completes by taking the exception TRAP, which is its effect: outside the handler of a launch with a handler block it
saves the class, its immediate as address and its place, and arrives at the handler block; else the thread leaves with status 0xF5, at once where
nothing of it is outstanding. -/
def Obligations.NopBrkIdleElectTrap : Prop :=
  (∀ (w : XWord) (s : State) (t : Thread), t.mid = true →
    (Ready (.nop w) s t → exec (.nop w) s = .next (s.goesOn t))
    ∧ (Ready (.brk w) s t → t.debug = false → exec (.brk w) s = .next (s.goesOn t))
    ∧ (Ready (.brk w) s t → t.debug = true → ∃ (s' : State) (t' : Thread), exec (.brk w) s = .next s' ∧ s'.cur = some t' ∧ t'.off = t.off + 1
        ∧ t'.run = .parked (.debug .breakpoint (w.mod.setWidth 64)) (s.now t.cu) ∧ t'.regs = t.regs ∧ s'.mem = s.mem
        ∧ s'.out = .debugHit (s.sessionOf t) t.id .breakpoint (pcBits t.blk t.off) (w.mod.setWidth 64) :: s.out)
    ∧ (Ready (.idle w) s t → ∃ (s' : State) (t' : Thread), exec (.idle w) s = .next s' ∧ s'.cur = some t' ∧ t'.off = t.off + 1
        ∧ t'.run = .parked (.idle (s.now t.cu + 16 * max w.mod.toNat 1)) (s.now t.cu) ∧ t'.regs = t.regs ∧ s'.mem = s.mem)
    ∧ (Ready (.elect w) s t → ∃ (n : Nat) (s' : State) (t' : Thread), exec (.elect w) s = .next (s'.goesOn t') ∧ WrotePred t t' w.d.toNat (decide (n = t.id.num))
        ∧ s' = { s with trains := s'.trains } ∧ ∀ r ∈ s'.trains, inTrain t r = true → r.elected = some n))
  ∧ (∀ (w : IWord) (s : State) (t : Thread), Ready (.trap w) s t →
    (s.faultEnds t = false →
      ∃ (s' : State) (t' : Thread), exec (.trap w) s = .next s' ∧ s'.cur = some t' ∧ t'.fcode = 0x50 ∧ t'.faddr = (w.imm.setWidth 16).setWidth 64
      ∧ t'.fblk = pcBits t.blk t.off ∧ t'.inHandler = true ∧ t'.blk = s.handlerOf t.id.launch ∧ t'.off = 1 ∧ t'.run = .platform
      ∧ t'.regs = t.regs ∧ t'.tags = t.tags ∧ t'.preds = t.preds ∧ t'.fps = t.fps ∧ s'.mem = s.mem ∧ s'.stores = s.stores)
    ∧ (s.faultEnds t = true → (t.opsDone = false ∨ t.logDone = false ∨ s.peerWritesOut t.id = true) →
      ∃ (s' : State) (t' : Thread), exec (.trap w) s = .next s' ∧ s'.cur = some t' ∧ t'.run = .exiting 0xF5 ∧ t'.regs = t.regs ∧ s'.mem = s.mem
        ∧ s'.launches = s.launches)
    ∧ (s.faultEnds t = true → t.opsDone = true → t.logDone = true → s.peerWritesOut t.id = false → (∀ u ∈ s.threads, u.id ≠ t.id) →
      ∃ s' : State, exec (.trap w) s = .next s' ∧ s'.cur = none ∧ s'.thread t.id = none ∧ s'.mem = s.mem
        ∧ ∀ l l', s.launch t.id.launch = some l → s'.launch t.id.launch = some l' → l'.count = l.count + 1 ∧ l'.orStatus = l.orStatus ||| 0xF5))

/-- 17 R411: RETURNING FROM THE HANDLER: `rti` in the handler mode leaves that mode for the block its register names, or with .at for
a word of it; outside the handler it takes PRIVILEGE. The saved fault registers stay. -/
def Obligations.ReturnFromHandler : Prop :=
  ∀ (w : XWord) (s : State) (t : Thread), Ready (.rti w) s t → t.steps = false →
    let v := t.reg w.a.toNat
    (t.inHandler = false → exec (.rti w) s = .next (s.trapped t .privilege 0))
    ∧ (t.inHandler = true → v.toNat < s.blocks t → v.toNat < 65536 → w.bit 0 = false →
      ∃ (s' : State) (t' : Thread), exec (.rti w) s = .next s' ∧ s'.cur = some t' ∧ t'.inHandler = false ∧ t'.blk = v.setWidth 16 ∧ t'.off = 1
        ∧ t'.run = .platform ∧ t'.regs = t.regs ∧ t'.fcode = t.fcode ∧ t'.faddr = t.faddr ∧ t'.fblk = t.fblk ∧ s'.mem = s.mem)
    ∧ (t.inHandler = true → v.toNat % 65536 < s.blocks t → v.toNat < 2 ^ 26 → w.bit 0 = true →
      ∃ (s' : State) (t' : Thread), exec (.rti w) s = .next s' ∧ s'.cur = some t' ∧ t'.inHandler = false ∧ t'.blk = v.setWidth 16
        ∧ t'.off = v.extractLsb' 16 10 ∧ t'.run = .eligible (s.now t.cu) 0 ∧ t'.regs = t.regs ∧ t'.fcode = t.fcode
        ∧ t'.faddr = t.faddr ∧ t'.fblk = t.fblk ∧ s'.mem = s.mem)

/-- 07 R196, 02 R50, R51: `exit` of a thread whose engine operations are done and left no fault ends it: it is resident no more, and its
status has joined its launch's record. -/
def Obligations.ExitEndsTheThread : Prop :=
  ∀ (w : IWord) (v : XWord) (s : State) (t : Thread) (i : Instr) (st : Byte),
    (i, st) ∈ [(Instr.exitI w, w.imm.setWidth 8), (Instr.exitX v, (t.reg v.a.toNat).setWidth 8)] → Ready i s t → t.opsDone = true →
    t.engFault = none → s.peerWritesOut t.id = false → (∀ u ∈ s.threads, u.id ≠ t.id) →
    ∃ s', exec i s = .next s' ∧ s'.cur = none ∧ s'.thread t.id = none ∧ s'.mem = s.mem
      ∧ ∀ l l', s.launch t.id.launch = some l → s'.launch t.id.launch = some l' →
        l'.count = l.count + 1 ∧ l'.orStatus = l.orStatus ||| st ∧ l'.maxStatus = (if l.maxStatus < st then st else l.maxStatus)

/-! ## Memory words (08 to 10) -/

/-- The access `o` passes the dereference check, does not use the page a logged access waits for, meets no watch, and
lands at `l` (R157, R184, R338, R425). -/
structure Lands (s : State) (t : Thread) (o : OpLog) (stored : Cap) (l : Loc) : Prop where
  check : s.deref t o.cap (s.askOf t o stored) = none
  page : s.logPage t o = false
  watch : ∀ rd wr, s.watched t o.cap.space (s.remapped t o.cap.space o.ea.1.toNat) o.width rd wr = false
  place : s.land t o.cap.space o.ea.1.toNat o.want = .ok l

/-- No channel is short of time: no partition has a limit there or waits, and few requests were served in this window (R355). -/
def Calm (s : State) : Prop := ∀ c ∈ s.slices, c.arb = [] ∧ c.waits = [] ∧ c.uses.length < 600

/-- No pending write touches the granules of [a, a + n). -/
def Unwritten (s : State) (a n : Nat) : Prop := ∀ p ∈ s.stores, p.touches a n = false ∧ p.touches (a / 16 * 16) 16 = false

/-- The thread is in its train and has arrived at no barrier of its group: no other thread's going on touches it (R182, R327). -/
def Issuing (s : State) (t : Thread) : Prop :=
  (∃ h, t.run = .train h) ∧ ∀ g ∈ s.groups, g.launch = t.id.launch → g.num = t.id.group → g.arrived.getLsbD t.id.num = false

/-- The `n` bytes at a place can be accessed now: the thread has no read in flight that the access would have to wait for (R246, R249), data
SRAM exists and has no pending write there, HBM is scrubbed and without error, its slice runs (R354), and for a strongly ordered page the
thread's order is met (R245) and no write of the granules is pending. -/
def Settled (s : State) (t : Thread) (l : Loc) (n : Nat) : Prop :=
  Issuing s t ∧ s.ownFlight t = false ∧ s.ownFlightOver t l.key n = false ∧ s.acquireHolds t l.kind = false ∧ Calm s ∧ match l with
  | .sram cu off => cu < s.cus.length ∧ off + n ≤ 2 ^ 20 ∧ Memory.wf (s.cu cu).sram = true ∧ setSorted 0 (s.cu cu).sramTags = true ∧ Unwritten s l.key n
  | .hbm pa kind _ => pa + n ≤ 2 ^ 47 ∧ Memory.wf s.mem = true ∧ setSorted 0 s.tags = true ∧ (s.frame (pa / 65536)).scrub = false
      ∧ (s.slice (sliceOfPa pa)).held = false ∧ (∀ g ∈ granulesOf pa n, setHas s.poison g = false ∧ s.eccAt g = none)
      ∧ (kind = .so → s.orderMet t 5 false = true ∧ Unwritten s pa n)
  | .peer _ _ => False

/-- The bytes an observer finds at a place: those that the writes performed with respect to it leave (R242). -/
def peek (s : State) (see : PStore → Bool) (l : Loc) (n : Nat) : List Byte := s.seenBytes see l.key n

/-- The tag an observer finds at a granule: none in an HBM page that carries no tags. -/
def peekTag (s : State) (see : PStore → Bool) (l : Loc) : Bool := l.tagged && s.seenTag see (l.key / 16)

/-- What a CU's memories hold: data SRAM and its tags, operand buffer, weight slots, tiles. -/
def contents (c : Cu) : Mem × List Nat × Mem × List WSlot × List Tile := (c.sram, c.sramTags, c.ob, c.wslots, c.tiles)

/-- Every memory holds what it held: HBM and its tags, and those of the CUs. -/
def SameData (s s' : State) : Prop := s'.mem = s.mem ∧ s'.tags = s.tags ∧ ∀ n, contents (s'.cu n) = contents (s.cu n)

/-- Nothing in any memory changes, and no pending write. -/
def SameMemory (s s' : State) : Prop := SameData s s' ∧ s'.stores = s.stores

/-- A pending write but for what happens before what, and who has read it. -/
def bareStore (p : PStore) : PStore := { p with hb := [], readers := [] }

/-- The pending writes, in coherence order. -/
def pendingWrites (s : State) : List PStore := (s.stores.filter (fun p => !p.done)).map bareStore

/-- Nothing but the machine's traffic differs: caches and TLBs, the requests of the beats, the channels' counts, rows and turns, corrected
errors, the counts of the performance counters, and, of the pending writes, what happens before what. -/
structure OnlyTraffic (s s' : State) : Prop where
  rest : s' = { s with cus := s'.cus, slices := s'.slices, trains := s'.trains, ecc := s'.ecc, stores := s'.stores, contexts := s'.contexts }
  contexts : s'.contexts.map (fun (c : Context) => { c with perf := [] }) = s.contexts.map (fun (c : Context) => { c with perf := [] })
  data : SameData s s'
  stores : pendingWrites s' = pendingWrites s
  trains : s'.trains.map (fun r => { r with reqs := [] }) = s.trains.map (fun r => { r with reqs := [] })
  slices : ∀ n, let c := s'.slice n
    c = { s.slice n with tlb := c.tlb, l2 := c.l2, uses := c.uses, waits := c.waits, turns := c.turns, rows := c.rows, rowGroups := c.rowGroups, events := c.events }

/-- `s'` differs from `s` in the bytes at `l`: to the storing thread they read as `bytes`, and every other byte of every
memory reads as before. -/
def StoredAt (s s' : State) (t : Thread) (l : Loc) (bytes : List Byte) : Prop :=
  (∀ a, (a < l.key ∨ l.key + bytes.length ≤ a) → s'.baseByte a = s.baseByte a)
    ∧ ∀ a, s'.seenByte t.sees a = if l.key ≤ a ∧ a < l.key + bytes.length then bytes.getD (a - l.key) 0 else s.seenByte t.sees a

/-- The same for an atomic of `n` bytes, whose thread then also sees the writes that it read (R230, R242). -/
def AtomicAt (s s' : State) (t : Thread) (l : Loc) (n : Nat) (bytes : List Byte) : Prop :=
  (∀ a, (a < l.key ∨ l.key + bytes.length ≤ a) → s'.baseByte a = s.baseByte a)
    ∧ ∀ a, s'.seenByte t.sees a = if l.key ≤ a ∧ a < l.key + bytes.length then bytes.getD (a - l.key) 0
        else s.seenByte (fun p => t.sees p || p.touches l.key n) a

/-- The thread has read from releases, which a later fence of it may take (R249), and remembers the pending writes it has read (R254);
nothing else of it changes. -/
def Sys2Proof.Machine.Thread.having (t : Thread) (hs : List Head) (ns : List Nat) : Thread := { t with got := hs, seen := ns }

/-- What an access of the word `w` with code `op` logs: its index and operands. -/
def accessOf (op : Nat) (w : XWord) (t : Thread) (none : Nat) (data data2 : BitVec 128) : OpLog :=
  { logOf op w t with idx := indexOf w t none, data := data, data2 := data2 }

/-- 06 R157: THE DEREFERENCE CHECK: a capability may be used for an access exactly when it is tagged, unsealed, of no revoking colour,
holds the permissions, covers the bytes asked, and they lie in the window of its space, in reach, and aligned. 08 R203, R220, 09 R226: the effective address: the cursor plus the signed index, scaled by the element size where the
word asks so (a load or store) or by the width (an atomic). -/
def Obligations.AddressesAndTheirCheck : Prop :=
  (∀ (s : State) (t : Thread) (x : Cap) (q : Ask),
    s.deref t x q = none ↔ x.tag = true ∧ x.otype = 0 ∧ s.colourFor t x.colour ≠ 2 ∧ x.perm &&& q.need = q.need ∧ q.lacks = false
      ∧ (x.decode.1 : Int) ≤ q.ea ∧ q.ea + (q.n : Int) ≤ (x.decode.2 : Int) ∧ q.column = false
      ∧ s.inWindow t x.space (s.remapped t x.space q.ea.toNat) q.n = true
      ∧ s.local? t x.space (s.remapped t x.space q.ea.toNat) = true ∧ s.peersNear t x.space (s.remapped t x.space q.ea.toNat) q.n = true
      ∧ s.remapped t x.space q.ea.toNat % q.al = 0)
  ∧ (∀ (w : XWord) (t : Thread) (op : Nat) (none : Nat) (v v2 : BitVec 128),
    let o := accessOf op w t none v v2
    let idx := if w.bit none then 0 else (t.reg w.b.toNat).toInt
    let cur : Int := (t.quad w.a.toNat).cursor
    (op ∈ [0x40, 0x41, 0x80, 0x81] →
      o.ea.1 = cur + idx * (if w.bit 4 then ((2 ^ (t.quad w.a.toNat).esize : Nat) : Int) else 1))
    ∧ (op ∈ [0x83, 0x84, 0x85] → o.ea.1 = cur + idx * (if w.bit 1 then 8 else 4))
    ∧ (op = 0x86 → o.ea.1 = cur + idx * 16))

/-- The word `i` goes on with its result in flight: a read of `n` bytes at `l` for its registers, which it writes when it lands (R209). -/
def GoesLate (i : Instr) (s : State) (t : Thread) (l : Loc) (n : Nat) (k : FlightKind) : Prop :=
  ∃ (s' : State) (f : Flight), exec i s = .next (s'.goesOn t) ∧ SameMemory s s' ∧ s'.flights = s.flights ++ [f]
    ∧ f.thread = t.id ∧ f.kind = k ∧ f.loc = l ∧ f.n = n ∧ f.answer = none ∧ f.gen = (s.part t.ctx.part).gen

/-- 08 R202 to R207, R209: a load of bytes writes its registers with what its thread sees at its place, extended below four
bytes; `ldc` writes a quad, tagged when the granule is, under LC, with a live colour; where the memory is late the word goes on and its result is in
flight; an absent page is asked for and the thread goes on with its registers pending (R183, R184). Nothing else of the thread changes. -/
def Obligations.Loads : Prop :=
  (∀ (w : XWord) (s : State) (t : Thread) (i : Instr) (o : OpLog) (l : Loc),
    (i, o) ∈ [(Instr.ld w, accessOf 0x40 w t 9 0 0), (.ldv w, { logOf 0x42 w t with idx := t.reg w.b.toNat, col := t.reg w.c.toNat })] →
    Ready i s t → t.mid = true →
    (i = .ldv w → o.cap.esize ≤ 4 ∧ viewRegOk t w.d.toNat o.cap.esize = true ∧ (viewRegs w.d.toNat o.cap.esize).any t.pending.contains = false
      ∧ s.flightRegs t (viewRegs w.d.toNat o.cap.esize) = false) →
    Lands s t o Cap.null l → Settled s t l o.width →
    (s.memLate = false ∨ l.kind = .so →
      let v := bytesNat (peek s t.sees l o.width)
      ∃ (s' : State) (t' : Thread) (hs : List Head) (ns : List Nat), exec i s = .next (s'.goesOn t') ∧ OnlyTraffic s s'
        ∧ Wrote (t.having hs ns) t' ((List.range ((o.width + 3) / 4)).map (w.d.toNat + ·))
        ∧ (o.width < 4 → t'.reg w.d.toNat = if w.bit 3 then (BitVec.ofNat (8 * o.width) v).signExtend 32 else BitVec.ofNat 32 v)
        ∧ (4 ≤ o.width → t'.data (o.width / 4) w.d.toNat = v))
    ∧ (s.memLate = true → l.kind ≠ .so → GoesLate i s t l o.width (.load w.d.toNat (w.bit 3))))
  ∧ (∀ (w : XWord) (s : State) (t : Thread) (l : Loc), Ready (.ldc w) s t → t.mid = true →
    let o := accessOf 0x41 w t 9 0 0
    Lands s t o Cap.null l → Settled s t l 16 →
    let c : Cap := { bits := BitVec.ofNat 128 (bytesNat (peek s t.sees l 16)), tag := false }
    (s.memLate = false ∨ l.kind = .so →
      ∃ (s' : State) (t' : Thread) (hs : List Head) (ns : List Nat), exec (.ldc w) s = .next (s'.goesOn t') ∧ OnlyTraffic s s' ∧ WroteQuad (t.having hs ns) t' w.d.toNat { c with
        tag := peekTag s t.sees l && (t.quad w.a.toNat).holds permLC && decide (s.colourState t.ctx.part c.colour = 1) })
    ∧ (s.memLate = true → l.kind ≠ .so → GoesLate (.ldc w) s t l 16 (.loadCap w.d.toNat ((t.quad w.a.toNat).holds permLC))))
  ∧ (∀ (w : XWord) (s : State) (t : Thread) (va : Nat), Ready (.ld w) s t → t.mid = true →
    let o := accessOf 0x40 w t 9 0 0
    s.deref t o.cap (s.askOf t o Cap.null) = none → t.log = none → t.debug = false →
    s.land t o.cap.space o.ea.1.toNat .read = .absent va → s.requestsFull t.ctx.part (va / 65536) = false →
    t.ctx.part < s.vfs.length → ∃ (s' : State) (t' : Thread), exec (.ld w) s = .next (s'.goesOn t') ∧ ((s.vf t.ctx.part).prRun = false → SameMemory s s') ∧ t' = { t with log := t'.log, pending := t'.pending }
      ∧ t'.pending = (List.range ((o.width + 3) / 4)).map (w.d.toNat + ·)
      ∧ (∃ g, t'.log = some g ∧ g.page = va / 65536 ∧ g.dst = w.d)
      ∧ (s'.vf t.ctx.part).reqs.any (·.page == va / 65536) = true)

/-- 09 R219 to R224, R248: a store writes the bytes of its registers at its place, and clears their granules' tags; `stc` writes a
quad with its tag unless its colour is revoking. Every other byte is as it was. -/
def Obligations.Stores : Prop :=
  (∀ (w : XWord) (s : State) (t : Thread) (i : Instr) (o : OpLog) (v : Nat) (l : Loc),
    (i, o, v) ∈ [(Instr.st w, accessOf 0x80 w t 9 (BitVec.ofNat 128 (t.data (widthRegs (w.bits 2 0)) w.c.toNat)) 0,
        t.data (widthRegs (w.bits 2 0)) w.c.toNat),
      (.stv w, { logOf 0x82 w t with
          idx := t.reg w.b.toNat, col := t.reg w.c.toNat
          data := BitVec.ofNat 128 (t.data (viewRegCount (t.quad w.a.toNat).esize) w.d.toNat) },
        t.data (viewRegCount (t.quad w.a.toNat).esize) w.d.toNat)] →
    Ready i s t → t.mid = true →
    (i = .stv w → o.cap.esize ≤ 4 ∧ viewRegOk t w.d.toNat o.cap.esize = true ∧ (viewRegs w.d.toNat o.cap.esize).any t.pending.contains = false
      ∧ s.flightRegs t (viewRegs w.d.toNat o.cap.esize) = false) →
    Lands s t o Cap.null l → Settled s t l o.width → (w.bit 5 = true → s.orderMet t (w.bits 8 6 + 1) false = true) →
    ∃ s' : State, exec i s = .next (s'.goesOn t) ∧ StoredAt s s' t l (natBytes o.width v) ∧ peekTag s' t.sees l = false)
  ∧ (∀ (w : XWord) (s : State) (t : Thread) (l : Loc), Ready (.stc w) s t → t.mid = true →
    let q := t.quad w.c.toNat
    let o : OpLog := { accessOf 0x81 w t 9 q.bits 0 with dataTag := q.tag }
    Lands s t o q l → Settled s t l 16 → (w.bit 5 = true → s.orderMet t (w.bits 8 6 + 1) false = true) →
    ∃ s' : State, exec (.stc w) s = .next (s'.goesOn t) ∧ StoredAt s s' t l (natBytes 16 q.bits.toNat)
      ∧ (l.tagged = true → peekTag s' t.sees l = (q.tag && !decide (s.colourFor t q.colour = 2))))

/-- The new values of R227 for the integer operations, on 32 or 64 bits. -/
def atomTable {n : Nat} (op : Nat) (old v : BitVec n) : BitVec n :=
  [ old + v, old &&& v, old ||| v, old ^^^ v, if old.toInt ≤ v.toInt then old else v, if v.toInt ≤ old.toInt then old else v,
    if old.toNat ≤ v.toNat then old else v, if v.toNat ≤ old.toNat then old else v, v, if v.toNat ≤ old.toNat then 0 else old + 1,
    if old = 0 ∨ v.toNat < old.toNat then v else old - 1 ].getD op 0

/-- 09 R227 to R230, R233: the atomics at their place: `atom` and `red` store the operation's value, `acas` and `acasc` the new value
where the newest in the coherence order is the expected one; all but `red` write what they read. In a deterministic launch a sum into a
line of the line-ownership table is kept for the launch's end. -/
def Obligations.Atomics : Prop :=
  (∀ (w : XWord) (s : State) (t : Thread) (i : Instr) (o : OpLog) (l : Loc), t.mid = true → (w.bits 7 6 / 2 = 1 → s.orderMet t (w.bits 10 8 + 1) false = true) →
    let n := if w.bit 1 then 64 else 32
    let k := if w.bit 1 then 2 else 1
    let old := BitVec.ofNat n (bytesNat (peek s seesAll l (n / 8)))
    let v := BitVec.ofNat n (t.data k w.c.toNat)
    let d := (List.range k).map (w.d.toNat + ·)
    (i, o) ∈ [(Instr.atom w, accessOf 0x83 w t 0 (atomData w t w.c.toNat) 0), (.red w, accessOf 0x85 w t 0 (atomData w t w.c.toNat) 0),
      (.acas w, accessOf 0x84 w t 0 (atomData w t w.c.toNat) (atomData w t (w.c.toNat + k)))] →
    Ready i s t → Lands s t o Cap.null l → Settled s t l (n / 8) → s.writesHeld l.key (n / 8) (fun p => p.thread == t.id) = false →
    (i ≠ .acas w → w.bits 5 2 < 11 → (i = .red w → s.launchFlag t 0 = false) →
      ∃ (s' : State) (t' : Thread) (hs : List Head) (ns : List Nat), exec i s = .next (s'.goesOn t')
        ∧ AtomicAt s s' t l (n / 8) (natBytes (n / 8) (atomTable (w.bits 5 2) old v).toNat)
        ∧ (i = .red w → t' = t.having hs ns) ∧ (i = .atom w → Wrote (t.having hs ns) t' d ∧ t'.data k w.d.toNat = old.toNat))
    ∧ (i ≠ .acas w → 11 ≤ w.bits 5 2 → (i = .red w → s.launchFlag t 0 = false) →
      let f := if w.bit 1 then Fmt.f64 else Fmt.f32
      ∃ (s' : State) (t' : Thread) (hs : List Head) (ns : List Nat) (r : FRes), exec i s = .next (s'.goesOn t') ∧ AtomicAt s s' t l (n / 8) (natBytes (n / 8) r.bits)
        ∧ (w.bits 5 2 = 11 → SumOf f .rn (f.read old.toNat) (f.read v.toNat) r) ∧ (w.bits 5 2 = 12 → ExtremeOf f false old.toNat v.toNat r)
        ∧ (w.bits 5 2 = 13 → ExtremeOf f true old.toNat v.toNat r)
        ∧ (i = .red w → t' = t.having hs ns) ∧ (i = .atom w → Wrote (t.having hs ns) t' d ∧ t'.data k w.d.toNat = old.toNat))
    ∧ (i = .acas w → ∃ (s' : State) (t' : Thread) (hs : List Head) (ns : List Nat), exec i s = .next (s'.goesOn t') ∧ Wrote (t.having hs ns) t' d ∧ t'.data k w.d.toNat = old.toNat
        ∧ (old = v → AtomicAt s s' t l (n / 8) (natBytes (n / 8) (t.data k (w.c.toNat + k))))
        ∧ (old ≠ v → SameData s s' ∧ pendingWrites s' = pendingWrites s)))
  ∧ (∀ (w : XWord) (s : State) (t : Thread) (l : Loc), Ready (.acasc w) s t → t.mid = true → t.pageFail = none →
    (w.bits 7 6 / 2 = 1 → s.orderMet t (w.bits 10 8 + 1) false = true) →
    let x := t.quad w.c.toNat
    let y := t.quad (w.c.toNat + 4)
    let o := accessOf 0x86 w t 0 x.bits y.bits
    let old : Cap := { bits := BitVec.ofNat 128 (bytesNat (peek s seesAll l 16)), tag := peekTag s seesAll l }
    Lands s t o y l → Settled s t l 16 → s.writesHeld l.key 16 (fun p => p.thread == t.id) = false →
    ∃ (s' : State) (t' : Thread) (hs : List Head) (ns : List Nat), exec (.acasc w) s = .next (s'.goesOn t')
      ∧ WroteQuad (t.having hs ns) t' w.d.toNat { old with tag := old.tag && (t.quad w.a.toNat).holds permLC && decide (s.colourState t.ctx.part old.colour = 1) }
      ∧ (old = x → AtomicAt s s' t l 16 (natBytes 16 y.bits.toNat)) ∧ (old ≠ x → SameData s s' ∧ pendingWrites s' = pendingWrites s))
  ∧ (∀ (w : XWord) (s : State) (t : Thread) (va : Nat) (l : Loc), Ready (.red w) s t → t.mid = true →
    let o := accessOf 0x85 w t 0 (atomData w t w.c.toNat) 0
    Lands s t o Cap.null l → s.launchFlag t 0 = true → (w.bits 5 2 = 0 ∨ w.bits 5 2 = 11) →
    s.sharedLine t o.cap.space o.ea.1.toNat = true → s.gva t o.cap.space o.ea.1.toNat = some va → (∃ pa k tc, l = .hbm pa k tc) →
    ∃ s' : State, OnlyTraffic s s' ∧ exec (.red w) s = .next ((s'.modLaunch t.id.launch (fun l => { l with
      reds := l.reds ++ [{ group := t.id.group, thread := t.id.num, va := va, wide := w.bit 1, op := BitVec.ofNat 4 (w.bits 5 2)
                           v := BitVec.ofNat 64 (t.data (if w.bit 1 then 2 else 1) w.c.toNat) }] })).goesOn t))

/-- 09 R234 to R238, 10 R253 to R256: `wadr` goes on with 1 when the value is no more the expected one and sleeps as a watcher of its
granule else; `wake` wakes the first watchers in its own partition and counts them; `pf` always goes on and changes no value; `fence`
and `drain` go on when what they wait for is performed, and hold the thread till then. -/
def Obligations.MonitorsAndFences : Prop :=
  (∀ (w : XWord) (s : State) (t : Thread) (l : Loc), Ready (.wadr w) s t → t.mid = true → t.log = none → t.debug = false → t.pageFail = none →
    let n : Nat := if w.bit 5 then 8 else 4
    let x := t.quad w.a.toNat
    let ea := (x.cursor : Int) + (if w.bit 9 then 0 else (t.reg w.b.toNat).toInt) * (n : Int)
    s.deref t x { need := permLD + permAT, ea := ea, n := n, al := n, lacks := false, column := false } = none →
    s.land t x.space ea.toNat .read = .ok l →
    let expected := if w.bit 5 then (t.pair w.c.toNat).toNat else (t.reg w.c.toNat).toNat
    let arms := x.space ≠ 1 ∧ x.space ≠ 4 ∧ ∃ g, granuleOf l = some g ∧ s.canArm (t.cu / 4) g = true
    (¬arms → ∃ (s' : State) (t' : Thread), exec (.wadr w) s = .next (s'.goesOn t') ∧ OnlyTraffic s s'
        ∧ Wrote t t' [w.d.toNat] ∧ t'.reg w.d.toNat = 2)
    ∧ (arms → Settled s t l n → bytesNat (peek s t.sees l n) ≠ expected →
      ∃ (s' : State) (t' : Thread) (hs : List Head) (ns : List Nat), exec (.wadr w) s = .next (s'.goesOn t') ∧ OnlyTraffic s s'
        ∧ Wrote (t.having hs ns) t' [w.d.toNat] ∧ t'.reg w.d.toNat = 1)
    ∧ (arms → Settled s t l n → bytesNat (peek s t.sees l n) = expected → t.cu / 4 < s.monitors.length →
      ∃ (s' : State) (t' : Thread) (hs : List Head) (ns : List Nat), exec (.wadr w) s = .next s' ∧ s'.cur = some t'
          ∧ SameData s s' ∧ t' = { t.having hs ns with issued := true, run := t'.run }
          ∧ t'.run = .parked (.monitor w.d.toNat (if w.bits 4 0 = 0 then none else some (s.now t.cu + 2 ^ (w.bits 4 0 + 3)))) (s.now t.cu)
          ∧ ∃ g, granuleOf l = some g ∧ t.id ∈ s'.watchersOf g))
  ∧ (∀ (w : XWord) (s : State) (t : Thread) (l : Loc), Ready (.wake w) s t → t.mid = true → t.log = none → t.debug = false → t.pageFail = none →
    let x := t.quad w.a.toNat
    let ea := (x.cursor : Int) + (if w.bit 9 then 0 else (t.reg w.b.toNat).toInt)
    s.deref t x { need := permLD + permAT, ea := ea, n := 1, al := 1, lacks := false, column := false } = none →
    s.land t x.space ea.toNat .read = .ok l → Issuing s t →
    let watchers := fun (g : Granule) => (s.watchersIn (s.part t.ctx.part) g).filter (fun id => ((s.thread id).map (fun u => u.ctx.part == t.ctx.part)).getD false)
    let all := ((granuleOf l).map watchers).getD []
    let k := (t.reg w.c.toNat).toNat
    ∃ (s' : State) (t' : Thread), exec (.wake w) s = .next (s'.goesOn t') ∧ Wrote t t' [w.d.toNat] ∧ SameData s s'
      ∧ t'.reg w.d.toNat = BitVec.ofNat 32 (if k = 0 then all.length else min k all.length))
  ∧ (∀ (w : XWord) (s : State) (t : Thread), Ready (.pf w) s t → t.mid = true →
    ∃ s' : State, exec (.pf w) s = .next (s'.goesOn t) ∧ OnlyTraffic s s')
  ∧ (∀ (w : XWord) (s : State) (t : Thread), Ready (.fence w) s t → t.mid = true →
    let kind := w.bits 2 0
    let level := w.bits 8 6 + 1
    let met := t.mark.isSome = true ∨ kind = 0
      ∨ (s.orderMet t level (decide (kind = 4)) = true ∧ (3 ≤ kind → s.seenMet t level (decide (kind = 4)) = true))
    (met → ∃ (s' : State) (t' : Thread), exec (.fence w) s = .next (s'.goesOn t') ∧ SameData s s' ∧ pendingWrites s' = pendingWrites s
        ∧ t' = { t with got := t'.got, fenced := t'.fenced })
    ∧ (¬met → ∃ (s' : State) (t' : Thread), exec (.fence w) s = .next s' ∧ s'.cur = some t' ∧ t' = { t with issued := true, run := t'.run } ∧ SameMemory s s'
        ∧ ∃ h, t'.run = .train (some h) ∧ h.cond = .fence kind level))
  ∧ (∀ (w : XWord) (s : State) (t : Thread), Ready (.drain w) s t → t.mid = true → t.engFault = none →
    let n := t.mark.getD s.nextSerial
    (s.drained t (w.bits 2 0) n = true → exec (.drain w) s = .next (s.goesOn t))
    ∧ (s.drained t (w.bits 2 0) n = false → ∃ (s' : State) (t' : Thread), exec (.drain w) s = .next s' ∧ s'.cur = some t' ∧ SameMemory s s'
        ∧ t' = { t with issued := true, run := t'.run, mark := some n } ∧ ∃ h, t'.run = .train (some h) ∧ h.cond = .drain (w.bits 2 0) n))

/-! ## Engines (12) -/

/-- The engine words: the role's engine, the checks of the operands, whether nothing is left to do, the queues, the counter and the
operation (R283, R291, R296, R309 to R316). -/
def engineTable (w : XWord) (s : State) (t : Thread) : List (Instr × Prop × Prop × List Nat × EngineOp) :=
  let src := t.quad w.a.toNat
  let dst := t.quad w.d.toNat
  let n := (t.reg w.b.toNat).toNat
  let rows := (t.reg w.b.toNat).toNat
  let cols := (t.reg (w.b.toNat + 1)).toNat
  let stride := if w.bit 10 then (t.reg w.c.toNat).toNat else 0
  let nil := decide (rows = 0 ∨ cols = 0)
  let m := (t.reg w.c.toNat).toNat
  let es := 2 ^ src.esize
  let ea := bracketEa w t
  let len := (t.reg w.c.toNat).toNat
  let slot := (t.reg w.d.toNat).toNat
  let mask := (t.reg w.a.toNat).toNat % 32
  let copies := t.role.toNat % 4 = 0 ∨ t.role.toNat % 4 = 3
  let matrix := t.role.toNat % 4 = 1 ∨ t.role.toNat % 4 = 3
  let dest := if w.bit 10 then Place.ob (refNum (t.reg w.d.toNat)) (refOff (t.reg w.d.toNat)) else .mem dst dst.cursor
  let aligned := src.cursor % 16 = 0 ∧ n % 16 = 0 ∧ dst.cursor % 16 = 0
  let size := mstSize (w.bits 8 6)
  let ref := t.reg w.a.toNat
  let ask := fun (need k al : Nat) => ({ need := need, ea := ea, n := k, al := al, lacks := false, column := false } : Ask)
  [ (.cpy w, copies ∧ s.rangeCheck t src permLD n 1 = none ∧ s.destCheck t w n = none ∧ (w.bit 8 = true → n = 0 ∨ aligned), n = 0, [w.bits 1 0],
      .cpy dest (.mem src src.cursor) n (w.bit 8)),
    (.cpyv w, copies ∧ 1 ≤ src.pitch ∧ (if w.bit 8 then rows else cols) ≤ 2 ^ src.pitch
        ∧ (w.bit 10 = false → 1 ≤ dst.pitch ∧ dst.esize = src.esize ∧ cols ≤ 2 ^ dst.pitch)
        ∧ s.rangeCheck t src permLD (if nil then 0 else (if w.bit 8 then cols else rows) * 2 ^ src.pitch * es) 1 = none
        ∧ (if w.bit 10 then s.refCheck t (t.reg w.d.toNat) (if nil then 0 else rows * stride) (nil || decide (stride % 16 = 0 ∧ cols * es ≤ stride)) = none
           else s.rangeCheck t dst permST (if nil then 0 else rows * 2 ^ dst.pitch * 2 ^ dst.esize) 1 = none)
        ∧ (nil = false → src.cursor % es = 0 ∧ (w.bit 10 = false → dst.cursor % es = 0)),
      nil = true, [w.bits 1 0], .cpyv dest (.mem src src.cursor) rows cols (w.bit 8) stride),
    (.cpyg w, copies ∧ s.rangeCheck t (t.quad w.b.toNat) permLD (4 * m) 4 = none ∧ s.rangeCheck t dst permST (m * es) 1 = none
        ∧ s.derefHead t src permLD = none ∧ (m = 0 ∨ s.inWindow t src.space (s.remapped t src.space src.cursor) 1 = true
        ∧ s.local? t src.space (s.remapped t src.space src.cursor) = true ∧ src.cursor % es = 0 ∧ dst.cursor % es = 0), m = 0, [w.bits 1 0],
      .cpyg dest (.mem src src.cursor) (.mem (t.quad w.b.toNat) (t.quad w.b.toNat).cursor) m),
    (.cpyf w, copies ∧ s.destCheck t w n = none, n = 0, [w.bits 1 0], .cpyf dest (t.reg w.a.toNat) n),
    (.qfen w, t.role.toNat % 4 ≠ 2, mask = 0, (List.range 5).filter (fun q => mask.testBit q), .join s.nextSerial mask),
    (.wfill w, matrix ∧ slot < (s.allot t.ctx t.cu).2 ∧ len % 16 = 0 ∧ (if w.bit 10 then 288 ≤ len ∧ len ≤ 4384 else 16 ≤ len ∧ len ≤ 4096)
        ∧ s.deref t src (ask (permLD + permWT) len 16) = none, False, [4], .wfill slot (.mem src ea.toNat) len (w.bit 10)),
    (.mst w, matrix ∧ (if w.bit 10 then s.refCheck t ref (32 * n) (decide (n % 16 = 0 ∧ 32 * size ≤ n)) = none
        else s.derefHead t src permST = none ∧ es = size ∧ 5 ≤ src.pitch ∧ s.deref t src (ask permST (32 * 2 ^ src.pitch * size) size) = none),
      False, [4], .mst (if w.bit 10 then .ob (refNum ref) (refOff ref) else .mem src ea.toNat) (w.bits 8 6) (w.bits 3 0) (if w.bit 10 then n else 0)),
    (.mzro w, matrix, ref.setWidth 16 = (0 : BitVec 16), [4], .mzro (ref.setWidth 16)),
    (.obset w, matrix ∧ s.refCheck t ref (2 ^ w.bits 2 0) true = none ∧ refOff ref % 2 ^ w.bits 2 0 = 0, False, [4],
      .obset (refNum ref) (refOff ref) (natBytes (2 ^ w.bits 2 0) (t.data (widthRegs (w.bits 2 0)) w.c.toNat))) ]

/-- `s'` is `s` with one entry for the operation `op` of thread `t` at the end of each of the queues `qs`. -/
def Enqueued (s s' : State) (t : Thread) (qs : List Nat) (ctr : Nat) (op : EngineOp) : Prop :=
  SameMemory s s' ∧ s'.threads = s.threads ∧ s'.nextSerial = s.nextSerial + 1
    ∧ ∃ e : EngineEntry, e.thread = t.id ∧ e.ctr = ctr ∧ e.op = op ∧ e.begun = false ∧ e.blk = t.blk ∧ e.off = t.off ∧ e.serial = s.nextSerial
      ∧ ∀ q, s'.queue t.ctx t.cu q = if q ∈ qs then s.queue t.ctx t.cu q ++ [e] else s.queue t.ctx t.cu q

/-- The order, the acquires in flight, the counter and the queues let an operation be issued (R249, R257, R284, R383). -/
def CanEnqueue (s : State) (t : Thread) (qs : List Nat) (ctr : Nat) : Prop :=
  s.acquireHolds t .rc = false ∧ s.orderMet t (if qs.all (· == 4) then 1 else 3) false = true ∧ (t.cnt ctr).toNat < 255 ∧ (s.context t.ctx).isSome = true
    ∧ ∀ q ∈ qs, (s.queue t.ctx t.cu q).length < (if q = 4 then 16 else 32)

/-- 12 R283, R284, R291, R296, R309 to R312, R316: an engine word whose checks pass adds its operation to its queues and one to its counter,
and the thread goes on; nothing is moved yet. An operation of nothing is performed at once. -/
def Obligations.EngineWords : Prop :=
  (∀ (w : XWord) (s : State) (t : Thread) (i : Instr) (ok none : Prop) (qs : List Nat) (op : EngineOp),
    (i, ok, none, qs, op) ∈ engineTable w s t → Ready i s t → ok → t.mid = true →
    (none → s.acquireHolds t .rc = false → s.orderMet t 3 false = true → s.orderMet t 1 false = true → exec i s = .next (s.goesOn t))
    ∧ (¬none → CanEnqueue s t qs (w.bits 5 4) → ∃ s' : State, exec i s = .next (s'.goesOn (t.setCnt (w.bits 5 4) (t.cnt (w.bits 5 4) + 1)))
        ∧ Enqueued s s' t qs (w.bits 5 4) op))
  ∧ (∀ (w : XWord) (s : State) (t : Thread) (off : Nat), Ready (.mmo w) s t → t.mid = true → (t.role.toNat % 4 = 1 ∨ t.role.toNat % 4 = 3) →
    let x := t.quad w.a.toNat
    let bs := peek s t.sees (.sram t.cu off) 64
    s.deref t x { need := permLD, ea := bracketEa w t, n := 64, al := 64, lacks := false, column := false } = none → x.space = 3 →
    s.land t x.space (bracketEa w t).toNat .read = .ok (.sram t.cu off) → blockOk bs (readBlock bs) (s.allot t.ctx t.cu).2 = true →
    s.blockRefs t (readBlock bs) = none → CanEnqueue s t [4] (w.bits 5 4) →
    ∃ s' : State, exec (.mmo w) s = .next (s'.goesOn (t.setCnt (w.bits 5 4) (t.cnt (w.bits 5 4) + 1))) ∧ Enqueued s s' t [4] (w.bits 5 4) (.mmo x (bracketEa w t).toNat bs))
  ∧ (∀ (w : XWord) (s : State) (t : Thread), Ready (.obrel w) s t → t.mid = true → (t.role.toNat % 4 = 1 ∨ t.role.toNat % 4 = 3) →
    let v := (t.reg w.a.toNat).toNat
    let r := (s.resvs t).getD v Resv.free
    v < 16 → r.live = true → r.releasing = false → CanEnqueue s t [4] (w.bits 5 4) →
    ∃ s' : State, exec (.obrel w) s = .next (s'.goesOn (t.setCnt (w.bits 5 4) (t.cnt (w.bits 5 4) + 1))) ∧ Enqueued s s' t [4] (w.bits 5 4) (.obrel v)
      ∧ (s'.resvs t).getD v Resv.free = { r with releasing := true })
  ∧ (∀ (w : XWord) (s : State) (t : Thread),
    (∀ i ∈ [Instr.cpy w, .cpyv w, .cpyg w, .cpyf w], Ready i s t → (t.role.toNat % 4 = 1 ∨ t.role.toNat % 4 = 2) → exec i s = .next (s.trapped t .role 0))
    ∧ (∀ i ∈ [Instr.wfill w, .mmo w, .mst w, .mzro w, .mget w, .obres w, .obrel w, .obset w], Ready i s t →
      (t.role.toNat % 4 = 0 ∨ t.role.toNat % 4 = 2) → exec i s = .next (s.trapped t .role 0)))

/-- 12 R313, R314: `mget` reads an element of a tile its context owns, or the tile's flags, once the matrix operations issued before it are
performed; `obres` takes the lowest free reservation and the lowest range of the group's quota that fits, which meets no live one. -/
def Obligations.TilesAndReservations : Prop :=
  (∀ (w : XWord) (s : State) (t : Thread), Ready (.mget w) s t → t.mid = true → (t.role.toNat % 4 = 1 ∨ t.role.toNat % 4 = 3) → t.engFault = none →
    s.matrixDone t (t.mark.getD s.nextSerial) = true →
    let k := w.bits 7 6
    let i := w.bits 3 0
    let pos := (t.reg w.a.toNat).toNat
    let el := fun (j : Nat) => memNat (s.tile t.cu j).data (128 * (pos % 32) + 4 * (pos / 32 % 32)) 4
    (s.tile t.cu i).owner = some t.ctx → (k = 1 → (s.tile t.cu (i + 1)).owner = some t.ctx) →
    ∃ t', exec (.mget w) s = .next (s.goesOn t') ∧ Wrote t t' (valRegs (decide (k = 1)) w.d.toNat)
      ∧ t'.val (decide (k = 1)) w.d.toNat
        = if k = 0 then el i % 2 ^ 32 else if k = 1 then (el i + 2 ^ 32 * el (i + 1)) % 2 ^ 64 else (s.tile t.cu i).flags.toNat)
  ∧ (∀ (w : XWord) (s : State) (t : Thread) (g : Group) (n o : Nat), Ready (.obres w) s t → t.mid = true → (t.role.toNat % 4 = 1 ∨ t.role.toNat % 4 = 3) →
    let size := (t.reg w.a.toNat).toNat
    let fmt := (t.reg w.b.toNat).toNat % 256
    s.group t.id.launch t.id.group = some g → g.resvs.length = 16 → 0 < size → size % 256 = 0 → size ≤ g.obSize → (fmt < 6 ∨ fmt = 255) →
    n < 16 → (g.resvs.getD n Resv.free).live = false → (∀ k, k < n → (g.resvs.getD k Resv.free).live = true) →
    o % 256 = 0 → o + size ≤ g.obSize → resvFits g.resvs o size = true → (∀ q, q % 256 = 0 → q < o → resvFits g.resvs q size = false) →
    ∃ (s' : State) (t' : Thread), exec (.obres w) s = .next (s'.goesOn t') ∧ Wrote t t' [w.d.toNat] ∧ t'.reg w.d.toNat = BitVec.ofNat 32 n ∧ SameMemory s s'
      ∧ s'.resvs t = g.resvs.set n { live := true, releasing := false, size := size, fmt := (t.reg w.b.toNat).setWidth 8, off := o })

/-! ## Rings, barriers, child launches (13) -/

/-- A ring word as R323 and R324 give it: its instruction, its side, whether it releases, the predicate of a `.nb` form, the register
written, when it goes on, waits or takes QUEUE (the slot it uses, then, held what R321 wants), and what it leaves: the counters, the slot it
used, the word written there, the slot's state, the result; and what a waiting form is parked with. -/
structure RingForm where
  word : Instr
  cons : Bool
  rel : Bool
  nb : Option Nat
  dest : Option Nat
  goes : Prop
  waits : Prop
  refused : Prop
  counters : RingCnt
  slot : Nat
  put : Option Nat
  state : Nat
  result : Nat
  parks : Option RingOp

/-- The ring words of R324 on an instance. -/
def ringTable (w : XWord) (s : State) (t : Thread) (r : Ring) : List RingForm :=
  let n := r.slots
  let c := s.ringCnt r
  let up := fun (x : Nat) => (x + 1) % (2 * n)
  let nb := fun (p : Nat) => if w.bit 6 then some p else none
  let full := fun (phase : Nat) => 1 + 2 * (t.role.toNat % 4) + 8 * phase
  let p := c.pacq % n
  let q := c.cacq % n
  let room := c.send n ≠ 0
  let some := c.recv n ≠ 0
  let bare := s.slotState r p = 0
  let held := fun (i phase : Nat) => s.slotState r i % 2 = 1 ∧ s.slotState r i / 16 % 2 = 0 ∧ s.slotState r i / 8 % 2 = phase
  let word := fun (i : Nat) => memNat (s.cu r.cu).sram (r.base + 0x10 + 8 * i) 4
  let v := t.reg w.a.toNat
  let x := c.prel % n
  let y := c.crel % n
  [ { word := .qpush w, cons := false, rel := true, nb := nb w.d.toNat, dest := none, goes := room ∧ bare ∧ c.pacq = c.prel
      waits := ¬room ∧ c.pacq = c.prel, refused := c.pacq ≠ c.prel ∧ (room → bare)
      counters := { c with pacq := up c.pacq, prel := up c.prel }, slot := p, put := Option.some v.toNat, state := full (c.pacq / n)
      result := 0, parks := Option.some (.push v) },
    { word := .qpop w, cons := true, rel := false, nb := nb w.c.toNat, dest := Option.some w.d.toNat
      goes := some ∧ held q (c.cacq / n) ∧ c.cacq = c.crel, waits := ¬some ∧ c.cacq = c.crel
      refused := c.cacq ≠ c.crel ∧ (some → held q (c.cacq / n)), counters := { c with cacq := up c.cacq, crel := up c.crel }
      slot := q, put := none, state := 0, result := word q, parks := Option.some (.pop w.d.toNat) },
    { word := .stacq w, cons := w.bit 7, rel := false, nb := nb w.c.toNat, dest := Option.some w.d.toNat
      goes := if w.bit 7 then some ∧ held q (c.cacq / n) else room ∧ bare, waits := if w.bit 7 then ¬some else ¬room, refused := False
      counters := if w.bit 7 then { c with cacq := up c.cacq } else { c with pacq := up c.pacq }, slot := if w.bit 7 then q else p
      put := none, state := if w.bit 7 then s.slotState r q + 16 else 16, result := if w.bit 7 then q else p
      parks := Option.some (if w.bit 7 then .acqCons w.d.toNat else .acqProd w.d.toNat) },
    { word := .strel w, cons := w.bit 7, rel := !w.bit 7, nb := none, dest := none
      goes := if w.bit 7 then c.crel ≠ c.cacq ∧ s.slotState r y % 2 = 1 ∧ s.slotState r y / 16 % 2 = 1 ∧ v.toNat = y
        else c.prel ≠ c.pacq ∧ s.slotState r x = 16 ∧ v.toNat = x
      waits := False
      refused := if w.bit 7 then (c.crel = c.cacq ∧ (if some then held y (c.crel / n) else s.slotState r y = 0 ∨ s.slotState r y = 16))
          ∨ (c.crel ≠ c.cacq ∧ s.slotState r y % 2 = 1 ∧ s.slotState r y / 16 % 2 = 1 ∧ v.toNat ≠ y)
        else (c.prel = c.pacq ∧ (if room then s.slotState r x = 0 else s.slotState r x % 2 = 1)) ∨ (c.prel ≠ c.pacq ∧ s.slotState r x = 16 ∧ v.toNat ≠ x)
      counters := if w.bit 7 then { c with crel := up c.crel } else { c with prel := up c.prel }, slot := if w.bit 7 then y else x
      put := if w.bit 8 && !w.bit 7 then Option.some (t.reg w.b.toNat).toNat else none
      state := if w.bit 7 then 0 else full (c.prel / n), result := 0, parks := none } ]

/-- 13 R319 to R325: a ring word on a sound ring of its team: where it can go on it does, the counters advance by one modulo twice the slots,
and its slot holds the word and the state of R324; without waiters no other byte of the CU's data SRAM changes. `qpop` reads the slot's word,
`stacq` its index. A `.nb` form that has to wait goes on with its predicate false, one that need not with it true; a form that waits parks.
A push or pop with a claimed slot, and a release of a slot that is not the next or not claimed, take QUEUE. -/
def Obligations.RingWords : Prop :=
  ∀ (w : XWord) (s : State) (t : Thread) (m : Team) (r : Ring) (f : RingForm), f ∈ ringTable w s t r → Ready f.word s t → t.mid = true →
    s.teamOf t.id.launch t.id.group = some m → m.ring (s.handle t.ctx (w.bits 5 0)) = some r →
    2 ≤ r.slots → r.slots ≤ 64 → r.cu < s.cus.length → Memory.wf (s.cu r.cu).sram = true → s.ringOk r = true → (∀ x ∈ m.waits, x.thread ≠ t.id) →
    Issuing s t →
    (s.launchFlag t 3 = true → t.role.toNat / 4 = bitsOf (s.handle t.ctx (w.bits 5 0)) (if f.cons then 23 else 21) (if f.cons then 22 else 20)) →
    (f.rel = true → s.orderMet t 2 false = true) → s.ownFlight t = false →
    (∀ p ∈ s.stores, p.touches (sramKey r.cu r.base) (16 + 8 * r.slots) = false) →
    (f.goes → ∃ (s' : State) (t1 t2 : Thread) (hs : List Head) (ns : List Nat), exec f.word s = .next (s'.goesOn t2) ∧ s'.mem = s.mem
      ∧ (f.dest = none → t1 = t.having hs ns) ∧ (∀ d, f.dest = some d → Wrote (t.having hs ns) t1 [d] ∧ t1.reg d = BitVec.ofNat 32 f.result)
      ∧ (f.nb = none → t2 = t1) ∧ (∀ p, f.nb = some p → WrotePred t1 t2 p true)
      ∧ (m.waits = [] → s'.ringCnt r = f.counters ∧ s'.slotState r f.slot = f.state
        ∧ memNat (s'.cu r.cu).sram (r.base + 0x10 + 8 * f.slot) 4 = f.put.getD (memNat (s.cu r.cu).sram (r.base + 0x10 + 8 * f.slot) 4)
        ∧ ∀ a, (a < r.base ∨ r.base + 4 ≤ a) → (a < r.base + 0x10 + 8 * f.slot ∨ r.base + 0x15 + 8 * f.slot ≤ a) →
          memRead (s'.cu r.cu).sram a = memRead (s.cu r.cu).sram a))
    ∧ (f.waits → ∀ p, f.nb = some p → ∃ (s' : State) (t' : Thread), exec f.word s = .next (s'.goesOn t') ∧ WrotePred t t' p false
      ∧ SameData s s' ∧ pendingWrites s' = pendingWrites s)
    ∧ (f.waits → f.nb = none → ∀ o, f.parks = some o → ∃ (s' : State) (t' : Thread), exec f.word s = .next s' ∧ s'.cur = some t' ∧ SameData s s' ∧ pendingWrites s' = pendingWrites s
      ∧ t' = { t with issued := true, steps := false, run := .parked (.ring (w.bits 5 0) o) (s.now t.cu) })
    ∧ (f.refused → ∃ s' : State, exec f.word s = .next (s'.trapped t .queue 0) ∧ s'.cur = s.cur ∧ SameData s s' ∧ pendingWrites s' = pendingWrites s)

/-- 13 R327, R328, R330, R331: `bar` parks its thread and counts it as arrived, and the last thread's arrival lets the whole group go on; `hbar`
the same for its team's groups; `launch` makes a waiting child with a token; `join` of a child with an outcome writes it, frees the entry and
advances its sequence number, and parks while there is none. -/
def Obligations.BarriersAndChildren : Prop :=
  (∀ (w : XWord) (s : State) (t : Thread) (g : Group), Ready (.bar w) s t → t.mid = true → s.orderMet t 1 false = true →
    s.group t.id.launch t.id.group = some g → (∃ u ∈ s.threads, u.id.launch = t.id.launch ∧ u.id.group = t.id.group ∧ u.id.num < 1024 ∧ u.id.num ≠ t.id.num
      ∧ g.arrived.getLsbD u.id.num = false) → t.id.num < 1024 →
    ∃ (s' : State) (t' : Thread), exec (.bar w) s = .next s' ∧ s'.cur = some t' ∧ t' = { t with issued := true, steps := false, run := .parked .barrier (s.now t.cu) }
      ∧ SameMemory s s' ∧ (∃ g', s'.group t.id.launch t.id.group = some g' ∧ g'.arrived = g.arrived ||| (1#1024 <<< t.id.num)))
  ∧ (∀ (w : XWord) (s : State) (t : Thread) (g : Group), Ready (.bar w) s t → t.mid = true → s.orderMet t 1 false = true → t.id.num < 1024 →
    s.group t.id.launch t.id.group = some g → (∀ u ∈ s.threads, ¬(u.id.launch = t.id.launch ∧ u.id.group = t.id.group)) →
    ∃ (s' : State) (t' : Thread), exec (.bar w) s = .next s' ∧ s'.cur = some t' ∧ t'.off = t.off + 1 ∧ t'.run = .eligible (s.now t.cu) 0 ∧ t'.regs = t.regs
      ∧ (∃ g', s'.group t.id.launch t.id.group = some g' ∧ g'.arrived = 0))
  ∧ (∀ (w : XWord) (s : State) (t : Thread) (m : Team), Ready (.hbar w) s t → t.mid = true →
    let h := w.bits 5 0
    hKind (s.handle t.ctx h) = 2 → (s.launchFlag t 3 = true → (bitsOf (s.handle t.ctx h) 11 8).testBit (t.role.toNat / 4) = true) →
    s.orderMet t 2 false = true → s.teamOf t.id.launch t.id.group = some m → (∀ u ∈ s.threads, u.id ≠ t.id) → Issuing s t →
    ∃ (s' : State) (t' : Thread), exec (.hbar w) s = .next s' ∧ s'.cur = some t' ∧ SameData s s' ∧ t'.regs = t.regs
      ∧ (t'.run = .parked (.teamBarrier h) (s.now t.cu) ∨ t'.run = .eligible (s.now t.cu) 0))
  ∧ (∀ (w : XWord) (s : State) (t : Thread) (m : Team) (l : Launch) (p : Loc), Ready (.launch w) s t → t.mid = true →
    let o := logOf 0x06 w t
    t.id.num = 0 → t.id.group % s.teamSize t.id.launch = 0 → s.launch t.id.launch = some l → l.depth < 10 → s.teamOf t.id.launch t.id.group = some m →
    m.freeChildren ≠ [] → Lands s t o Cap.null p → Settled s t p 128 → p.tagged = true → s.orderMet t 3 false = true →
    (reservedSet (peek s t.sees p 128) = false →
      ∃ (s' : State) (t' : Thread) (hs : List Head) (ns : List Nat) (e : Nat) (k : Launch), exec (.launch w) s = .next (s'.goesOn t') ∧ e ∈ m.freeChildren
      ∧ Wrote (t.having hs ns) t' [w.d.toNat]
      ∧ t'.reg w.d.toNat = BitVec.ofNat 32 (e + 256 * (m.child e).seq.toNat) ∧ s'.launches = s.launches ++ [k] ∧ k.phase = .waiting
      ∧ k.depth = l.depth + 1 ∧ k.desc = peek s t.sees p 128 ∧ k.ctx = t.ctx ∧ k.uid = s.nextLaunch ∧ SameData s s' ∧ pendingWrites s' = pendingWrites s)
    ∧ (reservedSet (peek s t.sees p 128) = true → exec (.launch w) s = .next (s.trapped t .illegalOperand 0)))
  ∧ (∀ (w : XWord) (s : State) (t : Thread) (m : Team), Ready (.join w) s t → t.mid = true → s.teamOf t.id.launch t.id.group = some m →
    let v := (t.reg w.a.toNat).toNat
    let c := m.child (v % 32)
    c.used = true → v = v % 32 + 256 * c.seq.toNat →
    (∀ r, c.result = some r → ∃ (s' : State) (t' : Thread) (m' : Team), exec (.join w) s = .next (s'.goesOn t') ∧ Wrote t t' [w.d.toNat] ∧ t'.reg w.d.toNat = r.setWidth 32
      ∧ s'.teamOf t.id.launch t.id.group = some m' ∧ (v % 32 < m.children.length → m'.child (v % 32) = { c with used := false, seq := c.seq + 1, result := none }))
    ∧ (c.result = none → ∃ (s' : State) (t' : Thread), exec (.join w) s = .next s' ∧ s'.cur = some t' ∧ t'.off = t.off
        ∧ t'.run = .parked (.join (v % 32) w.d.toNat) (s.now t.cu) ∧ t'.regs = t.regs))

/-! ## Counters, special registers, firmware calls (16, 17) -/

/-- 16 R384 to R389, 04 R95: `wait` goes on when its counters are low enough, and parks else; `clk` reads the launch's period in a deterministic launch, else the
CU's cycles or the time count with the context's offset; `rds` reads special registers; `wrs` writes `s.fps` alone; `perfc` reads at most the
counted occurrences and none older than 64 cycles left out, and selects an event with the count cleared. -/
def Obligations.CountersAndSpecialRegisters : Prop :=
  (∀ (w : XWord) (s : State) (t : Thread), Ready (.wait w) s t → t.mid = true → t.engFault = none →
    let met := if w.bit 10 then ∀ k, k < 4 → (t.cnt k).toNat ≤ w.bits 7 0 else (t.cnt (w.bits 9 8)).toNat ≤ w.bits 7 0
    (met → s.orderMet t 1 true = true → s.seenMet t 1 true = true →
      ∃ (s' : State) (t' : Thread), exec (.wait w) s = .next (s'.goesOn t') ∧ t' = { t with got := t'.got, fenced := t'.fenced } ∧ SameData s s'
        ∧ pendingWrites s' = pendingWrites s)
    ∧ (¬met → ∃ (s' : State) (t' : Thread), exec (.wait w) s = .next s' ∧ s'.cur = some t' ∧ t'.off = t.off ∧ t'.regs = t.regs
        ∧ t'.run = .parked (.wait (w.bit 10) (w.bits 9 8) (w.bits 7 0)) (s.now t.cu)))
  ∧ (∀ (w : XWord) (s : State) (t : Thread) (l : Launch) (c : Context), Ready (.clk w) s t → t.mid = true → s.launch t.id.launch = some l →
    s.context t.ctx = some c →
    ∃ (s' : State) (t' : Thread), exec (.clk w) s = .next (s'.goesOn t') ∧ Wrote t t' [w.d.toNat, w.d.toNat + 1] ∧ SameMemory s s'
      ∧ t'.pair w.d.toNat = if l.flags.getLsbD 0 then l.period else if w.bit 0 then BitVec.ofNat 64 (s.now t.cu)
          else BitVec.ofNat 64 s.time + c.clkOff)
  ∧ (∀ (w : XWord) (s : State) (t : Thread) (l : Launch) (c : Context), Ready (.rds w) s t → t.mid = true → s.launch t.id.launch = some l →
    s.context t.ctx = some c → w.bits 5 0 = 0x0A →
    ∃ (s' : State) (t' : Thread), exec (.rds w) s = .next (s'.goesOn t') ∧ Wrote t t' [w.d.toNat, w.d.toNat + 1] ∧ SameMemory s s'
      ∧ t'.pair w.d.toNat = if l.flags.getLsbD 0 then l.period else BitVec.ofNat 64 s.time + c.clkOff)
  ∧ (∀ (w : XWord) (s : State) (t : Thread) (v : Nat), Ready (.rds w) s t → t.mid = true →
    (w.bits 5 0, v) ∈ [(0x00, t.id.num), (0x01, t.id.group), (0x02, t.id.group / s.teamSize t.id.launch), (0x07, ((s.launch t.id.launch).map (·.depth)).getD 0), (0x10, s.modeOf t), (0x11, s.aownOf t), (0x03, s.lcu t), (0x04, s.lcu t / 4), (0x05, s.lcu t / 12), (0x06, t.role.toNat),
      (0x08, t.ctx.id), (0x09, (s.part t.ctx.part).gen.toNat), (0x0B, (0#6 ++ t.off ++ t.blk : BitVec 32).toNat), (0x0C, t.fps.toNat), (0x0D, t.fcode.toNat),
      (0x0E, t.faddr.toNat), (0x0F, t.fblk.toNat), (0x12, (t.w3 ++ t.w2 ++ t.w1 ++ t.w0 : BitVec 32).toNat)] →
    ∃ t', exec (.rds w) s = .next (s.goesOn t') ∧ Wrote t t' (valRegs (decide (w.bits 5 0 = 0x0E)) w.d.toNat)
      ∧ t'.val (decide (w.bits 5 0 = 0x0E)) w.d.toNat = v % 2 ^ (if w.bits 5 0 = 0x0E then 64 else 32))
  ∧ (∀ (w : XWord) (s : State) (t : Thread), Ready (.wrs w) s t → t.mid = true →
    (w.bits 5 0 = 0x0C → exec (.wrs w) s = .next (s.goesOn { t with fps := (t.reg w.a.toNat).setWidth 5 }))
    ∧ (w.bits 5 0 ≠ 0x0C → exec (.wrs w) s = .next (s.trapped t .privilege 0)))
  ∧ (∀ (w : XWord) (s : State) (t : Thread), Ready (.perfcRd w) s t → t.mid = true →
    let k := (s.perfSet t.ctx t.cu).getD (w.bits 2 0) PerfCounter.reset
    ∃ t', exec (.perfcRd w) s = .next (({ s with free := s.free + 1 } : State).goesOn t') ∧ Wrote t t' [w.d.toNat, w.d.toNat + 1]
      ∧ ∃ n, n ≤ ((k.recent.filter (fun r => ((s.now t.cu : Nat) : Int) < r.1 + 64)).map (·.2)).sum ∧ t'.pair w.d.toNat = (k.val - BitVec.ofNat 48 n).setWidth 64)
  ∧ (∀ (w : XWord) (s : State) (t : Thread), Ready (.perfcSel w) s t → t.mid = true → (s.context t.ctx).isSome = true →
    let sel := (t.reg w.a.toNat).toNat % 256
    (sel < 16 → ∃ s' : State, exec (.perfcSel w) s = .next (s'.goesOn t) ∧ SameMemory s s'
      ∧ s'.perfSet t.ctx t.cu = (s.perfSet t.ctx t.cu).set (w.bits 2 0) { val := 0, sel := BitVec.ofNat 8 sel, recent := [] })
    ∧ (16 ≤ sel → exec (.perfcSel w) s = .next (s.trapped t .illegalOperand 0)))

/-- The call `i` is answered: its thread, now `t1`, waits at it with reason "late result", which clears at once (R182, R410); no memory changes. -/
def Answered (i : Instr) (s s' : State) (t t1 : Thread) : Prop :=
  exec i s = .next s' ∧ s'.cur = some { t1 with issued := true, steps := false, mark := some 0, run := .parked (.late .call) (s.now t.cu) }
    ∧ SameData s s' ∧ pendingWrites s' = pendingWrites s

/-- The call `i` has gone to firmware: its thread waits at it with reason "late result" until firmware has answered (R182, R410). -/
def Called (i : Instr) (s s' : State) (t : Thread) : Prop :=
  exec i s = .next s' ∧ s'.cur = some { t with issued := true, steps := false, run := .parked (.late .call) (s.now t.cu) }
    ∧ SameData s s' ∧ pendingWrites s' = pendingWrites s

/-- 17 R410, 14 R346, 15 R364, R365, R368: the firmware calls, once their release is performed and no acquire is in flight: each parks its thread with reason
"late result". `sysc.map` gives its record's address to firmware; `sysc.alloc` makes the lowest free colour live for the source's bounds and writes the recoloured
quad, or the null quad when none is free; `sysc.revoke` begins the colour's marking, or answers 1; `sysc.lown` of more than 64 ranges answers 1, and a list of one
range in the CU's own data SRAM sets the context's list and answers 0 where the range is good, else 1. -/
def Obligations.FirmwareCalls : Prop :=
  ∀ (w : XWord) (s : State) (t : Thread), t.mid = true → s.acquireHolds t .rc = false → s.orderMet t 5 false = true →
    let x := t.quad w.a.toNat
    let c := s.colour t.ctx.part x.colour
    (Ready (.syscMap w) s t → x.space = 0 →
      s.deref t x { need := permLD + permST, ea := (x.cursor : Int), n := 32, al := 32, lacks := false, column := false } = none →
      ∃ s' : State, Called (.syscMap w) s s' t ∧ (t.ctx.part < s.vfs.length → ∃ k, (s'.vf t.ctx.part).mapCalls = (s.vf t.ctx.part).mapCalls ++ [k]
        ∧ k.caller = some t.id ∧ k.addr = BitVec.ofNat 64 x.cursor))
    ∧ (Ready (.syscAlloc w) s t → x.tag = true → x.otype = 0 → s.colourState t.ctx.part x.colour = 1 →
      ((∀ k, 1 ≤ k → k ≤ 15 → s.colourState t.ctx.part k ≠ 0) →
        ∃ (s' : State) (t1 : Thread), Answered (.syscAlloc w) s s' t t1 ∧ WroteQuad t t1 w.d.toNat Cap.null)
      ∧ (∀ k n, 1 ≤ k → k ≤ 15 → s.colourState t.ctx.part k = 0 → (∀ j, 1 ≤ j → j < k → s.colourState t.ctx.part j ≠ 0) →
        s.tenantOf t.ctx.part = some n → n.colours.length = 16 →
        ∃ (s' : State) (t1 : Thread), Answered (.syscAlloc w) s s' t t1 ∧ WroteQuad t t1 w.d.toNat ((x.withField 7 4 k).withTag true)
          ∧ s'.colourState t.ctx.part k = 1 ∧ (s'.colour t.ctx.part k).lo = x.decode.1 ∧ (s'.colour t.ctx.part k).hi = x.decode.2))
    ∧ (Ready (.syscRevoke w) s t → x.tag = true → x.otype = 0 →
      ((x.colour = 0 ∨ c.state ≠ 1 ∨ x.decode ≠ (c.lo, c.hi)) →
        ∃ (s' : State) (t1 : Thread), Answered (.syscRevoke w) s s' t t1 ∧ Wrote t t1 [w.d.toNat] ∧ t1.reg w.d.toNat = 1)
      ∧ (x.colour ≠ 0 → c.state = 1 → x.decode = (c.lo, c.hi) →
        ∃ s' : State, Called (.syscRevoke w) s s' t ∧ s'.colourState t.ctx.part x.colour = 2))
    ∧ (Ready (.syscLown w) s t → 64 < (t.reg w.b.toNat).toNat →
      ∃ (s' : State) (t1 : Thread), Answered (.syscLown w) s s' t t1 ∧ Wrote t t1 [w.d.toNat] ∧ t1.reg w.d.toNat = 1)
    ∧ (∀ off, Ready (.syscLown w) s t → t.pageFail = none → t.log = none → (t.reg w.b.toNat).toNat = 1 → s.rangeCheck t x permLD 16 16 = none →
      s.land t x.space x.cursor .read = .ok (.sram t.cu off) →
      let lo := bytesNat (peek s t.sees (.sram t.cu off) 8)
      let len := bytesNat (peek s t.sees (.sram t.cu (off + 8)) 8)
      ∃ (s' : State) (t1 : Thread) (hs : List Head) (ns : List Nat), Answered (.syscLown w) s s' t t1 ∧ Wrote (t.having hs ns) t1 [w.d.toNat]
        ∧ t1.reg w.d.toNat = (if lownOk lo len then 0 else 1)
        ∧ (lownOk lo len = true → ∀ k ∈ s'.contexts, k.id = t.ctx → k.lown = [(lo, len)]))

/-! ## What the units of the machine do -/

/-- The thread that waits for a late load from its own package, of the current generation, and the load; no fault is ending the thread. -/
structure LateLoad (s : State) (k : Nat) (f : Flight) (u : Thread) : Prop where
  apart : ∀ c, s.cur = some c → c.id ≠ f.thread
  flight : s.flights.find? (fun g => g.req == k) = some f
  gen : f.gen = (s.part f.part).gen
  thread : s.thread f.thread = some u
  near : ∀ pkg off, f.loc ≠ .peer pkg off
  stays : ∀ st, u.run ≠ .exiting st

/-- The place of a pending write exists. -/
def HasPlace (s : State) (p : PStore) : Prop :=
  if p.pa < 2 ^ 60 then Memory.wf s.mem = true ∧ p.pa + p.bytes.length ≤ 2 ^ 60
  else (p.pa - 2 ^ 60) / 2 ^ 20 < s.cus.length ∧ Memory.wf (s.cu ((p.pa - 2 ^ 60) / 2 ^ 20)).sram = true ∧ p.pa % 2 ^ 20 + p.bytes.length ≤ 2 ^ 20

/-- 07 R182, R186, R198, 09 R235: `TRAIN_FORM` forms one train of at most 64 threads at the place the selector chose, a platform entry's
with its block's header still to check; a thread held beyond 512 cycles parks; a sleep that has lasted its time ends, and a monitor's
time limit lets its sleeper go on with 3. 08 R209, 10 R240, R242, R246, R252, R254, 15 R360: a late load's answer writes its registers with what its thread sees then; one of an old generation
is dropped. A pending write reaches some observers, memory as it was; one that a read of its thread or its beat holds back does not; at `.sys` its bytes
alone enter memory and it leaves the order. -/
def Obligations.SelectorAndMemoryEvents : Prop :=
  ((∀ (s : State) (cu : Nat) (c : Choice), s.choice cu = some c →
    ∃ (s' : State) (r : Train), exec (.trainForm cu) s = .next s' ∧ s'.trains = s.trains ++ [r] ∧ s'.mem = s.mem ∧ r.lanes.length ≤ 64 ∧ r.todo = r.lanes
      ∧ r.done = [] ∧ match c with
        | .siding p => r.cu = cu ∧ r.launch = p.launch ∧ r.group = p.group ∧ r.blk = p.blk ∧ r.off = p.off ∧ r.lanes = p.nums.take 64
        | .aged x => r.launch = x.launch ∧ r.group = x.group ∧ r.blk = x.blk ∧ r.off = 1 ∧ r.check = true
        | .low x => r.launch = x.launch ∧ r.group = x.group ∧ r.blk = x.blk ∧ r.off = 1 ∧ r.check = true ∧ r.lanes = (maskNums x.mask).take 64)
  ∧ (∀ (s : State) (id : TId) (u : Thread) (h : Hold), s.cur = none → s.thread id = some u → u.run = .train (some h) → h.since + 512 < s.now u.cu →
    ∃ (s' : State) (u' : Thread), exec (.lateResultPark id) s = .next s' ∧ SameMemory s s' ∧ s'.thread id = some u' ∧ u'.regs = u.regs
      ∧ (u'.run = .parked (.late h.cond) (s.now u.cu) ∨ u'.run = .eligible (s.now u.cu) 0))
  ∧ (∀ (s : State) (id : TId) (u : Thread) (till since : Nat), s.thread id = some u → u.run = .parked (.idle till) since → till ≤ s.now u.cu →
    exec (.idleExpiry id) s = .next (s.putThread { u with run := .eligible (s.now u.cu) 0 }))
  ∧ (∀ (s : State) (id : TId) (u : Thread) (d till since : Nat), s.thread id = some u → u.run = .parked (.monitor d (some till)) since →
    till < s.now u.cu → u.atEnd = false → d < u.nregs →
    ∃ (s' : State) (u' : Thread), exec (.wadrTimeout id) s = .next s' ∧ s'.thread id = some u' ∧ u'.off = u.off + 1 ∧ u'.reg d = 3
      ∧ u'.run = .eligible (s.now u.cu) 0 ∧ SameMemory s s' ∧ ∀ g, id ∉ s'.watchersOf g))
  ∧ ((∀ (s : State) (k : Nat) (f : Flight) (u : Thread) (d : Nat) (sign : Bool), LateLoad s k f u → f.kind = .load d sign → f.n ∈ [1, 2, 4, 8, 16] →
    d + (f.n + 3) / 4 ≤ u.nregs →
    let v := bytesNat (peek s u.sees f.loc f.n)
    ∃ (s' : State) (u' u1 : Thread) (hs : List Head) (ns : List Nat), exec (.memoryResponse k) s = .next s' ∧ s'.thread f.thread = some u' ∧ SameData s s'
      ∧ pendingWrites s' = pendingWrites s ∧ s'.flights = s.flights.filter (fun g => g.req != k)
      ∧ Wrote (u.having hs ns) u1 ((List.range ((f.n + 3) / 4)).map (d + ·)) ∧ u'.regs = u1.regs ∧ u'.tags = u1.tags
      ∧ (f.n < 4 → u1.reg d = if sign then (BitVec.ofNat (8 * f.n) v).signExtend 32 else BitVec.ofNat 32 v)
      ∧ (4 ≤ f.n → u1.data (f.n / 4) d = v))
  ∧ (∀ (s : State) (k : Nat) (f : Flight) (u : Thread) (d : Nat) (lc : Bool), LateLoad s k f u → f.kind = .loadCap d lc → f.n = 16 → d % 4 = 0 → d + 4 ≤ u.nregs →
    let c : Cap := { bits := BitVec.ofNat 128 (bytesNat (peek s u.sees f.loc 16)), tag := false }
    ∃ (s' : State) (u' u1 : Thread) (hs : List Head) (ns : List Nat), exec (.memoryResponse k) s = .next s' ∧ s'.thread f.thread = some u' ∧ SameData s s'
      ∧ WroteQuad (u.having hs ns) u1 d { c with tag := peekTag s u.sees f.loc && lc && decide (s.colourState u.ctx.part c.colour = 1) }
      ∧ u'.regs = u1.regs ∧ u'.tags = u1.tags)
  ∧ (∀ (s : State) (k : Nat) (f : Flight), s.flights.find? (fun g => g.req == k) = some f → f.gen ≠ (s.part f.part).gen →
    exec (.memoryResponse k) s = .next { s with flights := s.flights.filter (fun g => g.req != k) })
  ∧ (∀ (s : State) (k : Nat) (obs : Observer) (p q : PStore), s.stores[k]? = some p → p.done = false → p.pa < 2 ^ 60 →
    ((obs = .grp ∧ q = { p with grp := true }) ∨ (obs = .cmd ∧ q = { p with hidden := p.hidden.filter (· != 192) })
      ∨ (obs = .fab ∧ q = { p with hidden := p.hidden.filter (· != 193) }) ∨ ∃ n, obs = .cu n ∧ q = { p with hidden := p.hidden.filter (· != n) }) →
    (s.storeWaits p = false → ∃ s' : State, exec (.storePerformed k obs) s = .next s' ∧ SameData s s' ∧ s'.stores = s.stores.set k q)
    ∧ (s.storeWaits p = true → exec (.storePerformed k obs) s = .next s))
  ∧ (∀ (s : State) (k : Nat) (p : PStore), s.stores[k]? = some p → p.done = false → s.storeWaits p = false → HasPlace s p →
    (∀ j q, j ≠ k → s.stores[j]? = some q → q.done = false → p.touches q.pa q.bytes.length = false ∧ q.lead ≠ p.lead) →
    ∃ s' : State, exec (.storePerformed k .sys) s = .next s' ∧ pendingWrites s' = pendingWrites { s with stores := s.stores.eraseIdx k }
      ∧ ∀ a, s'.baseByte a = if p.pa ≤ a ∧ a < p.pa + p.bytes.length then p.bytes.getD (a - p.pa) 0 else s.baseByte a))

/-- No thread issues, and none is being ended by a fault. -/
def AtRest (s : State) : Prop := s.cur = none ∧ ∀ u ∈ s.threads, ∀ st, u.run ≠ .exiting st

/-- The operation `e` of thread `t` is at the head of its queue and may go on: no page holds it, no colour of its capabilities is revoking. -/
structure Heads (s : State) (c : CtxId) (cu q : Nat) (e : EngineEntry) (t : Thread) : Prop where
  rest : AtRest s
  head : s.headOf c cu q = some (e, t)
  live : s.opRevoked c e = none
  assist : e.assist = false
  tiles : ∀ i ∈ e.op.tiles, (s.tile cu i).owner = some c

/-- The same for a copy queue whose head one of the slice's three engines serves (R289). -/
structure Served (s : State) (c : CtxId) (cu q : Nat) (e : EngineEntry) (t : Thread) : Prop where
  heads : Heads s c cu q e t
  copy : q < 4
  engine : some (c, cu, q) ∈ (s.slice (sliceOf cu)).copy.engines

/-- The operation `e` is performed: it has left its queue, and its thread has one outstanding operation less and no fault of it. -/
def Performed (s s' : State) (c : CtxId) (cu q : Nat) (e : EngineEntry) (t : Thread) : Prop :=
  s'.queue c cu q = (s.queue c cu q).drop 1 ∧ ∃ t', s'.thread e.thread = some t' ∧ t'.cnt e.ctr = t.cnt e.ctr - 1 ∧ t'.regs = t.regs ∧ t'.engFault = t.engFault

/-- The steps of a copy that there are: chunks of 256 bytes, or elements (R289, R293). -/
def copySteps : EngineOp → Option Nat
  | .cpy _ _ n _ => some ((n + 255) / 256)
  | .cpyf _ _ n => some ((n + 255) / 256)
  | .cpyv _ _ rows cols _ _ => some (rows * cols)
  | .cpyg _ _ _ m => some m
  | _ => none

/-- 12 R285, R289, R293, R296: a copy queue's head is performed once nothing is left of it; a fill of at most 256 bytes into data SRAM writes its
pattern there and nothing else, and a copy of at most 256 bytes within data SRAM the bytes of its source; a join at the head of every queue it names leaves
them. -/
def Obligations.CopyEvents : Prop :=
  (∀ (s : State) (c : CtxId) (cu q n : Nat) (e : EngineEntry) (t : Thread), Served s c cu q e t → copySteps e.op = some n → n ≤ e.progress →
    ∃ s' : State, exec (.copyPerform c cu q) s = .next s' ∧ Performed s s' c cu q e t ∧ SameMemory s s')
  ∧ (∀ (s : State) (c : CtxId) (cu q : Nat) (e : EngineEntry) (t : Thread) (x : Cap) (ea n k off : Nat) (bs : List Byte), Served s c cu q e t →
    ((∃ v : Word, e.op = .cpyf (.mem x ea) v n ∧ bs = (List.range n).map (fun i => BitVec.ofNat 8 (v.toNat / 256 ^ (i % 4))))
      ∨ ∃ (y : Cap) (eb j o : Nat), e.op = .cpy (.mem x ea) (.mem y eb) n false ∧ eb % 65536 + n ≤ 65536 ∧ s.land t y.space eb .read = .ok (.sram j o)
        ∧ bs = peek s (engineSees t.ctx cu) (.sram j o) n) →
    e.progress = 0 → e.prior = [] → 0 < n → n ≤ 256 → ea % 65536 + n ≤ 65536 → s.land t x.space ea .write = .ok (.sram k off) →
    k < s.cus.length → Memory.wf (s.cu k).sram = true →
    ∃ s' : State, exec (.copyPerform c cu q) s = .next s' ∧ s'.mem = s.mem ∧ s'.stores = s.stores
      ∧ (∃ e', (s'.queue c cu q).head? = some e' ∧ e'.progress = 1 ∧ e'.op = e.op)
      ∧ ∀ j a, memRead (s'.cu j).sram a = if j = k ∧ off ≤ a ∧ a < off + n then bs.getD (a - off) 0 else memRead (s.cu j).sram a)
  ∧ (∀ (s : State) (c : CtxId) (cu id m : Nat) (qs : List Nat) (e : EngineEntry) (t : Thread), AtRest s → s.issues c = true → e.op = .join id m → qs ≠ [] →
    (∀ p ∈ qs, p < 5 ∧ (s.queue c cu p).head? = some e) → (∀ p, p < 5 → p ∉ qs → ∀ x ∈ s.queue c cu p, ∀ n, x.op ≠ .join id n) → s.thread e.thread = some t →
    ∃ (s' : State) (t' : Thread), exec (.qfenJoin c cu id) s = .next s' ∧ SameMemory s s' ∧ s'.thread e.thread = some t' ∧ t'.cnt e.ctr = t.cnt e.ctr - 1
      ∧ t'.regs = t.regs ∧ ∀ p, p < 5 → s'.queue c cu p = if p ∈ qs then (s.queue c cu p).drop 1 else s.queue c cu p)

/-- No error of the environment waits at a CU's engine (R305). -/
def NoUpset (s : State) (cu : Nat) : Prop := cu ∉ s.upsets.buffer ∧ cu ∉ s.upsets.residue ∧ cu ∉ s.upsets.bufferFixed

/-- 12 R297, R301 to R306, R309 to R316, 15 R370: what the matrix engine does with the head of its queue: a fill makes its slot hold the image; an integer multiplication writes
the sums of products modulo 2^32, one of 32-bit results the computed elements, a tiny rounding first going to the control core; a store writes the rest of a row; a tile zeroed, a buffer's
bytes set, a reservation zeroed and freed; a first use takes a tile over, the owner's content kept for it; a key enters a port's cache. -/
def Obligations.MatrixEvents : Prop :=
  (∀ (s : State) (c : CtxId) (cu slot ea len k off : Nat) (sparse : Bool) (x : Cap) (e : EngineEntry) (t : Thread), Heads s c cu 4 e t →
    e.op = .wfill slot (.mem x ea) len sparse → x.space = 3 → ea % 2 ^ 32 + len ≤ 2 ^ 32 → s.land t 3 ea .read = .ok (.sram k off) →
    cu < s.cus.length → (s.allot c cu).1 + slot < (s.cu cu).wslots.length →
    ∃ s' : State, exec (.wfillPerform c cu) s = .next s' ∧ Performed s s' c cu 4 e t ∧ s'.mem = s.mem
      ∧ (s'.cu cu).wslots.getD ((s.allot c cu).1 + slot) WSlot.reset
        = { valid := true, sparse := sparse, cipher := false, addr := BitVec.ofNat 64 ea, len := len
            bytes := memWriteN [] 0 (peek s (engineSees t.ctx cu) (.sram k off) len) })
  ∧ (∀ (s s1 : State) (c : CtxId) (cu slot ea len : Nat) (sparse : Bool) (x : Cap) (bs : List Byte) (e : EngineEntry) (t : Thread), Heads s c cu 4 e t →
    e.op = .wfill slot (.mem x ea) len sparse → s.soHeld e = false → s.readImage t cu x (cut256 (len / 16 + 2) ea len) [] = .ok bs s1 → cu < s1.cus.length →
    s1.weightPage t x.space ea = s1.weightPage t x.space (ea + len - 1) → (s1.allot c cu).1 + slot < (s1.cu cu).wslots.length →
    ∃ s' : State, exec (.wfillPerform c cu) s = .next s' ∧ s'.mem = s1.mem
      ∧ (s'.cu cu).wslots.getD ((s1.allot c cu).1 + slot) WSlot.reset
        = { valid := true, sparse := sparse, cipher := s1.weightPage t x.space ea, addr := BitVec.ofNat 64 ea, len := len, bytes := memWriteN [] 0 bs })
  ∧ (∀ (s : State) (c : CtxId) (cu ea : Nat) (x : Cap) (bs : List Byte) (e : EngineEntry) (t : Thread), Heads s c cu 4 e t → e.op = .mmo x ea bs → NoUpset s cu →
    let p := readBlock bs
    p.a ∈ [4, 5] → p.b ∈ [4, 5] → p.c = 7 → p.flags.testBit 1 = false → p.flags.testBit 2 = false →
    (∀ n, n < p.n → let w := s.slotOfStep c cu p n; w.valid = true ∧ w.sparse = false ∧ w.cipher = false) →
    ∃ s' : State, exec (.mmoPerform c cu) s = .next s' ∧ Performed s s' c cu 4 e t ∧ s'.mem = s.mem ∧ (s'.tile cu p.acc).owner = some c
      ∧ ∀ i j, i < 32 → j < 32 → (((s'.tile cu p.acc).el i j : Nat) : Int)
        = ((if p.flags.testBit 0 then 0 else ((s.tile cu p.acc).el i j : Int))
          + ((List.range p.n).map (fun n => ((List.range 64).map (fun k =>
              intOf p.a (memRead (s.cu cu).ob (s.obByte t (refNum p.aRef) (refOff p.aRef + i * p.stride + n * 64) + k)).toNat
                * intOf p.b (memRead (s.slotOfStep c cu p n).bytes (j * 64 + k)).toNat)).sum)).sum) % 2 ^ 32)
  ∧ (∀ (s : State) (c : CtxId) (cu ea : Nat) (x : Cap) (bs : List Byte) (e : EngineEntry) (t : Thread), Heads s c cu 4 e t → e.op = .mmo x ea bs → (readBlock bs).c ≠ 3 →
    s.slotFault c cu (readBlock bs) = none → s.keyMissing c cu (readBlock bs) = none → NoUpset s cu →
    (∀ x ∈ (s.product t c cu (readBlock bs)).flatten, ∀ n ∈ x.tiny, n < e.progress) →
    ∃ s' : State, exec (.mmoPerform c cu) s = .next s' ∧ Performed s s' c cu 4 e t ∧ s'.mem = s.mem
      ∧ (s'.tile cu (readBlock bs).acc).owner = some c
      ∧ ∀ k, k < 1024 → (s'.tile cu (readBlock bs).acc).el (k / 32) (k % 32)
        = (((s.product t c cu (readBlock bs)).flatten[k]?).map (·.bits)).getD 0 % 2 ^ 32)
  ∧ (∀ (s : State) (c : CtxId) (cu : Nat) (e : EngineEntry), (s.queue c cu 4).head? = some e → e.assist = true →
    ∃ s' : State, exec (.subnormalAssist c cu) s = .next s' ∧ (s'.queue c cu 4).head? = some { e with assist := false } ∧ SameMemory s s')
  ∧ (∀ (s : State) (c : CtxId) (cu r off f tile stride : Nat) (e : EngineEntry) (t : Thread), Heads s c cu 4 e t → e.op = .mst (.ob r off) f tile stride →
    (1024 ≤ e.progress → ∃ s' : State, exec (.mstPerform c cu) s = .next s' ∧ Performed s s' c cu 4 e t ∧ SameMemory s s')
    ∧ (e.progress < 1024 → (e.begun = true ∨ e.progress = 0 ∧ NoUpset s cu) → cu < s.cus.length → Memory.wf (s.cu cu).ob = true →
      (s.group t.id.launch t.id.group).isSome = true →
      let row := e.progress / 32
      let at_ := s.obByte t r (off + row * stride)
      let val := fun (k : Nat) =>
        if f = 0 then (s.tile cu tile).el row k
        else if f = 3 then (s.tile cu tile).el row k + 2 ^ 32 * (s.tile cu (tile + 1)).el row k
        else s.mstValue cu f tile (32 * row + k)
      ∃ s' : State, exec (.mstPerform c cu) s = .next s' ∧ s'.mem = s.mem ∧ (∃ e', (s'.queue c cu 4).head? = some e' ∧ e'.progress = 32 * row + 32)
        ∧ ∀ a, memRead (s'.cu cu).ob a = if at_ + e.progress % 32 * mstSize f ≤ a ∧ a < at_ + 32 * mstSize f
            then (natBytes (mstSize f) (val ((a - at_) / mstSize f))).getD ((a - at_) % mstSize f) 0 else memRead (s.cu cu).ob a))
  ∧ (∀ (s : State) (c : CtxId) (cu : Nat) (m : BitVec 16) (e : EngineEntry) (t : Thread), Heads s c cu 4 e t → e.op = .mzro m →
    ∃ s' : State, exec (.mzroPerform c cu) s = .next s' ∧ Performed s s' c cu 4 e t ∧ s'.mem = s.mem
      ∧ ∀ i, i < 16 → s'.tile cu i = if m.getLsbD i then { s.tile cu i with data := [], flags := 0 } else s.tile cu i)
  ∧ (∀ (s : State) (c : CtxId) (cu r off : Nat) (bytes : List Byte) (e : EngineEntry) (t : Thread), Heads s c cu 4 e t → e.op = .obset r off bytes →
    cu < s.cus.length → Memory.wf (s.cu cu).ob = true →
    let at_ := s.obByte t r off
    ∃ s' : State, exec (.obsetPerform c cu) s = .next s' ∧ Performed s s' c cu 4 e t ∧ s'.mem = s.mem
      ∧ ∀ a, memRead (s'.cu cu).ob a = if at_ ≤ a ∧ a < at_ + bytes.length then bytes.getD (a - at_) 0 else memRead (s.cu cu).ob a)
  ∧ (∀ (s : State) (c : CtxId) (cu r : Nat) (e : EngineEntry) (t : Thread) (g : Group), Heads s c cu 4 e t → e.op = .obrel r → s.group t.id.launch t.id.group = some g →
    r < g.resvs.length → cu < s.cus.length → Memory.wf (s.cu cu).ob = true → (∀ q, q < 4 → ∀ k ∈ s.queue c cu q, k.op.intoResv r = false) →
    let v := g.resvs.getD r Resv.free
    ∃ s' : State, exec (.obrelPerform c cu) s = .next s' ∧ Performed s s' c cu 4 e t ∧ s'.mem = s.mem ∧ (s'.resvs t).getD r Resv.free = Resv.free
      ∧ ∀ a, memRead (s'.cu cu).ob a = if g.obBase + v.off ≤ a ∧ a < g.obBase + v.off + v.size then 0 else memRead (s.cu cu).ob a)
  ∧ (∀ (s : State) (c o : CtxId) (cu i : Nat) (e : EngineEntry) (x y : Context), s.issues c = true → (s.tile cu i).owner = some o → o ≠ c →
    (s.queue c cu 4).head? = some e → i ∈ e.op.tiles → (∀ m, e.op ≠ .mzro m) → s.queue o cu 4 = [] → s.context o = some x → s.context c = some y →
    y.tileMap.getLsbD i = false → i < 16 →
    ∃ (s' : State) (x' : Context), exec (.firstUseTrap c cu i) s = .next s' ∧ s'.mem = s.mem ∧ s'.tile cu i = { owner := some c, flags := 0, data := [] }
      ∧ s'.context o = some x' ∧ x'.tileMap.getLsbD i = true
      ∧ x'.spilled.head? = some { tile := i, data := (s.tile cu i).data, flags := (s.tile cu i).flags })
  ∧ (∀ (s : State) (cu slice k : Nat), cu < s.cus.length →
    let e := (s.slice slice).cat.getD k CatEntry.reset
    (e.state = 1 ∨ e.state = 2) → e.part < 16 → (s.part e.part).state ≠ 0 → (cu / 12) ∈ (s.part e.part).map → slice ∈ (s.part e.part).map →
    ((s.slice slice).keys.getD k KeySlot.reset).filled = true →
    ∃ s' : State, exec (.keyCacheFill cu slice k) s = .next s' ∧ s'.mem = s.mem ∧ (slice, k) ∈ (s'.cu cu).keyCache)

/-- A place in HBM can be read: scrubbed, its slice not under reset, without poison or error. -/
def Sound (s : State) (pa n : Nat) : Prop :=
  (s.frame (pa / 65536)).scrub = false ∧ (s.slice (sliceOfPa pa)).held = false ∧ ∀ g ∈ granulesOf pa n, setHas s.poison g = false ∧ s.eccAt g = none

/-- The 64 bytes at a queue's head can be read: the queue may be read, its entry lies in present, sound memory. -/
structure EntryAt (s : State) (vf q : Nat) (bs : List Byte) : Prop where
  may : s.mayRead vf q = true
  low : (s.qregs vf q).qbase.toNat + 64 * ((s.qregs vf q).qhead % 2 ^ (s.qregs vf q).qsize) + 64 ≤ 2 ^ 56
  page : ∃ pa e n, s.xlate vf ((s.qregs vf q).qbase.toNat + 64 * ((s.qregs vf q).qhead % 2 ^ (s.qregs vf q).qsize)) .read = .ok pa e n ∧ Sound s pa 64
    ∧ bs = s.seenBytes (fetchSees vf) pa 64

/-- The virtual function takes a register write: enabled, not in ERROR, over a secure link (R417, R418). -/
def TakesWrites (s : State) (vf : Nat) : Prop :=
  vf < s.vfs.length ∧ (s.vf vf).enabled = true ∧ (s.vf vf).tdisp ≠ .error ∧ s.hostLink = true

/-- Queue `q` of the virtual function is bound. -/
def BoundQueue (s : State) (vf q : Nat) : Prop := q < 64 ∧ (s.vf vf).queues.length = 64 ∧ (s.qregs vf q).bound.isSome = true

/-- The queue's registers once the entry at its head is passed: QHEAD counts modulo the entry count. -/
def passedEntry (r : QueueRegs) : QueueRegs := { r with qhead := (r.qhead % 2 ^ r.qsize + 1) % 2 ^ r.qsize }

/-- 13 R333, R334, 15 R361: a command at a queue's head: `NOP` passes; `LAUNCH` makes one waiting launch; `HANDLE` passes and writes
its entry, while a launch of the context runs only once none does; a malformed one stops the queue on it with 0x01, a `HANDLE` of values out of their limits with 0x08. 13 R333, 14 R346, R350, 15 R374, 18 R417, 19 R457: the host's writes to a virtual function's registers: the doorbell, run, stopped, the base and size of a
bound queue, the VF error register, the page-request set while no request is held, the two mailboxes; a base that LOCK_INTERFACE froze keeps its value and the interface moves to ERROR. -/
def Obligations.HostQueues : Prop :=
  ((∀ (s : State) (vf q : Nat) (bs : List Byte), EntryAt s vf q bs →
    let r := s.qregs vf q
    let ctx : CtxId := { part := vf, id := r.bound.getD 0 }
    let stops := fun (i : Instr) (code : Byte) => ∃ s' : State, exec i s = .next s' ∧ SameMemory s s'
      ∧ s'.qregs vf q = { r with stopped := true, errCode := code, errIndex := BitVec.ofNat 16 (r.qhead % 2 ^ r.qsize) }
    (bs = List.replicate 64 0 → ∃ s' : State, exec (.cmdNop vf q) s = .next s' ∧ s'.qregs vf q = passedEntry r ∧ SameMemory s s')
    ∧ (∀ serial desc, commandOf bs = .launch serial desc → ∃ (s' : State) (l : Launch), exec (.cmdLaunch vf q) s = .next s' ∧ SameMemory s s'
      ∧ s'.launches = s.launches ++ [l] ∧ l.uid = s.nextLaunch ∧ l.phase = .waiting ∧ l.ctx = ctx ∧ l.serial = serial ∧ l.descVa = BitVec.ofNat 64 desc
      ∧ s'.qregs vf q = passedEntry r)
    ∧ (∀ h e c, commandOf bs = .handle h (some e) → s.context ctx = some c → h < c.handles.length → e < 2 ^ 64 →
      ((∀ l ∈ s.launches, l.ctx = ctx → l.phase = .waiting) → ∃ s' : State, exec (.cmdHandle vf q) s = .next s' ∧ SameMemory s s' ∧ s'.handle ctx h = e
        ∧ s'.qregs vf q = passedEntry r)
      ∧ ((∃ l ∈ s.launches, l.ctx = ctx ∧ l.phase ≠ .waiting) → ∃ s' : State, exec (.cmdHandle vf q) s = .next s' ∧ SameMemory s s' ∧ s'.contexts = s.contexts
        ∧ s'.qregs vf q = { passedEntry r with handle := some (h, e) }))
    ∧ (commandOf bs = .bad → ∀ i ∈ [Instr.cmdNop vf q, .cmdLaunch vf q, .cmdHandle vf q], stops i 0x01)
    ∧ (∀ h, commandOf bs = .handle h none → stops (.cmdHandle vf q) 0x08))
  ∧ (∀ (s : State) (vf q h e : Nat) (c : Context),
    let r := s.qregs vf q
    let ctx : CtxId := { part := vf, id := r.bound.getD 0 }
    r.handle = some (h, e) → s.context ctx = some c → h < c.handles.length → e < 2 ^ 64 →
    ((∀ l ∈ s.launches, l.ctx = ctx → l.phase = .waiting) → ∃ s' : State, exec (.cmdHandle vf q) s = .next s' ∧ SameMemory s s' ∧ s'.handle ctx h = e
      ∧ s'.qregs vf q = { r with handle := none })
    ∧ ((∃ l ∈ s.launches, l.ctx = ctx ∧ l.phase ≠ .waiting) → exec (.cmdHandle vf q) s = .next s)))
  ∧ (∀ (s : State) (vf q : Nat), TakesWrites s vf →
    let r := s.qregs vf q
    (BoundQueue s vf q →
      (∀ v, ∃ s' : State, exec (.qtail vf q v) s = .next s' ∧ SameMemory s s' ∧ s'.qregs vf q = { r with qtail := v.toNat % 2 ^ 16 % 2 ^ r.qsize })
      ∧ (∃ s' : State, exec (.qstatRun vf q true) s = .next s' ∧ (s'.qregs vf q).run = true ∧ (r.run = false → (s'.qregs vf q).period = 0) ∧ (r.run = true → s'.qregs vf q = r))
      ∧ (∃ s' : State, exec (.qstatRun vf q false) s = .next s' ∧ s'.qregs vf q = { r with run := false })
      ∧ (r.stopped = true → ∃ s' : State, exec (.qstatClearStopped vf q) s = .next s' ∧ (s'.qregs vf q).stopped = false
        ∧ (s'.qregs vf q).qhead = if r.errCode = 0x09 ∨ r.errCode = 0x0A then r.qhead else (passedEntry r).qhead)
      ∧ (r.run = false → s.frozen vf = false → ∀ v : Word64, ∃ s' : State, exec (.registerWrite vf (0x1000 + 0x40 * q) v) s = .next s'
        ∧ s'.qregs vf q = { r with qbase := v &&& ~~~(63#64) })
      ∧ (r.run = false → s.frozen vf = true → ∀ v : Word64, ∃ s' : State, exec (.registerWrite vf (0x1000 + 0x40 * q) v) s = .next s'
        ∧ s'.qregs vf q = r ∧ (s'.vf vf).tdisp = .error)
      ∧ (r.run = false → ∀ v : Word64, ∃ s' : State, exec (.registerWrite vf (0x1000 + 0x40 * q + 8) v) s = .next s'
        ∧ s'.qregs vf q = { r with qsize := if 4 ≤ v.toNat % 32 ∧ v.toNat % 32 ≤ 16 then v.toNat % 32 else 4 }))
    ∧ (∃ s' : State, exec (.vfErrorClear vf) s = .next s' ∧ s'.vf vf = { s.vf vf with errValid := false, errMore := false, errCause := 0 })
    ∧ ((s.vf vf).reqs = [] → ∀ v : Word64,
      (∃ s' : State, exec (.registerWrite vf 0x3018 v) s = .next s' ∧ s'.vf vf = { s.vf vf with prHead := v.toNat % 2 ^ 16 % 2 ^ (s.vf vf).prSize })
      ∧ (∃ s' : State, exec (.registerWrite vf 0x3028 v) s = .next s' ∧ s'.vf vf = { s.vf vf with prRun := v.getLsbD 31 })
      ∧ ((s.vf vf).prRun = false → s.frozen vf = false → ∃ s' : State, exec (.registerWrite vf 0x3000 v) s = .next s'
        ∧ s'.vf vf = { s.vf vf with prBase := v &&& ~~~(63#64) })
      ∧ ((s.vf vf).prRun = false → ∃ s' : State, exec (.registerWrite vf 0x3008 v) s = .next s'
        ∧ s'.vf vf = { s.vf vf with prSize := if 4 ≤ v.toNat % 16 ∧ v.toNat % 16 ≤ 12 then v.toNat % 16 else 4 }))
    ∧ (∀ v : Word64, v.toNat % 32 = 0 → ∃ (s' : State) (c : Call), exec (.registerWrite vf 0x3040 v) s = .next s' ∧ c.caller = none ∧ c.addr = v
      ∧ s'.vf vf = { s.vf vf with mapCalls := (s.vf vf).mapCalls ++ [c] })
    ∧ (∀ v : Word64, v.toNat % 32 = 0 → ∃ (s' : State) (c : Call), exec (.registerWrite vf 0x3048 v) s = .next s' ∧ c.caller = none ∧ c.addr = v
      ∧ s'.vf vf = { s.vf vf with catCalls := (s.vf vf).catCalls ++ [c] }))

/-- Nothing of a partition waits for a page but threads and trains, and its request queue is stopped, so that nothing is written. -/
def OnlyTrainsWait (s : State) (vf page : Nat) : Prop :=
  AtRest s ∧ (s.vf vf).prRun = false ∧ s.heldEntries vf page = [] ∧ s.inFlows = [] ∧ (∀ l ∈ s.launches, l.page = none ∧ ∀ p, l.phase ≠ .finishing (some p))
    ∧ ∀ q ∈ (s.vf vf).queues, q.page = none

/-- 14 R353: a page reply of the current generation: resolved, the request is over and the trains held on the page go on; invalid, a logged access of it fails with
PAGE_PERM; a reply of another generation, or of no request, has no effect while no request is held unwritten. -/
def Obligations.PageReplies : Prop :=
  ∀ (s : State) (vf : Nat) (id gen : BitVec 16) (r : PageReq), TakesWrites s vf →
    ((gen ≠ (s.part vf).gen ∨ ∀ x ∈ (s.vf vf).reqs, x.id ≠ id) → (∀ x ∈ (s.vf vf).reqs, x.written = true) →
      exec (.prreplyResolved vf id gen) s = .next s ∧ exec (.prreplyInvalid vf id gen) s = .next s)
    ∧ (gen = (s.part vf).gen → (s.vf vf).reqs.find? (fun x => x.id == id) = some r → OnlyTrainsWait s vf r.page →
      (s.loggedOn vf r.page = [] → ∃ s' : State, exec (.prreplyResolved vf id gen) s = .next s' ∧ SameMemory s s'
        ∧ (∀ x ∈ (s'.vf vf).reqs, x.page ≠ r.page)
        ∧ ∀ x ∈ s'.trains, ∀ l, s.launch x.launch = some l → l.ctx.part = vf → ∀ va, x.page = some va → va / 65536 ≠ r.page)
      ∧ ((∀ x ∈ s.trains, x.page = none) →
        ∀ (t : Thread) (o : OpLog), t ∈ s.threads → (∀ u ∈ s.threads, u.id = t.id → u = t) → t.ctx.part = vf → t.log = some o → o.page = r.page →
        o.failed = none → t.run = .train none →
        ∃ (s' : State) (t' : Thread), exec (.prreplyInvalid vf id gen) s = .next s' ∧ SameMemory s s' ∧ s'.thread t.id = some t' ∧ t'.regs = t.regs
          ∧ t'.log = some { o with failed := some .pagePerm }))

/-- The command processor can read [a, a + n) of a partition's memory, byte `i` of it at physical address `pa i`: present, sound (R332, R340). -/
structure CmdReads (s : State) (part a n : Nat) (pa : Nat → Nat) : Prop where
  top : a + n ≤ 2 ^ 56
  bytes : ∀ i, i < n → (∃ e k, s.xlate part (a + i) .read = .ok (pa i) e k) ∧ Sound s (pa i) 1

/-- The number that n bytes there stand for, as the command processor sees them. -/
def cmdNat (s : State) (part : Nat) (pa : Nat → Nat) (i n : Nat) : Nat := bytesNat ((List.range n).map (fun k => s.seenByte (fetchSees part) (pa (i + k))))

/-- A capability of a descriptor may be used: tagged, unsealed, of a live colour, of the space and with the permission (R332). -/
def Usable (s : State) (part : Nat) (c : Cap) (space perm : Nat) : Prop :=
  c.tag = true ∧ c.otype = 0 ∧ s.colourState part c.colour = 1 ∧ c.space = space ∧ c.holds perm = true

/-- A child launch that passes R332's table: its capabilities are usable; its code object (R176) at `pc`, constants (R59) at `pk` and arguments (R31) at `pv` can be
read; its plain fields are in their limits (R22, R28), without stages and rollback. -/
structure Startable (s : State) (k : Launch) (pc pk pv : Nat → Nat) : Prop where
  child : ∃ p m e, k.origin = .child p m e
  free : (s.part k.ctx.part).state = 1 ∧ (s.vf k.ctx.part).tdisp ≠ .error ∧ k.page = none ∧ k.phase = .waiting ∧ s.issues k.ctx = true
  others : ∀ x ∈ s.launches, x.ctx.part = k.ctx.part → x.flags.getLsbD 2 = false
  caps : Usable s k.ctx.part (k.quads.getD 0 Cap.null) 5 permEX ∧ Usable s k.ctx.part (k.quads.getD 1 Cap.null) 0 permLD
    ∧ Usable s k.ctx.part (k.quads.getD 2 Cap.null) 0 permST ∧ Usable s k.ctx.part (k.quads.getD 3 Cap.null) 0 permLD
  code : let d := (k.quads.getD 0 Cap.null).decode
    let n := cmdNat s k.ctx.part pc 0 4
    let off := cmdNat s k.ctx.part pc 4 4
    CmdReads s k.ctx.part d.1 (16 + 4 * n) pc ∧ d.1 + 16 + 4 * n ≤ d.2 ∧ 1 ≤ n ∧ n ≤ 65535 ∧ off % 8 = 0 ∧ 16 + 4 * n ≤ off ∧ cmdNat s k.ctx.part pc 8 8 = 0
      ∧ ∀ i, i < n → d.1 + off + 8 * cmdNat s k.ctx.part pc (16 + 4 * i) 4 + 8 ≤ d.2
  consts : let c := k.quads.getD 1 Cap.null
    c.decode.1 ≤ c.cursor ∧ c.cursor + 256 ≤ c.decode.2 ∧ CmdReads s k.ctx.part (c.cursor + 4) 252 pk
  record : let c := k.quads.getD 2 Cap.null
    c.decode.1 ≤ c.cursor ∧ c.cursor + 32 ≤ c.decode.2 ∧ c.cursor % 32 = 0
  args : let c := k.quads.getD 3 Cap.null
    c.cursor % 16 = 0 ∧ c.decode.1 ≤ c.cursor ∧ CmdReads s k.ctx.part c.cursor (16 * min 8 ((c.decode.2 - c.cursor) / 16)) pv
  fields : let g := k.field 0x40 4
    let t := k.field 0x44 2
    let m := k.field 0x46 1
    let n := cmdNat s k.ctx.part pc 0 4
    1 ≤ g ∧ 1 ≤ m ∧ m ≤ 4 ∧ g % m = 0 ∧ g * t < 2 ^ 32 ∧ 1 ≤ t ∧ t ≤ 1024 ∧ k.field 0x47 1 ∈ [0, 1, 2, 3] ∧ 32 ≤ k.field 0x48 2 ∧ k.field 0x48 2 ≤ 512
      ∧ k.field 0x48 2 % 8 = 0 ∧ k.field 0x4A 2 % 64 = 0 ∧ k.field 0x4A 2 ≤ 640 ∧ k.field 0x4C 2 ≤ 256 ∧ (k.field 0x4E 2 = 0xFFFF ∨ k.field 0x4E 2 < n)
      ∧ k.field 0x50 4 < n ∧ k.field 0x54 1 = 0 ∧ k.field 0x55 3 = 0 ∧ t * k.field 0x48 2 * 4 ≤ 2 ^ 20

/-- 02 R23, R27, R28, R51, R52, 13 R332, 16 R386: a launch whose table's checks pass starts with its descriptor's fields, constants and arguments, one of a queue with the queue's next period; a refused one stops its queue with the code of the
table's first failure and takes no period; a team is admitted whole, each group on its CU; a launch all of whose threads have left has its record written, the done word with its generation, and is over. -/
def Obligations.LaunchEvents : Prop :=
  (∀ (s : State) (k : Launch) (pc pk pv : Nat → Nat), s.launch k.uid = some k → Startable s k pc pk pv →
    let c := k.quads.getD 3 Cap.null
    ∃ (s' : State) (x : Launch), exec (.launchStart k.uid) s = .next s' ∧ SameMemory s s' ∧ s'.launch k.uid = some x ∧ x.phase = .running ∧ x.page = none
      ∧ x.groups = k.field 0x40 4 ∧ x.tpg = k.field 0x44 2 ∧ x.teamSize = k.field 0x46 1 ∧ x.flags.toNat = k.field 0x47 1 ∧ x.regsPer = k.field 0x48 2
      ∧ x.spKiB = k.field 0x4A 2 ∧ x.obKiB = k.field 0x4C 2 ∧ x.handler.toNat = k.field 0x4E 2 ∧ x.entry = k.field 0x50 4 ∧ x.ltag.toNat = k.field 0x58 8
      ∧ x.code = k.quads.getD 0 Cap.null ∧ x.record = k.quads.getD 2 Cap.null ∧ x.blocks = cmdNat s k.ctx.part pc 0 4 ∧ x.codeOff = cmdNat s k.ctx.part pc 4 4
      ∧ x.consts.getD 0 1 = 0 ∧ (∀ i, i < 63 → x.consts.getD (i + 1) 0 = BitVec.ofNat 32 (cmdNat s k.ctx.part pk (4 * i) 4))
      ∧ ∀ i, i < 8 → (x.args.getD i Cap.null).bits
        = if i < (c.decode.2 - c.cursor) / 16 then BitVec.ofNat 128 (cmdNat s k.ctx.part pv (16 * i) 16) else 0)
  ∧ (∀ (s s1 : State) (l : Nat) (k x k1 : Launch), s.launch l = some k → s.mayStart k = true → s.readLaunch k = .go x s1 → x.uid = l → s1.launch l = some k1 →
    (x.flags.getLsbD 2 = true → s1.alone k = true) → ∃ (s' : State) (x' : Launch), exec (.launchStart l) s = .next s' ∧ s'.launch l = some x' ∧ x'.phase = .running
      ∧ x'.groups = x.groups ∧ x'.tpg = x.tpg ∧ x'.flags = x.flags ∧ x'.args = x.args ∧ x'.consts = x.consts ∧ x'.page = none ∧ s'.mem = s1.mem
      ∧ ∀ vf q index, k.origin = .queue vf q index → vf < s1.vfs.length → q < (s1.vf vf).queues.length →
        x'.period = (s1.qregs vf q).period ∧ (s'.qregs vf q).period = (s1.qregs vf q).period + 1)
  ∧ (∀ (s s1 : State) (l : Nat) (k : Launch) (vf q index : Nat) (code : Byte), s.launch l = some k → s.mayStart k = true → s.readLaunch k = .refuse code s1 →
    k.origin = .queue vf q index → vf < s1.vfs.length → q < (s1.vf vf).queues.length →
    ∃ s' : State, exec (.launchStart l) s = .next s' ∧ s'.launch l = none ∧ s'.mem = s1.mem ∧ (s'.qregs vf q).stopped = true ∧ (s'.qregs vf q).errCode = code
      ∧ (s'.qregs vf q).qhead = index ∧ (s'.qregs vf q).period = (s1.qregs vf q).period)
  ∧ (∀ (s : State) (l : Nat) (k : Launch) (cus : List Nat), s.launch l = some k → k.phase = .running → s.issues k.ctx = true → (s.part k.ctx.part).state = 1 →
    k.teams * k.teamSize < k.groups → s.placeOk k cus = true → (∀ p ∈ s.stores, p.done = true ∨ HasPlace s p) →
    ∃ (s' : State) (k' : Launch), exec (.teamAdmit l cus) s = .next s' ∧ s'.mem = s.mem ∧ s'.launch l = some k' ∧ k'.teams = k.teams + 1
      ∧ (∃ m ∈ s'.teams, m.launch = k.uid ∧ m.num = k.teams ∧ m.place = cus)
      ∧ ∀ i, i < cus.length → ∃ g ∈ s'.groups, g.launch = k.uid ∧ g.num = k.teams * k.teamSize + i ∧ g.cu = cus.getD i 0 ∧ g.threads = k.tpg)
  ∧ (∀ (s : State) (l : Nat) (k : Launch) (pa : Nat) (e : Word64) (n : Nat), s.launch l = some k → k.phase = .running → k.page = none → s.allDone k = true → k.reds = [] →
    s.stores = [] → k.record.tag = true → s.colourState k.ctx.part k.record.colour = 1 → k.record.space = 0 → s.xlate k.ctx.part k.record.cursor .write = .ok pa e n →
    Sound s (pa / 64 * 64) 64 → k.record.cursor % 32 = 0 → Memory.wf s.mem = true → (∀ c ∈ s.slices, c.retire = []) →
    ∃ s' : State, exec (.completionRecordWrite l) s = .next s' ∧ s'.launch l = none ∧ memNat s'.mem pa 8 = k.ltag.toNat
      ∧ memNat s'.mem (pa + 8) 4 = k.groups * k.tpg % 2 ^ 32 ∧ memRead s'.mem (pa + 16) = k.maxStatus ∧ memRead s'.mem (pa + 17) = k.orStatus
      ∧ memNat s'.mem (pa + 28) 4 = 1 + k.gen.toNat * 65536
      ∧ ∀ a, (a < pa ∨ pa + 32 ≤ a) → memRead s'.mem a = memRead s.mem a)

/-- No write is pending, no read in flight, and no agent of the partition's function holds a translation. -/
def Settled0 (s : State) (part : Nat) : Prop := s.flights = [] ∧ s.stores = [] ∧ (s.vf part).ats = [] ∧ Memory.wf s.mem = true

/-- A mailbox call of the host on a record in present, sound memory: `bs` are its 32 bytes, `pa` its place (R346, R374). -/
structure RecordOf (s : State) (part : Nat) (c : Call) (pa : Nat) (bs : List Byte) : Prop where
  still : Settled0 s part
  fresh : c.status = none
  host : c.caller = none
  top : c.addr.toNat + 32 ≤ 2 ^ 56
  place : ∃ e n, s.xlate part c.addr.toNat .write = .ok pa e n
  sound : Sound s pa 32
  bytes : bs = memReadN s.mem pa 32

/-- The tables that a walk of a page reads are apart from each other, from the record at `pa` and from the frame `f`. -/
structure TablesApart (s : State) (part va pa f : Nat) : Prop where
  root : (s.part part).root % 8 = 0
  own : (s.path part va).Nodup
  rest : ∀ p ∈ s.path part va, p / 8 ≠ (pa + 1) / 8 ∧ p / 65536 ≠ f

/-- A well-formed mapping record of one 64 KiB page (R346, R347). -/
structure OnePage (r : MapRecord) : Prop where
  flags : r.flags % 4 = 0 ∧ r.flags < 512 ∧ r.flags.testBit 6 = false ∧ r.flags.testBit 7 = false ∧ r.flags / 16 % 4 ≠ 3 ∧ r.rest = 0
  range : r.va % 65536 = 0 ∧ r.len = 65536 ∧ r.va + 65536 ≤ 2 ^ 56

/-- A leaf of a 64 KiB page maps a frame's address with a record's bits, E set (R339, R347). -/
def LeafOf (e : BitVec 64) (addr : Nat) (r : MapRecord) : Prop :=
  entryAddr e = addr ∧ e.toNat % 4 = 3 ∧ e.toNat / 4 % 32 = r.flags / 4 % 32 ∧ entryE e = true ∧ entryX e = r.flags.testBit 8

/-- 14 R344, R347, R349, 15 R374 to R376, 11 R278, R280: firmware carries out the first call of a mailbox and writes its status: a mapping record's by the first condition that
applies, and a page mapped, unmapped or given other bits; a model of one page loaded into the entry named; a pin, an unpin and a deaccession of a resident model. A frame is granted with its scrub pending,
reclaimed to be free; the scrub of granted frames ends with them zero and a receipt signed. -/
def Obligations.FirmwareEvents : Prop :=
  (∀ (s : State) (part pa fn : Nat) (i : Instr) (c : Call) (bs : List Byte), (i, fn) ∈ [(Instr.mapRequest part, 1), (.unmapRequest part, 2), (.protectRequest part, 3)] →
    s.mapCall part = some c → RecordOf s part c pa bs → (mapRecord bs).fn = fn →
    ∃ s' : State, exec i s = .next s' ∧ (s'.vf part).mapCalls = (s.vf part).mapCalls.drop 1 ∧ memRead s'.mem (pa + 1) = s.mapStatus part (mapRecord bs)
      ∧ (s.mapStatus part (mapRecord bs) ≠ 0 → ∀ a, a ≠ pa + 1 → memRead s'.mem a = memRead s.mem a))
  ∧ (∀ (s : State) (part pa f : Nat) (c : Call) (bs : List Byte) (e : BitVec 64), s.mapCall part = some c → RecordOf s part c pa bs →
    let r := mapRecord bs
    OnePage r → TablesApart s part r.va pa (2 ^ 40) →
    (r.fn = 1 → (s.part part).grants[r.lfn]? = some f → f < 2 ^ 25 → (s.frame f).state = 1 → (s.frame f).part = part → f ∉ (s.part part).staging →
      s.walk part r.va = .absent → (s.path part r.va).length = 4 →
      ∃ (s' : State) (e' : BitVec 64), exec (.mapRequest part) s = .next s' ∧ memRead s'.mem (pa + 1) = 0 ∧ s'.walk part r.va = .leaf e' 16 ∧ LeafOf e' (f * 65536) r)
    ∧ (r.fn = 2 → s.walk part r.va = .leaf e 16 →
      ∃ s' : State, exec (.unmapRequest part) s = .next s' ∧ memRead s'.mem (pa + 1) = 0 ∧ s'.walk part r.va = .absent)
    ∧ (r.fn = 3 → s.walk part r.va = .leaf e 16 → entryE e = true →
      ∃ (s' : State) (e' : BitVec 64), exec (.protectRequest part) s = .next s' ∧ memRead s'.mem (pa + 1) = 0 ∧ s'.walk part r.va = .leaf e' 16
        ∧ LeafOf e' (entryAddr e) r))
  ∧ (∀ (s : State) (part pa : Nat) (c : Call) (bs : List Byte), s.catCall part = some c → RecordOf s part c pa bs → (catRecord bs).ok (s.part part).n = true →
    let slice := (s.part part).map.getD (catRecord bs).slice 0
    let e := (s.slice slice).cat.getD (catRecord bs).entry CatEntry.reset
    let ends := fun (i : Instr) (st : Byte) (x : CatEntry) => ∃ s' : State, exec i s = .next s' ∧ (s'.vf part).catCalls = (s.vf part).catCalls.drop 1
      ∧ memRead s'.mem (pa + 1) = st ∧ (s'.slice slice).cat.getD (catRecord bs).entry CatEntry.reset = x
    ∀ i fn, (i, fn) ∈ [(Instr.catPin part, 2), (.catUnpin part, 3), (.deaccession part, 4)] → (catRecord bs).fn = fn →
      (e.state ≠ 1 → ends i 7 e)
      ∧ (e.state = 1 → fn = 2 → ends i 0 { e with pinned := true })
      ∧ (e.state = 1 → fn = 3 → ends i 0 { e with pinned := false })
      ∧ (e.state = 1 → fn = 4 → e.part = part → ends i 0 { e with state := 2, pinned := false, list := [] }))
  ∧ (∀ (s : State) (part pa e f : Nat) (c : Call) (bs m pub : List Byte) (pm : Nat → Nat) (n : Tenant) (kek key : BitVec 256) (lf : BitVec 64),
    s.catCall part = some c → RecordOf s part c pa bs → (catRecord bs).ok (s.part part).n = true →
    let r := catRecord bs
    let slice := (s.part part).map.getD r.slice 0
    let base := blockNat m 16 8
    r.fn = 1 → CmdReads s part r.manifest 272 pm → m = (List.range 272).map (fun i => memRead s.mem (pm i)) →
    blockNat m 0 4 = 1 → blockNat m 4 4 = 1 → blockNat m 8 8 ≠ 0 → base % 65536 = 0 → base + 65536 ≤ 2 ^ 56 → blockNat m 0x78 8 = 0 →
    s.tenantOf part = some n → n.pubKeys = [pub] → (Config.sha384 pub).toNat = blockNat m 0x20 48 →
    Config.ecdsaVerify pub (Config.sha384 (m.take 176)) (m.drop 176) = true → n.kek = some kek → Config.keyUnwrap kek ((m.drop 0x50).take 40) = some key →
    slice < s.slices.length → e < 16 → e < (s.slice slice).cat.length → e < (s.slice slice).keys.length →
    (∀ x ∈ (s.slice slice).cat, x.state ≠ 2) → ((s.slice slice).cat.getD e CatEntry.reset).state = 0 →
    (∀ j, j < e → ((s.slice slice).cat.getD j CatEntry.reset).state ≠ 0) → s.walk part base = .absent →
    r.staging + 65536 ≤ 2 ^ 56 → s.walk part r.staging = .leaf lf 16 → f = entryAddr lf / 65536 → entryWB lf = false → f / 2 ^ 21 = slice →
    (s.frame f).state = 1 → (s.frame f).part = part → Sound s (f * 65536) 65536 → TablesApart s part r.staging pa f → pa / 65536 ≠ f →
    (∀ q, q < 16 → (s.part q).state ≠ 0 → s.frameVas q f = if q = part then [r.staging] else []) →
    (Config.sha384 (memReadN s.mem (f * 65536) 65536)).toNat = blockNat m 0x80 48 →
    ∃ s' : State, exec (.catLoad part) s = .next s' ∧ memRead s'.mem (pa + 1) = 0 ∧ memRead s'.mem (pa + 3) = BitVec.ofNat 8 e
      ∧ (s'.vf part).catCalls = (s.vf part).catCalls.drop 1
      ∧ (s'.slice slice).cat.getD e CatEntry.reset = { accession := BitVec.ofNat 64 (blockNat m 8 8), base := BitVec.ofNat 64 base, frames := 1, state := 1
                                                       pinned := false, uses := 0, digest := Config.sha384 m, part := part, list := [f] }
      ∧ (s'.slice slice).keys.getD e KeySlot.reset = { key := key, nonce := BitVec.ofNat 64 (blockNat m 0x18 8), base := BitVec.ofNat 64 base, filled := true })
  ∧ (∀ (s : State) (part slice : Nat), (s.part part).state ≠ 0 → slice < 16 → (s.slice slice).retire = [] → (∀ g, g / 2 ^ 21 = slice → g % 2 ^ 21 < 1300480 → (s.frame g).state = 0) →
    ∃ (s' : State) (f : Nat), exec (.frameGrant part slice) s = .next s' ∧ s'.mem = s.mem ∧ f / 2 ^ 21 = slice ∧ (s'.frame f).state = 1 ∧ (s'.frame f).scrub = true
      ∧ (s'.frame f).part = part ∧ (s'.part part).grants = (s.part part).grants ++ [f])
  ∧ (∀ (s : State) (f : Nat), (s.frame f).state = 1 → Settled0 s (s.frame f).part → (∀ g, g / 4096 = f → setHas s.poison g = false ∧ s.eccAt g = none) →
    ∃ s' : State, exec (.frameReclaim f) s = .next s' ∧ (s'.frame f).state = 0 ∧ (s'.frame f).scrub = true ∧ (s'.frame f).lent = false)
  ∧ (∀ (s : State) (first count p : Nat), 0 < count → (s.part p).state ≠ 0 →
    (∀ f, first ≤ f → f < first + count → (s.frame f).state = 1 ∧ (s.frame f).part = p ∧ ∀ c ∈ s.ecc, c.1 / 4096 = f → c.2 ≠ .uncorrectable) →
    let body := natBytes 4 1 ++ natBytes 2 (first / 2 ^ 21) ++ natBytes 2 (s.part p).gen.toNat ++ natBytes 8 first ++ natBytes 4 count ++ natBytes 4 0 ++ natBytes 8 s.time
    ∃ s' : State, exec (.ownerChangeScrub first count) s = .next s'
      ∧ (s'.part p).receipts = (s.part p).receipts ++ [(first, count, body ++ Config.ecdsaSign s.signingKey (Config.sha384 body))]
      ∧ ∀ f, first ≤ f → f < first + count → (s'.frame f).scrub = false ∧ ((s.frame f).scrub = true → ∀ a, a / 65536 = f → memRead s'.mem a = 0))

/-- The whole of an access from outside lies in one 256-byte block of a present page, in sound memory (R340). -/
structure OnePiece (s : State) (part : Nat) (w : Want) (va n pa : Nat) : Prop where
  block : 0 < n ∧ va % 256 + n ≤ 256
  place : ∃ e k, s.xlate part va w = .ok pa e k
  sound : Sound s pa n

/-- No request of the function waits, so that one at an address is the first (R260). -/
def FirstAccess (s : State) (vf : Nat) (a : HostAddr) : Prop := ∀ w ∈ s.hostWaits, w.vf ≠ vf ∧ ∀ op, w.op ≠ .hostAccess vf a op

/-- A request of the host, or one that a function has translated, is taken: the virtual function takes requests, its binding is current, the link it comes by
is secure, none of its requests waits, and the function that has translated it holds the page's translation (R345, R360, R417, R418). -/
def TakesAccess (s : State) (vf : Nat) (a : HostAddr) : Prop :=
  vf < s.vfs.length ∧ (s.vf vf).enabled = true ∧ (s.vf vf).tdisp ≠ .error ∧ s.linkSecure a.link = true ∧ (s.vf vf).gen = (s.part vf).gen
    ∧ FirstAccess s vf a ∧ ∀ f, a.fn = some f → ((s.vf vf).atsOf f).enabled = true ∧ a.va.toNat / 65536 ∈ ((s.vf vf).atsOf f).cached

/-- 10 R260, R261, 14 R340, R345, 15 R379 to R381, 18 R418, R419: the host reads committed memory, writes it at once, does an atomic on it, is refused where a virtual function does not take it, and lost on a link that is not secure; an agent's
translation is answered from the table and remembered, its invalidation completed, or its service disabled after a millisecond; a peer read in its flow's order is answered with the bytes;
an answer of the current generation reaches its access, a late load's registers among them; a new generation replaces the old. -/
def Obligations.OutsideAccesses : Prop :=
  (∀ (s : State) (vf pa n : Nat) (a : HostAddr), TakesAccess s vf a → a.va.toNat + n ≤ 2 ^ 56 → OnePiece s vf .read a.va.toNat n pa →
    ∃ s' : State, exec (.hostAccess vf a (.read n)) s = .next s' ∧ s'.mem = s.mem ∧ s'.stores = s.stores
      ∧ s'.out = .hostData vf a.va (memReadN s.mem pa n) false :: s.out)
  ∧ (∀ (s : State) (vf pa : Nat) (h : HostAddr) (bytes : List Byte), TakesAccess s vf h → h.va.toNat + bytes.length ≤ 2 ^ 56 →
    OnePiece s vf .write h.va.toNat bytes.length pa → (∀ p ∈ s.stores, p.touches pa bytes.length = false) → Memory.wf s.mem = true →
    ∃ s' : State, exec (.hostAccess vf h (.write bytes)) s = .next s'
      ∧ ∀ a, memRead s'.mem a = if pa ≤ a ∧ a < pa + bytes.length then bytes.getD (a - pa) 0 else memRead s.mem a)
  ∧ (∀ (s : State) (vf pa : Nat) (h : HostAddr) (op : BitVec 4) (wide : Bool) (v : Word64), TakesAccess s vf h → h.va.toNat + 8 ≤ 2 ^ 56 →
    let n := if wide then 8 else 4
    let old := memReadN s.mem pa n
    OnePiece s vf .write h.va.toNat n pa → h.va.toNat % n = 0 → op.toNat < 11 → s.stores = [] → Memory.wf s.mem = true →
    let new := natBytes n (atomTable op.toNat (BitVec.ofNat (8 * n) (bytesNat old)) (BitVec.ofNat (8 * n) v.toNat)).toNat
    ∃ s' : State, exec (.hostAccess vf h (.atom op wide v)) s = .next s' ∧ s'.out = .hostData vf h.va old false :: s.out
      ∧ ∀ a, memRead s'.mem a = if pa ≤ a ∧ a < pa + n then new.getD (a - pa) 0 else memRead s.mem a)
  ∧ (∀ (s : State) (vf : Nat) (h : HostAddr) (op : HostOp), s.linkSecure h.link = true → (s.vf vf).gen = (s.part vf).gen → FirstAccess s vf h →
    ((s.vf vf).enabled = false ∨ (s.vf vf).tdisp = .error) →
    ∃ s' : State, exec (.hostAccess vf h op) s = .next s' ∧ SameMemory s s' ∧ s'.out = .hostRefused vf h.va :: s.out)
  ∧ (∀ (s : State) (vf : Nat) (h : HostAddr) (op : HostOp), s.linkSecure h.link = false →
    ∃ s' : State, exec (.hostAccess vf h op) s = .next s' ∧ SameMemory s s' ∧ s'.out = s.out)
  ∧ (∀ (s : State) (vf fn pa k : Nat) (va : Word64) (e : BitVec 64), vf < s.vfs.length → (s.vf vf).enabled = true → (s.vf vf).tdisp ≠ .error →
    ((s.vf vf).atsOf fn).enabled = true → va.toNat < 2 ^ 56 → s.xlate vf va.toNat .read = .ok pa e k →
    ∃ s' : State, exec (.atsTranslationRequest vf fn va) s = .next s' ∧ s'.out = .ats vf fn va (some e) :: s.out ∧ s'.mem = s.mem
      ∧ va.toNat / 65536 ∈ ((s'.vf vf).atsOf fn).cached)
  ∧ (∀ (s : State) (vf fn : Nat), ∃ s' : State, exec (.atsInvalidationCompletion vf fn) s = .next s' ∧ (∀ a ∈ (s'.vf vf).ats, a.fn = fn → a.waiting = none)
    ∧ s'.mem = s.mem)
  ∧ (∀ (s : State) (vf fn : Nat) (a : Ats) (t0 : Nat), (s.vf vf).ats.find? (·.fn == fn) = some a → a.waiting = some t0 → t0 + 1000000 ≤ s.time →
    ∃ s' : State, exec (.atsTimeout vf fn) s = .next s' ∧ ((s'.vf vf).atsOf fn).enabled = false ∧ ((s'.vf vf).atsOf fn).waiting = none ∧ (s'.vf vf).errValid = true)
  ∧ (∀ (s : State) (p : PeerPacket) (pa n : Nat), s.portOpen p.port = true → s.stalePeer p.src p.srcPart p.gen = false → p.seq = (s.inFlow p).next →
    (s.inFlow p).early = [] → s.peerAccepts p = true → p.op = .read n false → OnePiece s p.part .read p.off n pa →
    ∃ (s' : State) (ts : List Bool), exec (.peerRequest p) s = .next s' ∧ s'.mem = s.mem
      ∧ s'.out = .reply p.src { pkg := (s.part p.part).pkg.toNat, part := p.srcPart, cu := p.cu, seq := p.seq, home := p.home, gen := p.gen, port := p.port
                                result := .data (s.seenBytes fabSees pa n) ts } :: s.out)
  ∧ (∀ (s : State) (p : PeerPacket) (pa : Nat) (bytes : List Byte) (stc : Bool), s.portOpen p.port = true → s.stalePeer p.src p.srcPart p.gen = false →
    p.seq = (s.inFlow p).next → (s.inFlow p).early = [] → s.peerAccepts p = true → p.op = .write bytes none stc →
    OnePiece s p.part (if stc then .tagWrite else .write) p.off bytes.length pa → (∀ q ∈ s.stores, q.touches pa bytes.length = false) → Memory.wf s.mem = true →
    ∃ s' : State, exec (.peerRequest p) s = .next s'
      ∧ ∀ a, memRead s'.mem a = if pa ≤ a ∧ a < pa + bytes.length then bytes.getD (a - pa) 0 else memRead s.mem a)
  ∧ (∀ (s : State) (p : PeerReply) (f : Flight) (q : PeerPacket) (off : Nat), s.portOpen p.port = true → p.gen = (s.part p.part).gen → f ∈ s.flights → f.part = p.part →
    f.answer = none → f.packet = some q → q.cu = p.cu → q.seq = p.seq → q.home = p.home → f.loc = .peer p.pkg off → (∀ u ∈ s.threads, ∀ st, u.run ≠ .exiting st) →
    (f.loose = false → (∀ g ∈ s.flights, g.loose = false) →
      ∃ s' : State, exec (.peerResponse p) s = .next s' ∧ { f with answer := some p.result } ∈ s'.flights ∧ s'.mem = s.mem)
    ∧ (∀ (t : Thread) (bytes : List Byte) (tags : List Bool), s.thread f.thread = some t → f.loose = true → (∀ g ∈ s.flights, g ≠ f → g.packet ≠ some q) →
      (∀ g ∈ s.flights, ∀ x, g.packet = some x → x.cu = q.cu → x.seq = q.seq → x.home = q.home → x = q) →
      f.share p.result = .data bytes tags →
      ∃ (s' : State) (t' : Thread), exec (.peerResponse p) s = .next s' ∧ f ∉ s'.flights ∧ s'.mem = s.mem ∧ s'.thread f.thread = some t'
        ∧ t'.regs = (s.writeLoad t f.kind f.n bytes (tags.headD false)).regs))
  ∧ (∀ (s : State) (p : PeerReply), s.portOpen p.port = false ∨ p.gen ≠ (s.part p.part).gen → exec (.peerResponse p) s = .next s)
  ∧ (∀ (s : State) (pkg part : Nat) (gen : BitVec 16), ∃ s' : State, exec (.generationUpdate pkg part gen) s = .next s'
    ∧ (∀ x ∈ s'.peerGens, x.1 = pkg → x.2.1 = part → x.2.2 = gen) ∧ (pkg, part, gen) ∈ s'.peerGens ∧ (∀ f ∈ s'.inFlows, ¬(f.pkg = pkg ∧ f.part = part)) ∧ s'.mem = s.mem)

/-- 15 R364 to R366: a marking makes the colour revoking and is acknowledged once no train of the tenant runs; a package's acknowledgement is no more awaited, and one that comes first is kept; the sweep
clears every tag of the colour in the tenant's memory, and is acknowledged when nothing of the colour is left here; the last package's acknowledgement of its sweep frees the colour. -/
def Obligations.RevocationEvents : Prop :=
  (∀ (s : State) (id k : Nat) (n : Tenant), s.tenant id = some n → 0 < k → k < n.colours.length → s.revOf id k = none → s.trains = [] →
    ∃ (s' : State) (n' : Tenant), exec (.colourMarking id k) s = .next s' ∧ s'.tenant id = some n' ∧ (n'.colours[k]?).map (·.state) = some 2
      ∧ (s'.revOf id k).map (fun (v : Revocation) => v.phase) = some (.marking ((s.otherPackages id).filter (fun q => !n.acks.contains (k, false, q))) true) ∧ s'.mem = s.mem ∧ s'.tags = s.tags
      ∧ s'.out = .markingAck id k :: s.out)
  ∧ (∀ (s : State) (id k pkg : Nat) (v : Revocation) (await : List Nat) (own : Bool), s.revOf id k = some v → v.phase = .marking await own →
    ∃ s' : State, exec (.markingAck id k pkg) s = .next s' ∧ (s'.revOf id k).map (fun (v : Revocation) => v.phase) = some (.marking (await.erase pkg) own) ∧ s'.mem = s.mem)
  ∧ (∀ (s : State) (id k pkg : Nat) (n : Tenant), s.tenant id = some n → s.revOf id k = none →
    ∃ (s' : State) (n' : Tenant), exec (.markingAck id k pkg) s = .next s' ∧ s'.tenant id = some n' ∧ (k, false, pkg) ∈ n'.acks ∧ n'.colours = n.colours ∧ s'.mem = s.mem)
  ∧ (∀ (s : State) (id k : Nat) (v : Revocation) (n : Tenant), s.stores = [] → s.tenant id = some n → s.revOf id k = some v →
    let swept := fun (s' : State) => s'.mem = s.mem ∧ ∀ g ∈ s'.tags, g ∈ s.tags ∧ ((s.part (s.frame (g / 4096)).part).tenant = id →
      (s.frame (g / 4096)).state = 1 → bytesNat (memReadN s.mem (g * 16) 16) / 2 ^ 68 % 16 ≠ k)
    (v.phase = .marking [] true → ∃ s' : State, exec (.revocationSweep id k) s = .next s' ∧ swept s'
      ∧ (s'.revOf id k).map (fun (v : Revocation) => v.phase) = some (.sweeping ((s.otherPackages id).filter (fun q => !n.acks.contains (k, true, q))) false))
    ∧ (∀ await, v.phase = .sweeping await false → await ≠ [] → s.trains = [] → (∀ c ∈ s.contexts, ∀ q ∈ c.queues, q.entries = []) →
      ∃ s' : State, exec (.revocationSweep id k) s = .next s' ∧ swept s' ∧ s'.out = .sweepAck id k :: s.out
        ∧ (s'.revOf id k).map (fun (v : Revocation) => v.phase) = some (.sweeping await true)))
  ∧ (∀ (s : State) (id k pkg : Nat) (v : Revocation) (n : Tenant), s.stores = [] → s.tenant id = some n → k < n.colours.length → s.revOf id k = some v →
    v.phase = .sweeping [pkg] true → v.caller = none →
    ∃ (s' : State) (n' : Tenant), exec (.sweepAck id k pkg) s = .next s' ∧ s'.tenant id = some n' ∧ (n'.colours[k]?).map (·.state) = some 0 ∧ s'.revOf id k = none
      ∧ s'.mem = s.mem)

/-- 07 R175, 11 R276, R277, 14 R355, R356, 15 R371, 16 R392, 17 R404, 19 R431: what a slice's units do: the patrol scrubber's granule, a refresh issued or skipped within its window, a
channel's window, the decay of use counts; the tables firmware writes; a slice's reset, its watchdog, its monitors' record with the hottest of its cluster sensors, a critical slice held, and the clocks. -/
def Obligations.SliceEvents : Prop :=
  ∀ (s : State) (n : Nat), n < 16 → s.slices.length = 16 →
    let c := s.slice n
    (c.powered = true → c.held = false → ∃ s' : State, exec (.patrolScrub n) s = .next s' ∧ s'.mem = s.mem ∧ (s'.slice n).patrol = (c.patrol + 1) % 5368709120
      ∧ (s'.slice n).events.scrubbed = c.events.scrubbed + 1)
    ∧ (∀ row, let g := (c.rowGroups.find? (·.row == row)).getD { row := row, stamp := 0, acts := [] }
      ∃ s' : State, exec (.refreshDue n row) s = .next s' ∧ s'.mem = s.mem
      ∧ (s.time < g.stamp + (if c.monitor.status.getLsbD 0 then 16000000 else 32000000) → (s'.slice n).events.skipped = c.events.skipped + 1
        ∧ (s'.slice n).events.refreshes = c.events.refreshes ∧ (s'.slice n).rowGroups.head? = some g)
      ∧ (g.stamp + (if c.monitor.status.getLsbD 0 then 16000000 else 32000000) ≤ s.time → (s'.slice n).events.refreshes = c.events.refreshes + 1
        ∧ (s'.slice n).events.skipped = c.events.skipped ∧ (s'.slice n).rowGroups.head? = some { row := g.row, stamp := s.time, acts := [] }))
    ∧ (∀ chan, (kvGet c.windows chan).getD 0 + 4000 ≤ s.time → ∃ s' : State, exec (.channelWindow n chan) s = .next s' ∧ s'.mem = s.mem
      ∧ kvGet (s'.slice n).windows chan = some (s.time / 4000 * 4000)
      ∧ ∀ u, (u ∈ (s'.slice n).uses ↔ u ∈ c.uses ∧ (u.chan = chan → s.time / 4000 ≤ u.window)) ∧ (u ∈ (s'.slice n).waits ↔ u ∈ c.waits ∧ (u.chan = chan → s.time / 4000 ≤ u.window)))
    ∧ (c.decayed + 1000000000 ≤ s.time → ∃ s' : State, exec (.useCountDecay n) s = .next s' ∧ s'.mem = s.mem ∧ (s'.slice n).cat.map (fun (e : CatEntry) => e.uses.toNat) = c.cat.map (fun (e : CatEntry) => e.uses.toNat / 2))
    ∧ (∀ chan part floor ceiling, part < 16 → floor ≤ ceiling → ceiling ≤ 0xFFFF →
      floor + (((c.arb.filter (fun a => !(a.chan == chan && a.part == part))).filter (·.chan == chan)).map (·.floor)).sum ≤ 10800 →
      ∃ s' : State, exec (.arbiterTableWrite n chan part floor ceiling) s = .next s' ∧ s'.mem = s.mem
        ∧ (s'.slice n).arb.head? = some { chan := chan, part := part, floor := floor, ceil := ceiling })
    ∧ (∀ part mask, part < c.ways.length → ∃ s' : State, exec (.wayQuotaWrite n part mask) s = .next s' ∧ s'.mem = s.mem ∧ (s'.slice n).ways = c.ways.set part mask)
    ∧ (∀ cu limit, cu < s.cus.length → 256 ≤ limit → limit ≤ 65536 → s.groupsOn cu = [] →
      ∃ s' : State, exec (.fairnessLimitWrite cu limit) s = .next s' ∧ s'.mem = s.mem ∧ s'.cu cu = { s.cu cu with fairness := limit })
    ∧ (∀ p, p < 16 → (s.part p).state ≠ 0 → n ∈ (s.part p).map → (∀ q, q < p → (s.part q).state = 0 ∨ n ∉ (s.part q).map) →
      ∃ s' : State, exec (.sliceReset n) s = .next s' ∧ (s'.part p).gen = (s.part p).gen + 1 ∧ (∀ q ∈ s'.stores, q.ctx.part ≠ p) ∧ (∀ f ∈ s'.flights, f.part ≠ p)
        ∧ (s'.slice n).tlb = [] ∧ (s'.slice n).watchdog = false ∧ (s'.vf p).prRun = false ∧ (∀ w ∈ s'.hostWaits, w.vf ≠ p) ∧ ∀ cu, cu / 12 = n → cu < s.cus.length → s'.cu cu = Cu.reset)
    ∧ (∃ s' : State, exec (.sliceWatchdog n) s = .next s' ∧ s'.mem = s.mem ∧ (s'.slice n).watchdog = true)
    ∧ (∀ t : BitVec 16, t ∈ (List.range 3).map (fun j => s.sensors.die.getD (3 * n + j) 0) → (∀ j, j < 3 → (s.sensors.die.getD (3 * n + j) 0).toInt ≤ t.toInt) →
      c.powered = true → c.sampled.getD 0 + 100000 ≤ s.time →
      (t.toInt ≤ 840 → c.held = false → ∃ s' : State, exec (.monitorSample n) s = .next s' ∧ s'.mem = s.mem ∧ (s'.slice n).monitor.dieTemp = t
        ∧ (s'.slice n).monitor.stackTemp = s.sensors.stack.getD n 0 ∧ (s'.slice n).monitor.sample = c.monitor.sample + 1
        ∧ ((s'.slice n).monitor.status.getLsbD 0 = decide (680 < t.toInt)) ∧ ((s'.slice n).monitor.status.getLsbD 1 = decide (760 < t.toInt)) ∧ (s'.slice n).held = false)
      ∧ (840 < t.toInt → c.held = false → ∃ s' : State, exec (.monitorSample n) s = .next s' ∧ (s'.slice n).held = true))
    ∧ (s.curator.stepped + 1000000 ≤ s.time → ∃ s' : State, exec .powerControlStep s = .next s' ∧ s'.mem = s.mem
      ∧ s'.curator.pace = (if s.curator.powerLimit < s.sensors.power then max 10 (s.curator.pace - 1)
        else if s.sensors.power * 100 ≤ s.curator.powerLimit * 95 then min 20 (s.curator.pace + 1) else s.curator.pace)
      ∧ ((c.monitor.status.getLsbD 1) = true → (s'.slice n).warm = max 10 (c.warm - 1)) ∧ (s'.slice n).clock = min s'.curator.pace (s'.slice n).warm)

/-- What PARTITION_CREATE asks of the slices, frames, addresses and the log size it names (R12, R274, R337, R338, R344, R357). -/
structure Creatable (s : State) (p : PartSpec) : Prop where
  place : p.part < 16 ∧ s.parts.length = 16 ∧ s.vfs.length = 16 ∧ (s.part p.part).state = 0
  slices : p.slices ≠ [] ∧ p.slices.Nodup ∧ ∀ n ∈ p.slices, n < 16 ∧ s.ownerOf n = none ∧ (s.slice n).held = false ∧ (s.slice n).powered = true
  tenant : (s.tenant p.tenant).isSome = true
  root : 16 ≤ p.pool.length ∧ p.pool.headD 0 % 16 = 0 ∧ p.pool.take 16 = (List.range 16).map (p.pool.headD 0 + ·)
  frames : (p.pool ++ p.bootFrames).Nodup ∧ ∀ f ∈ p.pool ++ p.bootFrames, (s.frame f).state = 0 ∧ f % 2 ^ 21 < 1300480 ∧ f / 2 ^ 21 < 16
  boot : p.bootVa.toNat % 65536 = 0 ∧ p.bootVa.toNat + p.bootFrames.length * 65536 ≤ 2 ^ 56
  log : 4096 ≤ p.logFrames ∧ p.logFrames ≤ 65536

/-- 02 R12, 15 R357, R358, R363, R378, 17 R406, R416, R417, R433, R454: what slice firmware does to tenants and partitions: a tenant comes with colour 0 live and goes with no
partition of its own; a partition comes with the next generation and its slices in ascending order, is powered down and up, merged, split, removed, and its virtual function reset; a reach
entry is written without ports that are not authenticated; a reset or a reach entry moves a locked interface to ERROR. The boot frames and what a split leaves to the old partition are the
model's choices (log entries 30, 34). -/
def Obligations.PartitionEvents : Prop :=
  (∀ (s : State) (id : Nat), s.tenant id = none → ∃ (s' : State) (n : Tenant), exec (.tenantCreate id) s = .next s' ∧ s'.tenant id = some n ∧ s'.mem = s.mem
    ∧ n.colours.map (·.state) = 1 :: List.replicate 15 0 ∧ n.kek = none ∧ n.exports = [] ∧ n.revs = [])
  ∧ (∀ (s : State) (id : Nat), (∀ p ∈ s.parts, p.tenant = id → p.state = 0) → ∃ s' : State, exec (.tenantEnd id) s = .next s' ∧ s'.tenant id = none ∧ SameMemory s s')
  ∧ (∀ (s : State) (p : PartSpec) (g : Nat), Creatable s p → (∀ n ∈ p.slices, (s.maxGens.getD n 0).toNat ≤ g) → (∃ n ∈ p.slices, (s.maxGens.getD n 0).toNat = g) →
    ∃ s' : State, exec (.partitionCreate p) s = .next s'
    ∧ (s'.part p.part).state = 1 ∧ (s'.part p.part).tenant = p.tenant ∧ (s'.part p.part).map = (List.range 16).filter p.slices.contains
    ∧ (s'.part p.part).gen = BitVec.ofNat 16 (g + 1) ∧ (s'.part p.part).grants = p.bootFrames
    ∧ (s'.vf p.part).enabled = true ∧ (s'.vf p.part).tdisp = .unlocked)
  ∧ (∀ (s : State) (p : Nat), (s.part p).state ≠ 0 → s.frozen p = false → (∀ l ∈ s.launches, l.ctx.part ≠ p) → Settled0 s p → ∃ s' : State, exec (.partitionRemove p) s = .next s' ∧ s'.part p = Partition.reset
    ∧ s'.vf p = Vf.reset ∧ (∀ c ∈ s'.contexts, c.id.part ≠ p) ∧ (∀ l ∈ s'.launches, l.ctx.part ≠ p) ∧ ∀ k ∈ s'.curator.sessions, k.vf ≠ p)
  ∧ (∀ (s : State) (p : Nat), (s.part p).state = 2 → (∀ n ∈ (s.part p).map, n < s.slices.length) → ∃ s' : State, exec (.partitionGate p) s = .next s' ∧ s'.mem = s.mem
    ∧ (s'.part p).state = 3 ∧ ∀ n ∈ (s.part p).map, (s'.slice n).powered = false)
  ∧ (∀ (s : State) (p : Nat), (s.part p).state = 3 → (∀ n ∈ (s.part p).map, n < s.slices.length) → ∃ s' : State, exec (.partitionPowerUp p) s = .next s' ∧ SameMemory s s'
    ∧ s'.part p = { s.part p with state := 1 } ∧ ∀ n ∈ (s.part p).map, (s'.slice n).powered = true)
  ∧ (∀ (s : State) (a b : Nat), a ≠ b → (s.part a).state ≠ 0 → (s.part b).state ≠ 0 → (s.part a).tenant = (s.part b).tenant → s.allSaved a = true → s.allSaved b = true →
    (∀ c ∈ s.contexts, c.id.part = b → s.context { part := a, id := c.id.id } = none) → s.frozen a = false → s.frozen b = false →
    ∃ s' : State, exec (.partitionMergeSplit (.merge a b)) s = .next s' ∧ s'.part b = Partition.reset ∧ s'.vf b = Vf.reset
      ∧ (s'.part a).map = (List.range 16).filter ((s.part a).map ++ (s.part b).map).contains
      ∧ (s'.part a).gen = BitVec.ofNat 16 (max (s.part a).gen.toNat (s.part b).gen.toNat + 1))
  ∧ (∀ (s : State) (a b : Nat) (ns : List Nat) (f : Nat), a ≠ b → b < 16 → s.parts.length = 16 → s.vfs.length = 16 → (s.part a).state ≠ 0 → (s.part b).state = 0 →
    s.allSaved a = true → ns ≠ [] → ns.Nodup → (∀ n ∈ ns, n < 16 ∧ n ∈ (s.part a).map) → (∃ n ∈ (s.part a).map, n ∉ ns) → s.frozen a = false →
    (s.freeRoot (((List.range 16).filter ns.contains).headD 0) = some f
      ∨ f = ((List.range 16).filter ns.contains).headD 0 * 2 ^ 21 ∧ s.freeSpan f 16 = true) →
    ∃ s' : State, exec (.partitionMergeSplit (.split a b ns)) s = .next s' ∧ ((∀ n ∈ ns, (s.slice n).held = false) → (s'.part b).state = if (s.part a).state = 3 then 3 else 1) ∧ (s'.part b).tenant = (s.part a).tenant
      ∧ (s'.part b).map = (List.range 16).filter ns.contains ∧ (s'.part b).root = f * 65536 ∧ (s'.part b).gen = (s.part a).gen + 1
      ∧ (s'.part a).gen = (s.part a).gen + 1 ∧ ∀ n, n ∈ (s'.part a).map ↔ n ∈ (s.part a).map ∧ n ∉ ns)
  ∧ (∀ (s : State) (v : Nat), s.frozen v = true → ∃ s' : State, exec (.vfReset v) s = .next s' ∧ SameMemory s s' ∧ s'.vf v = { s.vf v with tdisp := .error })
  ∧ (∀ (s : State) (v : Nat), (s.vf v).enabled = true → s.frozen v = false → ∃ s' : State, exec (.vfReset v) s = .next s' ∧ SameMemory s s' ∧ (s'.vf v).enabled = true
    ∧ (s'.vf v).tdisp = (s.vf v).tdisp ∧ (s'.vf v).ats = [] ∧ (s'.vf v).prRun = false ∧ (s'.vf v).errValid = false ∧ ∀ q, s'.qregs v q = { QueueRegs.reset with bound := (s.qregs v q).bound })
  ∧ (∀ (s : State) (p pkg : Nat) (e : BitVec 32), (s.part p).state ≠ 0 → pkg < 1024 → pkg ≠ (s.part p).pkg.toNat → (∀ i, i < 15 → e.getLsbD i = false) →
    (s.frozen p = true → ∃ s' : State, exec (.reachTableWrite p pkg e) s = .next s' ∧ SameMemory s s' ∧ (s'.vf p).tdisp = .error ∧ s'.parts = s.parts)
    ∧ (s.frozen p = false → ∃ (s' : State) (x : BitVec 32), exec (.reachTableWrite p pkg e) s = .next s' ∧ SameMemory s s' ∧ kvGet (s'.part p).reach pkg = some x
      ∧ (∀ i, i < 12 → x.getLsbD (19 + i) = (e.getLsbD (19 + i) && s.portOpen i)) ∧ ∀ i, (i < 19 ∨ i = 31) → x.getLsbD i = e.getLsbD i))

/-- 07 R187, 09 R215, 13 R333, 17 R395, R396, R402, R407, R409, R458: what slice firmware does to contexts: created with every handle free, bound to a queue, given a priority, ended;
pre-empted, with no train left; saved once quiescence has completed; restored by a placement that is permitted onto a partition that is not smaller; exported, its transfer key wrapped, once the tenant has allowed it, reported, and installed on
the target, its frames staged first, or refused with the first code that applies. The order of the codes where several apply, the uses the placement makes of a CU, and that an import takes
two events are the model's reading (log entries 34, 35, 96). -/
def Obligations.ContextEvents : Prop :=
  (∀ (s : State) (c : CtxSpec), ((s.part c.ctx.part).state = 1 ∨ (s.part c.ctx.part).state = 2) → (s.part c.ctx.part).closing = false → s.context c.ctx = none →
    c.ctx.id < 2 ^ 16 → c.slabSize % 65536 = 0 → c.slabSize ≤ 2 ^ 24 →
    let n := c.slabSize / 65536 * (12 * (s.part c.ctx.part).map.length * 2048)
    c.privBase % 65536 = 0 → c.privBase + n * 65536 ≤ 2 ^ 56 → (∀ i, i < n → s.walk c.ctx.part (c.privBase + i * 65536) = .absent) →
    (c.slabRuns.map (·.2)).sum = n → c.slabRuns.Pairwise (fun r q => q.1 + q.2 ≤ r.1 ∨ r.1 + r.2 ≤ q.1) → (∀ r ∈ c.slabRuns, 0 < r.2 ∧ s.freeSpan r.1 r.2 = true) →
    (∀ r ∈ c.roots.zipIdx, s.rootOk c.ctx.part r.2 r.1 = true) →
    ∃ (s' : State) (x : Context), exec (.contextCreate c) s = .next s' ∧ s'.context c.ctx = some x ∧ x.life = .resident ∧ x.prio = c.prio ∧ x.roots = c.roots
      ∧ x.handles = List.replicate 64 0 ∧ x.queues = [] ∧ x.session = none ∧ ((∀ n ∈ (s.part c.ctx.part).map, (s.slice n).held = false) → (s'.part c.ctx.part).state = 1))
  ∧ (∀ (s : State) (c : CtxId) (x : Context), s.context c = some x →
    (x.life ≠ .ending → (∀ l ∈ s.launches, l.ctx = c → l.phase = .waiting) → Settled0 s c.part →
      ∃ s' : State, exec (.contextEnd c) s = .next s' ∧ s'.context c = none ∧ ∀ l ∈ s'.launches, l.ctx ≠ c)
    ∧ (∀ p, ∃ s' : State, exec (.contextPriorityWrite c p) s = .next s' ∧ SameMemory s s' ∧ s'.context c = some { x with prio := p })
    ∧ (∀ q, q < 64 → c.part < s.vfs.length → (s.vf c.part).queues.length = 64 →
      (s.frozen c.part = false → ∃ s' : State, exec (.queueBind c.part q c.id) s = .next s' ∧ SameMemory s s'
        ∧ s'.qregs c.part q = { QueueRegs.reset with bound := some c.id } ∧ ∀ p, p ≠ q → s'.qregs c.part p = s.qregs c.part p)
      ∧ (s.frozen c.part = true → ∃ s' : State, exec (.queueBind c.part q c.id) s = .next s' ∧ SameMemory s s' ∧ s'.vf c.part = { s.vf c.part with tdisp := .error })))
  ∧ (∀ (s : State) (c : CtxId), s.issues c = true → ∃ (s' : State) (x : Context), exec (.preempt c) s = .next s' ∧ s'.context c = some x ∧ x.life = .quiet
    ∧ ∀ r ∈ s'.trains, s.launchIn c r.launch = false)
  ∧ (∀ (s : State) (c : CtxId), s.settles c = true → (s.unsettled c = false ∨ (s.stores = [] ∧ s.flights.length ≤ 4096 ∧ (s.vf c.part).mapCalls = [] ∧ (∀ x ∈ s.contexts, ∀ q ∈ x.queues, q.entries = [])
      ∧ ∀ l ∈ s.launches, l.ctx = c → l.phase ≠ .waiting)) → ∃ (s' : State) (x : Context) (i : Image), exec (.contextSave c) s = .next s' ∧ SameMemory s s'
    ∧ s'.context c = some x ∧ x.life = .saved ∧ x.image = some i ∧ i.gen = (s.part c.part).gen ∧ (∀ t ∈ s'.threads, t.ctx ≠ c) ∧ (∀ g ∈ s'.groups, g.ctx ≠ c))
  ∧ (∀ (s : State) (c : CtxId), s.settles c = true → s.unsettled c = true → exec (.contextSave c) s = .next s)
  ∧ (∀ (s : State) (c : CtxId) (x : Context) (i : Image) (ts : List Thread) (place : List (Nat × Nat)), s.context c = some x → x.life = .saved → x.image = some i →
    i.full = some ts → ((s.part c.part).state = 1 ∨ (s.part c.part).state = 2) → i.slices ≤ (s.part c.part).n → s.restoreOk c i place = true → (∀ t ∈ ts, t.log = none) →
    (∀ t ∈ s.threads, t.ctx ≠ c) → ∃ (s' : State) (x' : Context), exec (.contextRestore c place) s = .next s' ∧ s'.context c = some x' ∧ x'.life = .resident ∧ x'.image = none
      ∧ ((∀ n ∈ (s.part c.part).map, (s.slice n).held = false) → (s'.part c.part).state = 1))
  ∧ (∀ (s : State) (c : CtxId) (x : Context) (i : Image) (place : List (Nat × Nat)), s.context c = some x → x.image = some i →
    (s.part c.part).n < i.slices ∨ i.full = none → exec (.contextRestore c place) s = .next s)
  ∧ (∀ (s : State) (c : CtxId) (pkg : Nat) (x : Context) (i : Image) (n : Tenant) (session : BitVec 256), s.context c = some x → x.life = .saved → x.image = some i →
    s.tenantOf c.part = some n → (c, pkg) ∈ n.exports → kvGet s.curator.peers pkg = some session → ∃ (s' : State) (e : Export) (x' : Context), exec (.contextExport c pkg) s = .next s' ∧ s'.out = .image e :: s.out ∧ e.formOk = true ∧ e.desc.length = 32 ∧ e.context.image = some i
      ∧ e.launches = s.launches.filter (fun l => l.ctx == c) ∧ e.key = Config.transferWrap session n.transferKey ∧ e.stage = none ∧ e.signature = Config.ecdsaSign s.signingKey (exportDigest { e with signature := [] })
      ∧ s'.context c = some x' ∧ x'.life = .exported pkg)
  ∧ (∀ (s : State) (c : CtxId) (pkg : Nat) (x : Context), s.context c = some x → x.life = .exported pkg → Settled0 s c.part →
    (∀ y ∈ s.contexts, y.id.part = c.part → y.id ≠ c → ∀ p, y.life ≠ .exported p) → (∀ e ∈ s.staged, e.stage ≠ some c.part) →
    ∃ s' : State, exec (.importReport c pkg) s = .next s' ∧ s'.context c = none ∧ (∀ l ∈ s'.launches, l.ctx ≠ c) ∧ (s'.part c.part).staging = [])
  ∧ (∀ (s : State) (k part : Nat) (place : List (Nat × Nat)) (e : Export), s.staged[k]? = some e →
    ((s.part part).state = 1 ∨ (s.part part).state = 2) → s.context { part := part, id := e.context.id.id } = none →
    let c : CtxId := { part := part, id := e.context.id.id }
    let r : Rename := { uid := (s.nextLaunch + ·), ctx := c }
    (e.stage = none → s.importCode e part c (e.context.image.map r.image) place ≠ 0 →
      exec (.contextImport k part place) s = .next (s.emit (.importRefused (s.importCode e part c (e.context.image.map r.image) place))))
    ∧ (∀ (j : Image) ts, e.context.image = some j → Config.ecdsaVerify Config.curatorKey (exportDigest { e with signature := [], stage := none }) e.signature = true →
      (s.transferKey e).isSome = true → e.formOk = true → (compatFrom e.desc).slices ≤ (s.part part).n → (compatFrom e.desc).fits (s.part part).n = true →
      s.restoreOk c (r.image j) place = true → s.framesThere part e = true → (r.image j).full = some ts →
      (e.stage = none → ∃ s' : State, exec (.contextImport k part place) s = .next s' ∧ s'.staged[k]? = some { e with stage := some part }
        ∧ ∀ f ∈ s.importFrames part e, f ∈ (s'.part part).staging)
      ∧ (e.stage = some part → s.atsBusy part = false → (∀ t ∈ ts, t.log = none) → (∀ t ∈ s.threads, t.ctx ≠ c) →
        ∃ (s' : State) (x : Context), exec (.contextImport k part place) s = .next s' ∧ s'.context c = some x ∧ x.life = .resident ∧ x.image = none
          ∧ x.session = none ∧ s'.staged = s.staged.eraseIdx k)))

/-- A start that meets no failure but these stacks. -/
def goodStart (bad : BitVec 16) (host : Bool) : BootResult :=
  { romOk := true, firmwareOk := true, railsOk := true, linksOk := true, badStacks := bad, hostOk := host }

/-- 19 R427 to R432: a cold start ends at the first step that fails, with its code, the third in a row in minimal mode; one that meets no failure runs, its memory fresh, the
slices of failed stacks held; and what the management port does. That staged firmware outlives a loss of power is the model's choice (log entry 97). -/
def Obligations.BootEvents : Prop :=
  (∀ (s : State) (b : BootResult) (code : Byte), s.curator.minimal = false →
    (b.romOk = false ∧ code = 0x01 ∨ b.romOk = true ∧ b.firmwareOk = false ∧ code = 0x02 ∨ b.romOk = true ∧ b.firmwareOk = true ∧ b.railsOk = false ∧ code = 0x03
      ∨ b.romOk = true ∧ b.firmwareOk = true ∧ b.railsOk = true ∧ (b.linksOk = false ∨ b.badStacks = 0xFFFF#16) ∧ code = 0x04) →
    ∃ s' : State, exec (.coldStart b) s = .next s' ∧ s'.curator.reason = code ∧ s'.curator.fails = min 3 (s.curator.fails + 1) ∧ s'.curator.started = false
      ∧ s'.curator.minimal = decide (2 ≤ s.curator.fails) ∧ (∀ c ∈ s'.slices, c.held = true) ∧ s'.mem = [])
  ∧ (∀ (s : State) (bad : BitVec 16) (host : Bool), s.curator.minimal = false → bad ≠ 0xFFFF#16 →
    ∃ s' : State, exec (.coldStart (goodStart bad host)) s = .next s' ∧ s'.mem = [] ∧ s'.threads = [] ∧ s'.frames = [] ∧ (∀ p ∈ s'.parts, p.state = 0)
      ∧ s'.curator.started = host ∧ s'.curator.starting = !host ∧ s'.curator.excluded = bad ∧ s'.curator.badSlices = (if bad = 0 then s.curator.badSlices else bad) ∧ (host = true → s'.curator.fails = 0)
      ∧ (∀ n, n < s.slices.length → (s'.slice n).held = bad.getLsbD n) ∧ s'.out = if bad = 0 then s.out else .boot 0x06 bad :: s.out)
  ∧ (∀ (s : State) (b : BootResult), s.curator.minimal = true → exec (.coldStart b) s = .next s ∧ (s.curator.reported + 1000000000 ≤ s.time →
      exec .bootReasonReport s = .next (({ s with curator := { s.curator with reported := s.time } } : State).emit (.boot s.curator.reason s.curator.badSlices))))
  ∧ (∀ s : State, s.curator.starting = true → 60000000000 ≤ s.time → ∃ s' : State, exec .bootTimeout s = .next s' ∧ s'.curator.reason = 0x05
    ∧ s'.curator.fails = min 3 (s.curator.fails + 1) ∧ s'.curator.starting = false ∧ (∀ c ∈ s'.slices, c.held = true) ∧ ∀ v, (s'.vf v).enabled = false)
  ∧ (∀ s : State, ∃ s' : State, exec .powerInputLoss s = .next s' ∧ s'.mem = [] ∧ s'.curator.started = false ∧ s'.curator.fails = 0 ∧ s'.curator.minimal = false
    ∧ s'.curator.powerLimit = 2400 ∧ (∀ c ∈ s'.slices, c.held = true) ∧ s'.curator.staged = s.curator.staged)
  ∧ (∀ (s : State) (w : Nat), exec (.setPowerLimit w) s
    = .next (if 600 ≤ w ∧ w ≤ 2400 ∧ w % 50 = 0 then { s with curator := { s.curator with powerLimit := w } } else s))
  ∧ (∀ (s : State) (bad : BitVec 16), bad ≠ 0xFFFF#16 → ∃ s' : State, exec (.retryBoot (goodStart bad true)) s = .next s' ∧ s'.curator.started = true
    ∧ s'.curator.minimal = false ∧ s'.curator.fails = 0 ∧ s'.mem = [])
  ∧ (∀ (s : State) (k : Nat) (image : List Byte), ∃ s' : State, exec (.firmwareStage k image) s = .next s' ∧ kvGet s'.curator.staged k = some image ∧ SameMemory s s'
    ∧ s'.curator.digests = s.curator.digests)

/-- A mailbox that answers, whose requester has negotiated. -/
structure Negotiated (s : State) (vf : Nat) : Prop where
  isOpen : vf = 16 ∨ (s.vf vf).enabled = true
  algs : (s.spdmOf vf).algs = true

/-- 18 R415, R416, R422, R424: the Curator answers a requester: version 1.3, then capabilities, then the three algorithms and no others, then the chain of slot 0 and signed measurements,
fresh while the partition runs and not ready where live evidence is required and it does not; sessions open, complete, beat, renew their keys and end. The response and error
codes are the published standard's (log entry 61). -/
def Obligations.EvidenceEvents : Prop :=
  (∀ (s : State) (vf : Nat), (vf = 16 ∨ (s.vf vf).enabled = true) →
    (∃ s' : State, exec (.getVersion vf) s = .next s' ∧ s'.out = .spdm vf spdmVersion [0x13] :: s.out ∧ (s'.spdmOf vf).version = true ∧ (s'.spdmOf vf).algs = false ∧ SameMemory s s')
    ∧ ((s.spdmOf vf).version = true → ∃ s' : State, exec (.getCapabilities vf) s = .next s' ∧ s'.out = .spdm vf spdmCapabilities [] :: s.out ∧ (s'.spdmOf vf).caps = true
      ∧ (s'.spdmOf vf).algs = false ∧ SameMemory s s')
    ∧ (∀ p h g, (s.spdmOf vf).caps = true → (p && h && g) = true → ∃ s' : State, exec (.negotiateAlgorithms vf p h g) s = .next s'
      ∧ s'.out = .spdm vf spdmAlgorithms [] :: s.out ∧ (s'.spdmOf vf).algs = true ∧ SameMemory s s')
    ∧ (∀ p h g, (s.spdmOf vf).caps = true → (p && h && g) = false → exec (.negotiateAlgorithms vf p h g) s = .next (s.spdmFail vf errInvalid)))
  ∧ (∀ (s : State) (vf : Nat), Negotiated s vf →
    exec (.getDigests vf) s = .next (s.emit (.spdm vf spdmDigests (natBytes 48 (Config.sha384 (Config.certChain s.curator.boot)).toNat)))
    ∧ (∀ slot, exec (.getCertificate vf slot) s = .next (if slot = 0 then s.emit (.spdm vf spdmCertificate (Config.certChain s.curator.boot)) else s.spdmFail vf errInvalid))
    ∧ (∀ nonce, exec (.challenge vf 0 nonce) s
      = .next (s.emit (.spdm vf spdmChallengeAuth (s.signed (natBytes 48 (Config.sha384 (Config.certChain s.curator.boot)).toNat) nonce))))
    ∧ (∀ index nonce b, (s.part vf).state = 1 → measured (s.evidenceBlocks vf) index = some b →
      ∃ s' : State, exec (.getMeasurements vf none index nonce) s = .next s' ∧ s'.out = .spdm vf spdmMeasurements (s.signed b nonce) :: s.out ∧ SameMemory s s')
    ∧ (∀ session index nonce k, s.session session = some k → k.vf = vf → k.live = true → (s.part vf).state ≠ 1 →
      ∃ (s' : State) (k' : Session), exec (.getMeasurements vf (some session) index nonce) s = .next s' ∧ s'.out = .spdm vf spdmError [errNotReady] :: s.out
        ∧ s'.session session = some k' ∧ k'.live = false ∧ (s'.spdmOf vf).waiting = some (some 1, index, nonce) ∧ SameMemory s s')
    ∧ (∀ live index nonce b, (s.spdmOf vf).waiting = some (live, index, nonce) → (s.part vf).state = 1 → measured (s.evidenceBlocks vf) index = some b →
      ∃ s' : State, exec (.respondIfReady vf) s = .next s' ∧ s'.out = .spdm vf spdmMeasurements (s.signed b nonce) :: s.out ∧ (s'.spdmOf vf).waiting = none ∧ SameMemory s s')
    ∧ (∀ cert, s.curator.sessions.length < 64 → (vf ≠ 16 → (s.curator.sessions.filter (·.vf == vf)).length < 4) → s.session s.curator.nextSession = none →
      ∃ (s' : State) (k : Session), exec (.keyExchange vf cert) s = .next s' ∧ s'.out = .spdm vf spdmKeyExchangeRsp (natBytes 4 s.curator.nextSession) :: s.out
        ∧ s'.session s.curator.nextSession = some k ∧ k.vf = vf ∧ k.secure = Config.certBound vf cert ∧ k.ready = false ∧ k.live = false ∧ SameMemory s s'))
  ∧ (∀ (s : State) (id : Nat) (k : Session), s.session id = some k →
    (∀ mac, k.ready = false → Config.finishOk id mac = true → ∃ s' : State, exec (.finish id mac) s = .next s' ∧ s'.session id = some { k with ready := true, beat := s.time }
      ∧ s'.out = .spdm k.vf spdmFinishRsp [] :: s.out ∧ SameMemory s s')
    ∧ (∀ mac, k.ready = false → Config.finishOk id mac = false → ∃ s' : State, exec (.finish id mac) s = .next s' ∧ s'.session id = none ∧ SameMemory s s')
    ∧ (∃ s' : State, exec (.heartbeatExpiry id) s = .next s' ∧ s'.session id = none ∧ SameMemory s s' ∧ ∀ x ∈ s'.contexts, x.session ≠ some id)
    ∧ (k.ready = true →
      (∃ s' : State, exec (.heartbeat id) s = .next s' ∧ s'.session id = some { k with beat := s.time } ∧ s'.out = .spdm k.vf spdmHeartbeatAck [] :: s.out ∧ SameMemory s s')
      ∧ (∃ s' : State, exec (.keyUpdate id) s = .next s' ∧ s'.session id = some { k with keyGen := k.keyGen + 1 } ∧ s'.out = .spdm k.vf spdmKeyUpdateAck [] :: s.out ∧ SameMemory s s'
        ∧ (∀ n, n ∉ k.linkKeys → s'.links[n]? = s.links[n]?)
        ∧ ∀ (n : Nat) (l : Link), s.links[n]? = some l → ∃ l' : Link, s'.links[n]? = some l' ∧ l'.secure = l.secure ∧ l'.keys.map (·.1) = l.keys.map (·.1))
      ∧ ∃ s' : State, exec (.endSession id) s = .next s' ∧ s'.session id = none ∧ s'.out = .spdm k.vf spdmEndSessionAck [] :: s.out ∧ SameMemory s s'
        ∧ ∀ x ∈ s'.contexts, x.session ≠ some id))

/-- A session that vendor requests are accepted in (R422). -/
structure Secure (s : State) (id : Nat) (k : Session) : Prop where
  found : s.session id = some k
  ready : k.ready = true
  secure : k.secure = true
  vf : k.vf < 16

/-- 18 R416 to R419, R421, R422: a tenant's requests: live evidence, its key-encryption key, public keys up to sixteen, exports it allows; link keys, the secure state, an interface locked
over secure links and past trusted switches, started and stopped; a stream's failure and a port's moves. That link keys come in a session of the physical function is the model's reading
(log entry 93). The 96 bytes of a public key are the model's (log entry 61). -/
def Obligations.InterfaceEvents : Prop :=
  (∀ (s : State) (id : Nat) (k : Session), Secure s id k →
    (∀ live, ∃ s' : State, exec (.evidenceMode id live) s = .next s' ∧ s'.session id = some { k with live := live } ∧ s'.out = .vendor id 0 [] :: s.out ∧ SameMemory s s')
    ∧ (∀ n, s.tenantOf k.vf = some n →
      (∀ key, ∃ s' : State, exec (.setKek id key) s = .next s' ∧ s'.tenantOf k.vf = some { n with kek := some key } ∧ s'.out = .vendor id 0 [] :: s.out ∧ SameMemory s s')
      ∧ (∀ key, key.length = 96 → ∃ s' : State, exec (.regPub id key) s = .next s' ∧ SameMemory s s'
        ∧ if key ∈ n.pubKeys then s' = s.emit (.vendor id 0 []) else if 16 ≤ n.pubKeys.length then s' = s.emit (.vendor id 6 [])
          else s'.tenantOf k.vf = some { n with pubKeys := n.pubKeys ++ [key] } ∧ s'.out = .vendor id 0 [] :: s.out)
      ∧ (∀ c pkg x, s.context { part := k.vf, id := c } = some x → pkg < 1024 → ∃ (s' : State) (n' : Tenant), exec (.allowExport id c pkg) s = .next s' ∧ s'.tenantOf k.vf = some n'
        ∧ ({ part := k.vf, id := c }, pkg) ∈ n'.exports ∧ (∀ y ∈ n.exports, y ∈ n'.exports) ∧ s'.out = .vendor id 0 [] :: s.out ∧ SameMemory s s')))
  ∧ (∀ (s : State) (id link dir : Nat) (key : BitVec 256) (k : Session) (l : Link), s.session id = some k → k.ready = true → k.vf = 16 → link < 3 → dir < 2 → s.links[link]? = some l →
    ∃ (s' : State) (l' : Link), exec (.ideKmKeyProg id link dir key) s = .next s' ∧ s'.links[link]? = some l' ∧ kvGet l'.keys dir = some key
      ∧ l'.secure = ((kvGet l'.keys 0).isSome && (kvGet l'.keys 1).isSome) ∧ SameMemory s s')
  ∧ (∀ (s : State) (vf : Nat), (s.vf vf).enabled = true →
    ((s.vf vf).tdisp = .unlocked → (∀ n ∈ (s.vf vf).links, s.linkSecure n = true) → (∀ w ∈ (s.vf vf).switches, s.trusts w = true) → ∃ s' : State, exec (.lockInterface vf) s = .next s' ∧ s'.vf vf = { s.vf vf with tdisp := .locked } ∧ SameMemory s s')
    ∧ ((∃ n ∈ (s.vf vf).links, s.linkSecure n = false) ∨ (∃ w ∈ (s.vf vf).switches, s.trusts w = false) → exec (.lockInterface vf) s = .next s)
    ∧ ((s.vf vf).tdisp = .locked → ∃ s' : State, exec (.startInterface vf) s = .next s' ∧ s'.vf vf = { s.vf vf with tdisp := .run } ∧ SameMemory s s')
    ∧ (let t := ((s.contexts.filter (fun c => c.id.part == vf)).map (·.id)).foldl (fun s c => (s.preempt c).trySave c) s
      (t.allSaved vf = true → ∃ s' : State, exec (.stopInterface vf) s = .next s' ∧ (s'.vf vf).tdisp = .unlocked ∧ s'.mem = t.mem
        ∧ ∀ q, s'.qregs vf q = { QueueRegs.reset with bound := (t.qregs vf q).bound })
      ∧ (t.allSaved vf = false → exec (.stopInterface vf) s = .next (t.hostWait 16 (.stopInterface vf))))
    ∧ ((∀ c ∈ s.contexts, c.id.part = vf → c.life = .saved) → ∃ s' : State, exec (.stopInterface vf) s = .next s' ∧ SameMemory s s'
      ∧ s'.vf vf = { s.vf vf with tdisp := .unlocked, queues := (s.vf vf).queues.map (fun (q : QueueRegs) => { QueueRegs.reset with bound := q.bound }) }))
  ∧ (∀ (s : State) (link : Nat), link < 3 → link < s.links.length → ∃ s' : State, exec (.ideStreamFailure link) s = .next s' ∧ SameMemory s s'
    ∧ s'.links[link]? = some { keys := [], secure := false } ∧ ∀ v, v < 16 → s'.vf v = if s.frozen v = true ∧ link ∈ (s.vf v).links then { s.vf v with tdisp := .error } else s.vf v)
  ∧ (∀ (s : State) (port : Nat) (ev : List Byte), port < 12 → port < s.ports.length → ∃ s' : State, exec (.ualinkPortAuth port ev) s = .next s' ∧ SameMemory s s'
    ∧ (∃ key : Option (BitVec 256), s'.ports = s.ports.set port key ∧ key.isSome = Config.evidenceOk ev)
    ∧ (Config.evidenceOk ev = false → ∀ p ∈ s'.parts, ∀ r ∈ p.reach, r.2.getLsbD (19 + port) = false) ∧ (Config.evidenceOk ev = true → s'.parts = s.parts))

/-- A debug session attached to a context. -/
structure Attached (s : State) (id ctx : Nat) (k : Session) (x : Context) : Prop where
  secure : Secure s id k
  found : s.context { part := k.vf, id := ctx } = some x
  attached : x.session = some id

/-- 18 R422 to R426: a debugger attaches to a context no other session holds; attached, it sets watches, reads the state of a parked thread and what a load of that thread would read,
lets threads issue one word, go on or take their fault, and detaches, whereupon the parked go on. -/
def Obligations.DebugEvents : Prop :=
  (∀ (s : State) (id ctx : Nat) (k : Session) (x : Context), Secure s id k → s.context { part := k.vf, id := ctx } = some x → x.session ≠ some id →
    (x.session = none → ∃ s' : State, exec (.attach id ctx) s = .next s' ∧ SameMemory s s' ∧ s'.out = .vendor id 0 [] :: s.out
      ∧ s'.context { part := k.vf, id := ctx } = some { x with session := some id })
    ∧ (x.session.isSome = true → exec (.attach id ctx) s = .next (s.emit (.vendor id 4 [])))
    ∧ exec (.detach id ctx) s = .next (s.emit (.vendor id 3 [])))
  ∧ (∀ (s : State) (id ctx : Nat) (k : Session) (x : Context), Attached s id ctx k x →
    let c : CtxId := { part := k.vf, id := ctx }
    (s.cur = none → (s.threads.map (·.id)).Nodup → ∃ s' : State, exec (.detach id ctx) s = .next s' ∧ SameMemory s s' ∧ s'.out = .vendor id 0 [] :: s.out
      ∧ s'.context c = some { x with session := none, watches := [], image := x.image.map (fun i => i.mapThreads Thread.leaveDebug) }
      ∧ ∀ t ∈ s.threads, ∀ cls a since, t.ctx = c → t.run = .parked (.debug cls a) since → { t with run := .eligible (s.now t.cu) 0 } ∈ s'.threads)
    ∧ (∀ i kinds base len, i < 4 → kinds.toNat < 8 → base.toNat % 16 = 0 → len.toNat % 16 = 0 → ∃ (s' : State) (x' : Context), exec (.setWatch id ctx i kinds base len) s = .next s'
      ∧ SameMemory s s' ∧ s'.out = .vendor id 0 [] :: s.out ∧ s'.context c = some x' ∧ x'.watches[i]? = some { kinds := kinds, base := base, len := len }
      ∧ (∀ j, j ≠ i → j < x.watches.length → x'.watches[j]? = x.watches[j]?))
    ∧ (∀ t u cls a, s.debugThread c t = some (u, cls, a) →
      (∀ lo hi, lo ≤ hi → hi < u.nregs → exec (.readState id ctx t (.regs lo hi)) s
        = .next (s.emit (.vendor id 0 ((List.range (hi + 1 - lo)).flatMap (fun i => natBytes 4 (u.reg (lo + i)).toNat)))))
      ∧ exec (.readState id ctx t .preds) s = .next (s.emit (.vendor id 0 (natBytes 2 (u.preds ||| 1).toNat)))
      ∧ (∀ (quad : Nat) (off : Word64) (len : Nat), len ≤ 4096 → quad % 4 = 0 → quad < u.nregs →
        let q := u.quad quad
        let ea : Int := (q.cursor : Int) + off.toInt
        let ok := fun (i : Nat) => s.deref u q { need := permLD, ea := ea + i, n := 1, al := 1, lacks := false, column := false } = none
        (∀ (bs : List Byte), bs.length = len → (∀ i : Nat, i < len → ok i ∧ ∃ cu o, s.land u q.space (ea + i).toNat .read = .ok (.sram cu o) ∧ peek s u.sees (.sram cu o) 1 = [bs.getD i 0]) →
          exec (.readMem id ctx t quad off len) s = .next ((s.dropDebug t).emit (.vendor id 0 bs)))
        ∧ (∀ pa kind tc, len = 1 → ok 0 → s.land u q.space ea.toNat .read = .ok (.hbm pa kind tc) → Sound s pa 1 →
          ∃ s' : State, exec (.readMem id ctx t quad off len) s = .next s' ∧ SameMemory s s' ∧ s'.out = .vendor id 0 (peek s u.sees (.hbm pa kind tc) 1) :: s.out)
        ∧ (0 < len → ¬ok 0 → exec (.readMem id ctx t quad off len) s = .next ((s.dropDebug t).emit (.vendor id 1 [])))))
    ∧ (∀ t, s.debugThread c t = none → ∀ item, exec (.readState id ctx t item) s = .next (s.emit (.vendor id 5 [])))
    ∧ (∀ launch group blk off t, (s.parkedAt c launch group (fun t => t.blk.toNat == blk && t.off.toNat == off)).head? = some t →
      if trainSlots ≤ (s.trains.filter (fun r => r.cu == t.cu)).length then exec (.step id ctx launch group blk off) s = .next (s.hostWait 16 (.step id ctx launch group blk off))
      else ∃ (s' : State) (r : Train), exec (.step id ctx launch group blk off) s = .next s' ∧ s'.out = .vendor id 0 [] :: s.out ∧ s'.mem = s.mem ∧ s'.trains = s.trains ++ [r]
        ∧ r.launch = launch ∧ r.group = group ∧ r.blk.toNat = blk ∧ r.off.toNat = off ∧ r.lanes.length ≤ 64 ∧ r.lanes ≠ []
        ∧ ∀ u ∈ s'.threads, u.id.launch = launch → u.id.group = group → u.id.num ∈ r.lanes → u.steps = true)
    ∧ (∀ launch group thread t cls a since, s.parkedAt c launch group (fun t => thread.isNone || thread == some t.id.num) = [t] → t.run = .parked (.debug cls a) since →
      exec (.resume id ctx launch group thread false) s = .next ((s.wakeAt t).emit (.vendor id 0 []))
      ∧ exec (.resume id ctx launch group thread true) s = .next ((s.deliverNow { t with watchSkip := false } cls a t.blk (if cls = .breakpoint then t.off - 1 else t.off)).emit (.vendor id 0 []))))
end

