-- ==== Sys2Proof/Laws/Memory.lean ====
section
/-!
SUPPORT. Byte memories: what a read gives after a write, and that every operation keeps the canonical form.
-/

namespace Sys2Proof.Machine

/-! ## The canonical form -/

/-- A lower bound may be lowered. -/
theorem memSorted_mono {lo lo' : Nat} (h : lo' ≤ lo) : ∀ {m : Mem}, memSorted lo m = true → memSorted lo' m = true
  | [], _ => rfl
  | (k, b) :: m, hm => by
    simp only [memSorted, Bool.and_eq_true, decide_eq_true_eq] at hm ⊢
    exact ⟨⟨by omega, hm.1.2⟩, hm.2⟩

/-- A byte written at or above the bound keeps the form. -/
theorem memSorted_memWrite {lo a : Nat} (v : Byte) (ha : lo ≤ a) :
    ∀ {m : Mem}, memSorted lo m = true → memSorted lo (memWrite m a v) = true
  | [], _ => by
    unfold memWrite; split
    · rfl
    · simp_all [memSorted]
  | (k, b) :: m, hm => by
    simp only [memSorted, Bool.and_eq_true, decide_eq_true_eq] at hm
    obtain ⟨⟨hk, hb⟩, hm⟩ := hm
    unfold memWrite
    split
    · split
      · simp_all [memSorted]
      · simp only [memSorted, Bool.and_eq_true, decide_eq_true_eq]
        exact ⟨⟨ha, by simp_all⟩, ⟨by omega, hb⟩, hm⟩
    · split
      · split
        · exact memSorted_mono (by omega) hm
        · simp only [memSorted, Bool.and_eq_true, decide_eq_true_eq]
          exact ⟨⟨ha, by simp_all⟩, by subst_vars; exact hm⟩
      · simp only [memSorted, Bool.and_eq_true, decide_eq_true_eq]
        exact ⟨⟨hk, hb⟩, memSorted_memWrite v (by omega) hm⟩

/-- Writing a byte keeps the form. -/
theorem memory_wf_memWrite {m : Mem} (a : Nat) (v : Byte) (h : Memory.wf m = true) : Memory.wf (memWrite m a v) = true :=
  memSorted_memWrite v (Nat.zero_le a) h

/-- Writing bytes keeps the form. -/
theorem memory_wf_memWriteN : ∀ (bs : List Byte) {m : Mem} (a : Nat), Memory.wf m = true → Memory.wf (memWriteN m a bs) = true
  | [], _, _, h => h
  | b :: bs, _, a, h => memory_wf_memWriteN bs (a + 1) (memory_wf_memWrite a b h)

/-- Leaving cells out keeps the form. -/
theorem memSorted_filter (p : Host.Cell → Bool) : ∀ {lo : Nat} {m : Mem}, memSorted lo m = true → memSorted lo (m.filter p) = true
  | _, [], _ => rfl
  | lo, (k, b) :: m, hm => by
    simp only [memSorted, Bool.and_eq_true, decide_eq_true_eq] at hm
    have ih := memSorted_filter p hm.2
    rw [List.filter_cons]
    split
    · simp only [memSorted, Bool.and_eq_true, decide_eq_true_eq]; exact ⟨hm.1, ih⟩
    · exact memSorted_mono (by omega) ih

/-- Zeroing a range keeps the form. -/
theorem memory_wf_memZero {m : Mem} (a n : Nat) (h : Memory.wf m = true) : Memory.wf (memZero m a n) = true :=
  memSorted_filter _ h

/-- Replacing a range keeps the form, whatever the source. -/
theorem memory_wf_memPatch {m : Mem} (a n : Nat) (src : Mem) (h : Memory.wf m = true) : Memory.wf (memPatch m a n src) = true := by
  unfold memPatch
  have key : ∀ (l : Mem) (m : Mem), Memory.wf m = true →
      Memory.wf (l.foldl (fun m c => if c.1 < n then memWrite m (a + c.1) c.2 else m) m) = true := by
    intro l
    induction l with
    | nil => exact fun _ h => h
    | cons c l ih =>
      intro m h
      simp only [List.foldl_cons]
      apply ih
      split
      · exact memory_wf_memWrite _ _ h
      · exact h
  exact key src _ (memory_wf_memZero a n h)

/-! ## Reading after writing -/

/-- An address below the bound reads as zero. -/
theorem memRead_below {lo a : Nat} (ha : a < lo) : ∀ {m : Mem}, memSorted lo m = true → memRead m a = 0
  | [], _ => rfl
  | (k, b) :: m, hm => by
    simp only [memSorted, Bool.and_eq_true, decide_eq_true_eq] at hm
    simp [memRead, show a < k by omega]

/-- What a memory of the form reads as after a write. -/
theorem memRead_memWrite_sorted {lo : Nat} (a : Nat) (v : Byte) (x : Nat) :
    ∀ {m : Mem}, memSorted lo m = true → memRead (memWrite m a v) x = if x = a then v else memRead m x
  | [], _ => by
    unfold memWrite
    by_cases hv : v = 0#8
    · by_cases hx : x = a <;> simp [hv, hx, memRead]
    · by_cases hx : x = a
      · simp [hv, hx, memRead]
      · by_cases hlt : x < a <;> simp [hv, hx, hlt, memRead]
  | (k, b) :: m, hm => by
    simp only [memSorted, Bool.and_eq_true, decide_eq_true_eq] at hm
    obtain ⟨⟨_, _⟩, hm⟩ := hm
    unfold memWrite
    split
    · rename_i hak
      by_cases hv : v = 0#8
      · by_cases hx : x = a
        · simp [hv, hx, memRead, hak]
        · simp [hv, hx]
      · by_cases hx : x = a
        · simp [hv, hx, memRead]
        · by_cases hlt : x < a
          · simp [hv, hx, hlt, memRead, show x < k by omega]
          · simp [hv, hx, hlt, memRead]
    · split
      · rename_i _ hak
        subst hak
        by_cases hv : v = 0#8
        · by_cases hx : x = a
          · simp [hv, hx, memRead_below (Nat.lt_succ_self a) hm]
          · by_cases hlt : x < a
            · simp [hv, hx, hlt, memRead, memRead_below (show x < a + 1 by omega) hm]
            · simp [hv, hx, hlt, memRead]
        · by_cases hx : x = a
          · simp [hv, hx, memRead]
          · by_cases hlt : x < a <;> simp [hv, hx, hlt, memRead]
      · rename_i hak hne
        simp only [memRead]
        split
        · rename_i hxk
          simp [show ¬ x = a by omega]
        · split
          · rename_i _ hxk
            simp [show ¬ x = a by omega]
          · exact memRead_memWrite_sorted a v x hm

/-- A write is read at its address and nowhere else. -/
theorem memRead_memWrite {m : Mem} (h : Memory.wf m = true) (a : Nat) (v : Byte) (x : Nat) :
    memRead (memWrite m a v) x = if x = a then v else memRead m x := memRead_memWrite_sorted a v x h

/-- Bytes written are read at their addresses and nowhere else. -/
theorem memRead_memWriteN : ∀ (bs : List Byte) {m : Mem} (a x : Nat), Memory.wf m = true →
    memRead (memWriteN m a bs) x = if a ≤ x ∧ x < a + bs.length then bs.getD (x - a) 0 else memRead m x
  | [], m, a, x, _ => by simp [memWriteN]
  | b :: bs, m, a, x, h => by
    rw [memWriteN, memRead_memWriteN bs (a + 1) x (memory_wf_memWrite a b h), memRead_memWrite h]
    by_cases hx : x = a
    · subst hx; simp
    · by_cases hlo : a + 1 ≤ x
      · have : x - a = (x - (a + 1)) + 1 := by omega
        simp [hx, hlo, show a ≤ x by omega, this, Nat.add_assoc, Nat.add_comm 1]
      · simp [hx, hlo, show ¬ a ≤ x by omega]

/-! ## Lists of records -/

/-- Changing one element of a list keeps its length. -/
@[simp] theorem modAt_length {α : Type} (l : List α) (n : Nat) (f : α → α) : (modAt l n f).length = l.length := by
  unfold modAt; split <;> simp

/-- Changing the elements a test accepts keeps the length. -/
@[simp] theorem modWhere_length {α : Type} (l : List α) (p : α → Bool) (f : α → α) : (modWhere l p f).length = l.length := by
  simp [modWhere]

/-- An element after a change at an index. -/
theorem modAt_getD {α : Type} (l : List α) (n k : Nat) (f : α → α) (d : α) (h : n < l.length) :
    (modAt l n f).getD k d = if k = n then f (l.getD n d) else l.getD k d := by
  unfold modAt
  rw [List.getElem?_eq_getElem h]
  by_cases hk : k = n
  · subst hk; simp [List.getD, h]
  · simp [List.getD, hk, List.getElem?_set_ne (Ne.symm hk)]

end Sys2Proof.Machine
end

