-- ==== Sys2Proof/Laws/PerInstr.lean ====
section
/-!
SUPPORT. The family Codec: the word of an instruction is of the format its row of the opcode table gives it and carries the
opcode of that row; an event has no word (03 R57, R63, R64, R69).
-/

namespace Sys2Proof.Laws

/-! ## Heads of the words -/

theorem fWord_head (op : BitVec 8) (w : FWord) :
    (w.toBits op).extractLsb' 62 2 = 0b00#2 ∧ (w.toBits op).extractLsb' 54 8 = op := by
  constructor <;>
  · apply BitVec.eq_of_getLsbD_eq; intro j hj
    simp only [FWord.toBits, BitVec.getLsbD_extractLsb', BitVec.getLsbD_append]
    interval_cases j <;> simp

theorem iWord_head (op : BitVec 7) (w : IWord) :
    (w.toBits op).extractLsb' 62 2 = 0b10#2 ∧ (w.toBits op).extractLsb' 55 7 = op := by
  constructor <;>
  · apply BitVec.eq_of_getLsbD_eq; intro j hj
    simp only [IWord.toBits, BitVec.getLsbD_extractLsb', BitVec.getLsbD_append]
    interval_cases j <;> simp

theorem xWord_head (op : BitVec 10) (w : XWord) :
    (w.toBits op).extractLsb' 62 2 = 0b11#2 ∧ (w.toBits op).extractLsb' 52 10 = op := by
  constructor <;>
  · apply BitVec.eq_of_getLsbD_eq; intro j hj
    simp only [XWord.toBits, BitVec.getLsbD_extractLsb', BitVec.getLsbD_append]
    interval_cases j <;> simp

theorem pairWord_head (s0 s1 : PSlot) :
    (0b01#2 ++ s0.toBits ++ s1.toBits).extractLsb' 62 2 = 0b01#2
    ∧ (0b01#2 ++ s0.toBits ++ s1.toBits).extractLsb' 56 6 = BitVec.ofNat 6 (slotTo6 s0.op)
    ∧ (0b01#2 ++ s0.toBits ++ s1.toBits).extractLsb' 25 6 = BitVec.ofNat 6 (slotTo6 s1.op) := by
  refine ⟨?_, ?_, ?_⟩ <;>
  · apply BitVec.eq_of_getLsbD_eq; intro j hj
    simp only [PSlot.toBits, BitVec.getLsbD_extractLsb', BitVec.getLsbD_append]
    interval_cases j <;> simp

/-! ## The family -/

/-- What the family says of an instruction. -/
def Codec.Statement (i : Instr) : Prop :=
  match encode i, i.code with
  | some x, .f op _ => x.extractLsb' 62 2 = 0b00#2 ∧ x.extractLsb' 54 8 = BitVec.ofNat 8 op
  | some x, .i op _ => x.extractLsb' 62 2 = 0b10#2 ∧ x.extractLsb' 55 7 = BitVec.ofNat 7 op
  | some x, .x op _ => x.extractLsb' 62 2 = 0b11#2 ∧ x.extractLsb' 52 10 = BitVec.ofNat 10 op
  | some x, .p s0 s1 => x.extractLsb' 62 2 = 0b01#2 ∧ x.extractLsb' 56 6 = BitVec.ofNat 6 (slotTo6 s0.op)
      ∧ x.extractLsb' 25 6 = BitVec.ofNat 6 (slotTo6 s1.op)
  | none, .event => True
  | _, _ => False

theorem codec_statement (i : Instr) : Codec.Statement i := by
  unfold Codec.Statement encode
  generalize i.code = c
  cases c with
  | f op w => exact fWord_head _ w
  | i op w => exact iWord_head _ w
  | x op w => exact xWord_head _ w
  | p s0 s1 => exact pairWord_head s0 s1
  | event => trivial

theorem Codec.add : ∀ w, Codec.Statement (.add w) := fun _ => codec_statement _
theorem Codec.sub : ∀ w, Codec.Statement (.sub w) := fun _ => codec_statement _
theorem Codec.addc : ∀ w, Codec.Statement (.addc w) := fun _ => codec_statement _
theorem Codec.subb : ∀ w, Codec.Statement (.subb w) := fun _ => codec_statement _
theorem Codec.mul : ∀ w, Codec.Statement (.mul w) := fun _ => codec_statement _
theorem Codec.mulhi : ∀ w, Codec.Statement (.mulhi w) := fun _ => codec_statement _
theorem Codec.mulw : ∀ w, Codec.Statement (.mulw w) := fun _ => codec_statement _
theorem Codec.mad : ∀ w, Codec.Statement (.mad w) := fun _ => codec_statement _
theorem Codec.madhi : ∀ w, Codec.Statement (.madhi w) := fun _ => codec_statement _
theorem Codec.min : ∀ w, Codec.Statement (.min w) := fun _ => codec_statement _
theorem Codec.max : ∀ w, Codec.Statement (.max w) := fun _ => codec_statement _
theorem Codec.abs : ∀ w, Codec.Statement (.abs w) := fun _ => codec_statement _
theorem Codec.neg : ∀ w, Codec.Statement (.neg w) := fun _ => codec_statement _
theorem Codec.sadd : ∀ w, Codec.Statement (.sadd w) := fun _ => codec_statement _
theorem Codec.ssub : ∀ w, Codec.Statement (.ssub w) := fun _ => codec_statement _
theorem Codec.and : ∀ w, Codec.Statement (.and w) := fun _ => codec_statement _
theorem Codec.or : ∀ w, Codec.Statement (.or w) := fun _ => codec_statement _
theorem Codec.xor : ∀ w, Codec.Statement (.xor w) := fun _ => codec_statement _
theorem Codec.andn : ∀ w, Codec.Statement (.andn w) := fun _ => codec_statement _
theorem Codec.orn : ∀ w, Codec.Statement (.orn w) := fun _ => codec_statement _
theorem Codec.not : ∀ w, Codec.Statement (.not w) := fun _ => codec_statement _
theorem Codec.shl : ∀ w, Codec.Statement (.shl w) := fun _ => codec_statement _
theorem Codec.shr : ∀ w, Codec.Statement (.shr w) := fun _ => codec_statement _
theorem Codec.sar : ∀ w, Codec.Statement (.sar w) := fun _ => codec_statement _
theorem Codec.rol : ∀ w, Codec.Statement (.rol w) := fun _ => codec_statement _
theorem Codec.ror : ∀ w, Codec.Statement (.ror w) := fun _ => codec_statement _
theorem Codec.bfx : ∀ w, Codec.Statement (.bfx w) := fun _ => codec_statement _
theorem Codec.bfi : ∀ w, Codec.Statement (.bfi w) := fun _ => codec_statement _
theorem Codec.popc : ∀ w, Codec.Statement (.popc w) := fun _ => codec_statement _
theorem Codec.clz : ∀ w, Codec.Statement (.clz w) := fun _ => codec_statement _
theorem Codec.ctz : ∀ w, Codec.Statement (.ctz w) := fun _ => codec_statement _
theorem Codec.brev : ∀ w, Codec.Statement (.brev w) := fun _ => codec_statement _
theorem Codec.bperm : ∀ w, Codec.Statement (.bperm w) := fun _ => codec_statement _
theorem Codec.sel : ∀ w, Codec.Statement (.sel w) := fun _ => codec_statement _
theorem Codec.mov : ∀ w, Codec.Statement (.mov w) := fun _ => codec_statement _
theorem Codec.clmul : ∀ w, Codec.Statement (.clmul w) := fun _ => codec_statement _
theorem Codec.clmulhi : ∀ w, Codec.Statement (.clmulhi w) := fun _ => codec_statement _
theorem Codec.dot4 : ∀ w, Codec.Statement (.dot4 w) := fun _ => codec_statement _
theorem Codec.adiff : ∀ w, Codec.Statement (.adiff w) := fun _ => codec_statement _
theorem Codec.cmp : ∀ w, Codec.Statement (.cmp w) := fun _ => codec_statement _
theorem Codec.pset : ∀ w, Codec.Statement (.pset w) := fun _ => codec_statement _
theorem Codec.p2g : ∀ w, Codec.Statement (.p2g w) := fun _ => codec_statement _
theorem Codec.g2p : ∀ w, Codec.Statement (.g2p w) := fun _ => codec_statement _
theorem Codec.scadd : ∀ w, Codec.Statement (.scadd w) := fun _ => codec_statement _
theorem Codec.fadd : ∀ w, Codec.Statement (.fadd w) := fun _ => codec_statement _
theorem Codec.fsub : ∀ w, Codec.Statement (.fsub w) := fun _ => codec_statement _
theorem Codec.fmul : ∀ w, Codec.Statement (.fmul w) := fun _ => codec_statement _
theorem Codec.ffma : ∀ w, Codec.Statement (.ffma w) := fun _ => codec_statement _
theorem Codec.fmin : ∀ w, Codec.Statement (.fmin w) := fun _ => codec_statement _
theorem Codec.fmax : ∀ w, Codec.Statement (.fmax w) := fun _ => codec_statement _
theorem Codec.fmov : ∀ w, Codec.Statement (.fmov w) := fun _ => codec_statement _
theorem Codec.fcmp : ∀ w, Codec.Statement (.fcmp w) := fun _ => codec_statement _
theorem Codec.fclass : ∀ w, Codec.Statement (.fclass w) := fun _ => codec_statement _
theorem Codec.fdiv : ∀ w, Codec.Statement (.fdiv w) := fun _ => codec_statement _
theorem Codec.fsqrt : ∀ w, Codec.Statement (.fsqrt w) := fun _ => codec_statement _
theorem Codec.frcp : ∀ w, Codec.Statement (.frcp w) := fun _ => codec_statement _
theorem Codec.frsq : ∀ w, Codec.Statement (.frsq w) := fun _ => codec_statement _
theorem Codec.fex2 : ∀ w, Codec.Statement (.fex2 w) := fun _ => codec_statement _
theorem Codec.flg2 : ∀ w, Codec.Statement (.flg2 w) := fun _ => codec_statement _
theorem Codec.fsin : ∀ w, Codec.Statement (.fsin w) := fun _ => codec_statement _
theorem Codec.fcos : ∀ w, Codec.Statement (.fcos w) := fun _ => codec_statement _
theorem Codec.fcvt : ∀ w, Codec.Statement (.fcvt w) := fun _ => codec_statement _
theorem Codec.f2i : ∀ w, Codec.Statement (.f2i w) := fun _ => codec_statement _
theorem Codec.i2f : ∀ w, Codec.Statement (.i2f w) := fun _ => codec_statement _
theorem Codec.frnd : ∀ w, Codec.Statement (.frnd w) := fun _ => codec_statement _
theorem Codec.fscale : ∀ w, Codec.Statement (.fscale w) := fun _ => codec_statement _
theorem Codec.fgexp : ∀ w, Codec.Statement (.fgexp w) := fun _ => codec_statement _
theorem Codec.hadd2 : ∀ w, Codec.Statement (.hadd2 w) := fun _ => codec_statement _
theorem Codec.hmul2 : ∀ w, Codec.Statement (.hmul2 w) := fun _ => codec_statement _
theorem Codec.hfma2 : ∀ w, Codec.Statement (.hfma2 w) := fun _ => codec_statement _
theorem Codec.fdot2 : ∀ w, Codec.Statement (.fdot2 w) := fun _ => codec_statement _
theorem Codec.qdeq : ∀ w, Codec.Statement (.qdeq w) := fun _ => codec_statement _
theorem Codec.addi : ∀ w, Codec.Statement (.addi w) := fun _ => codec_statement _
theorem Codec.muli : ∀ w, Codec.Statement (.muli w) := fun _ => codec_statement _
theorem Codec.andi : ∀ w, Codec.Statement (.andi w) := fun _ => codec_statement _
theorem Codec.ori : ∀ w, Codec.Statement (.ori w) := fun _ => codec_statement _
theorem Codec.xori : ∀ w, Codec.Statement (.xori w) := fun _ => codec_statement _
theorem Codec.movi : ∀ w, Codec.Statement (.movi w) := fun _ => codec_statement _
theorem Codec.movhi : ∀ w, Codec.Statement (.movhi w) := fun _ => codec_statement _
theorem Codec.cmpi : ∀ w, Codec.Statement (.cmpi w) := fun _ => codec_statement _
theorem Codec.mini : ∀ w, Codec.Statement (.mini w) := fun _ => codec_statement _
theorem Codec.maxi : ∀ w, Codec.Statement (.maxi w) := fun _ => codec_statement _
theorem Codec.shli : ∀ w, Codec.Statement (.shli w) := fun _ => codec_statement _
theorem Codec.shri : ∀ w, Codec.Statement (.shri w) := fun _ => codec_statement _
theorem Codec.sari : ∀ w, Codec.Statement (.sari w) := fun _ => codec_statement _
theorem Codec.fmovi : ∀ w, Codec.Statement (.fmovi w) := fun _ => codec_statement _
theorem Codec.faddi : ∀ w, Codec.Statement (.faddi w) := fun _ => codec_statement _
theorem Codec.fmuli : ∀ w, Codec.Statement (.fmuli w) := fun _ => codec_statement _
theorem Codec.bra : ∀ w, Codec.Statement (.bra w) := fun _ => codec_statement _
theorem Codec.brc : ∀ w, Codec.Statement (.brc w) := fun _ => codec_statement _
theorem Codec.call : ∀ w, Codec.Statement (.call w) := fun _ => codec_statement _
theorem Codec.exitI : ∀ w, Codec.Statement (.exitI w) := fun _ => codec_statement _
theorem Codec.trap : ∀ w, Codec.Statement (.trap w) := fun _ => codec_statement _
theorem Codec.pairWord : ∀ s0 s1, Codec.Statement (.pairWord s0 s1) := fun _ _ => codec_statement _
theorem Codec.cget : ∀ w, Codec.Statement (.cget w) := fun _ => codec_statement _
theorem Codec.cinc : ∀ w, Codec.Statement (.cinc w) := fun _ => codec_statement _
theorem Codec.csetc : ∀ w, Codec.Statement (.csetc w) := fun _ => codec_statement _
theorem Codec.cbnd : ∀ w, Codec.Statement (.cbnd w) := fun _ => codec_statement _
theorem Codec.cperm : ∀ w, Codec.Statement (.cperm w) := fun _ => codec_statement _
theorem Codec.cview : ∀ w, Codec.Statement (.cview w) := fun _ => codec_statement _
theorem Codec.cseal : ∀ w, Codec.Statement (.cseal w) := fun _ => codec_statement _
theorem Codec.cunseal : ∀ w, Codec.Statement (.cunseal w) := fun _ => codec_statement _
theorem Codec.ctag : ∀ w, Codec.Statement (.ctag w) := fun _ => codec_statement _
theorem Codec.cspc : ∀ w, Codec.Statement (.cspc w) := fun _ => codec_statement _
theorem Codec.ccast : ∀ w, Codec.Statement (.ccast w) := fun _ => codec_statement _
theorem Codec.ceq : ∀ w, Codec.Statement (.ceq w) := fun _ => codec_statement _
theorem Codec.cdif : ∀ w, Codec.Statement (.cdif w) := fun _ => codec_statement _
theorem Codec.cclr : ∀ w, Codec.Statement (.cclr w) := fun _ => codec_statement _
theorem Codec.cmov : ∀ w, Codec.Statement (.cmov w) := fun _ => codec_statement _
theorem Codec.crep : ∀ w, Codec.Statement (.crep w) := fun _ => codec_statement _
theorem Codec.ld : ∀ w, Codec.Statement (.ld w) := fun _ => codec_statement _
theorem Codec.ldc : ∀ w, Codec.Statement (.ldc w) := fun _ => codec_statement _
theorem Codec.ldv : ∀ w, Codec.Statement (.ldv w) := fun _ => codec_statement _
theorem Codec.st : ∀ w, Codec.Statement (.st w) := fun _ => codec_statement _
theorem Codec.stc : ∀ w, Codec.Statement (.stc w) := fun _ => codec_statement _
theorem Codec.stv : ∀ w, Codec.Statement (.stv w) := fun _ => codec_statement _
theorem Codec.atom : ∀ w, Codec.Statement (.atom w) := fun _ => codec_statement _
theorem Codec.acas : ∀ w, Codec.Statement (.acas w) := fun _ => codec_statement _
theorem Codec.red : ∀ w, Codec.Statement (.red w) := fun _ => codec_statement _
theorem Codec.acasc : ∀ w, Codec.Statement (.acasc w) := fun _ => codec_statement _
theorem Codec.wadr : ∀ w, Codec.Statement (.wadr w) := fun _ => codec_statement _
theorem Codec.wake : ∀ w, Codec.Statement (.wake w) := fun _ => codec_statement _
theorem Codec.pf : ∀ w, Codec.Statement (.pf w) := fun _ => codec_statement _
theorem Codec.fence : ∀ w, Codec.Statement (.fence w) := fun _ => codec_statement _
theorem Codec.drain : ∀ w, Codec.Statement (.drain w) := fun _ => codec_statement _
theorem Codec.cpy : ∀ w, Codec.Statement (.cpy w) := fun _ => codec_statement _
theorem Codec.cpyv : ∀ w, Codec.Statement (.cpyv w) := fun _ => codec_statement _
theorem Codec.cpyg : ∀ w, Codec.Statement (.cpyg w) := fun _ => codec_statement _
theorem Codec.cpyf : ∀ w, Codec.Statement (.cpyf w) := fun _ => codec_statement _
theorem Codec.qfen : ∀ w, Codec.Statement (.qfen w) := fun _ => codec_statement _
theorem Codec.wfill : ∀ w, Codec.Statement (.wfill w) := fun _ => codec_statement _
theorem Codec.mmo : ∀ w, Codec.Statement (.mmo w) := fun _ => codec_statement _
theorem Codec.mst : ∀ w, Codec.Statement (.mst w) := fun _ => codec_statement _
theorem Codec.mzro : ∀ w, Codec.Statement (.mzro w) := fun _ => codec_statement _
theorem Codec.mget : ∀ w, Codec.Statement (.mget w) := fun _ => codec_statement _
theorem Codec.obres : ∀ w, Codec.Statement (.obres w) := fun _ => codec_statement _
theorem Codec.obrel : ∀ w, Codec.Statement (.obrel w) := fun _ => codec_statement _
theorem Codec.obset : ∀ w, Codec.Statement (.obset w) := fun _ => codec_statement _
theorem Codec.qpush : ∀ w, Codec.Statement (.qpush w) := fun _ => codec_statement _
theorem Codec.qpop : ∀ w, Codec.Statement (.qpop w) := fun _ => codec_statement _
theorem Codec.stacq : ∀ w, Codec.Statement (.stacq w) := fun _ => codec_statement _
theorem Codec.strel : ∀ w, Codec.Statement (.strel w) := fun _ => codec_statement _
theorem Codec.bar : ∀ w, Codec.Statement (.bar w) := fun _ => codec_statement _
theorem Codec.hbar : ∀ w, Codec.Statement (.hbar w) := fun _ => codec_statement _
theorem Codec.launch : ∀ w, Codec.Statement (.launch w) := fun _ => codec_statement _
theorem Codec.join : ∀ w, Codec.Statement (.join w) := fun _ => codec_statement _
theorem Codec.wait : ∀ w, Codec.Statement (.wait w) := fun _ => codec_statement _
theorem Codec.clk : ∀ w, Codec.Statement (.clk w) := fun _ => codec_statement _
theorem Codec.rds : ∀ w, Codec.Statement (.rds w) := fun _ => codec_statement _
theorem Codec.wrs : ∀ w, Codec.Statement (.wrs w) := fun _ => codec_statement _
theorem Codec.perfcRd : ∀ w, Codec.Statement (.perfcRd w) := fun _ => codec_statement _
theorem Codec.perfcSel : ∀ w, Codec.Statement (.perfcSel w) := fun _ => codec_statement _
theorem Codec.brx : ∀ w, Codec.Statement (.brx w) := fun _ => codec_statement _
theorem Codec.callx : ∀ w, Codec.Statement (.callx w) := fun _ => codec_statement _
theorem Codec.ret : ∀ w, Codec.Statement (.ret w) := fun _ => codec_statement _
theorem Codec.exitX : ∀ w, Codec.Statement (.exitX w) := fun _ => codec_statement _
theorem Codec.nop : ∀ w, Codec.Statement (.nop w) := fun _ => codec_statement _
theorem Codec.brk : ∀ w, Codec.Statement (.brk w) := fun _ => codec_statement _
theorem Codec.idle : ∀ w, Codec.Statement (.idle w) := fun _ => codec_statement _
theorem Codec.elect : ∀ w, Codec.Statement (.elect w) := fun _ => codec_statement _
theorem Codec.syscMap : ∀ w, Codec.Statement (.syscMap w) := fun _ => codec_statement _
theorem Codec.syscAlloc : ∀ w, Codec.Statement (.syscAlloc w) := fun _ => codec_statement _
theorem Codec.syscRevoke : ∀ w, Codec.Statement (.syscRevoke w) := fun _ => codec_statement _
theorem Codec.syscLown : ∀ w, Codec.Statement (.syscLown w) := fun _ => codec_statement _
theorem Codec.rti : ∀ w, Codec.Statement (.rti w) := fun _ => codec_statement _
theorem Codec.trainForm : ∀ cu, Codec.Statement (.trainForm cu) := fun _ => codec_statement _
theorem Codec.lateResultPark : ∀ t, Codec.Statement (.lateResultPark t) := fun _ => codec_statement _
theorem Codec.idleExpiry : ∀ t, Codec.Statement (.idleExpiry t) := fun _ => codec_statement _
theorem Codec.wadrTimeout : ∀ t, Codec.Statement (.wadrTimeout t) := fun _ => codec_statement _
theorem Codec.memoryResponse : ∀ k, Codec.Statement (.memoryResponse k) := fun _ => codec_statement _
theorem Codec.storePerformed : ∀ k scope, Codec.Statement (.storePerformed k scope) := fun _ _ => codec_statement _
theorem Codec.copyPerform : ∀ c cu q, Codec.Statement (.copyPerform c cu q) := fun _ _ _ => codec_statement _
theorem Codec.wfillPerform : ∀ c cu, Codec.Statement (.wfillPerform c cu) := fun _ _ => codec_statement _
theorem Codec.mmoPerform : ∀ c cu, Codec.Statement (.mmoPerform c cu) := fun _ _ => codec_statement _
theorem Codec.firstUseTrap : ∀ c cu tile, Codec.Statement (.firstUseTrap c cu tile) := fun _ _ _ => codec_statement _
theorem Codec.subnormalAssist : ∀ c cu, Codec.Statement (.subnormalAssist c cu) := fun _ _ => codec_statement _
theorem Codec.mstPerform : ∀ c cu, Codec.Statement (.mstPerform c cu) := fun _ _ => codec_statement _
theorem Codec.mzroPerform : ∀ c cu, Codec.Statement (.mzroPerform c cu) := fun _ _ => codec_statement _
theorem Codec.obsetPerform : ∀ c cu, Codec.Statement (.obsetPerform c cu) := fun _ _ => codec_statement _
theorem Codec.obrelPerform : ∀ c cu, Codec.Statement (.obrelPerform c cu) := fun _ _ => codec_statement _
theorem Codec.qfenJoin : ∀ c cu id, Codec.Statement (.qfenJoin c cu id) := fun _ _ _ => codec_statement _
theorem Codec.keyCacheFill : ∀ cu slice entry, Codec.Statement (.keyCacheFill cu slice entry) := fun _ _ _ => codec_statement _
theorem Codec.launchStart : ∀ l, Codec.Statement (.launchStart l) := fun _ => codec_statement _
theorem Codec.teamAdmit : ∀ l cus, Codec.Statement (.teamAdmit l cus) := fun _ _ => codec_statement _
theorem Codec.completionRecordWrite : ∀ l, Codec.Statement (.completionRecordWrite l) := fun _ => codec_statement _
theorem Codec.cmdNop : ∀ vf q, Codec.Statement (.cmdNop vf q) := fun _ _ => codec_statement _
theorem Codec.cmdLaunch : ∀ vf q, Codec.Statement (.cmdLaunch vf q) := fun _ _ => codec_statement _
theorem Codec.cmdHandle : ∀ vf q, Codec.Statement (.cmdHandle vf q) := fun _ _ => codec_statement _
theorem Codec.qtail : ∀ vf q v, Codec.Statement (.qtail vf q v) := fun _ _ _ => codec_statement _
theorem Codec.qstatRun : ∀ vf q run, Codec.Statement (.qstatRun vf q run) := fun _ _ _ => codec_statement _
theorem Codec.qstatClearStopped : ∀ vf q, Codec.Statement (.qstatClearStopped vf q) := fun _ _ => codec_statement _
theorem Codec.prreplyResolved : ∀ vf id gen, Codec.Statement (.prreplyResolved vf id gen) := fun _ _ _ => codec_statement _
theorem Codec.prreplyInvalid : ∀ vf id gen, Codec.Statement (.prreplyInvalid vf id gen) := fun _ _ _ => codec_statement _
theorem Codec.vfErrorClear : ∀ vf, Codec.Statement (.vfErrorClear vf) := fun _ => codec_statement _
theorem Codec.registerWrite : ∀ vf off v, Codec.Statement (.registerWrite vf off v) := fun _ _ _ => codec_statement _
theorem Codec.mapRequest : ∀ part, Codec.Statement (.mapRequest part) := fun _ => codec_statement _
theorem Codec.unmapRequest : ∀ part, Codec.Statement (.unmapRequest part) := fun _ => codec_statement _
theorem Codec.protectRequest : ∀ part, Codec.Statement (.protectRequest part) := fun _ => codec_statement _
theorem Codec.catLoad : ∀ part, Codec.Statement (.catLoad part) := fun _ => codec_statement _
theorem Codec.catPin : ∀ part, Codec.Statement (.catPin part) := fun _ => codec_statement _
theorem Codec.catUnpin : ∀ part, Codec.Statement (.catUnpin part) := fun _ => codec_statement _
theorem Codec.deaccession : ∀ part, Codec.Statement (.deaccession part) := fun _ => codec_statement _
theorem Codec.hostAccess : ∀ vf va op, Codec.Statement (.hostAccess vf va op) := fun _ _ _ => codec_statement _
theorem Codec.atsTranslationRequest : ∀ vf fn va, Codec.Statement (.atsTranslationRequest vf fn va) := fun _ _ _ => codec_statement _
theorem Codec.atsInvalidationCompletion : ∀ vf fn, Codec.Statement (.atsInvalidationCompletion vf fn) := fun _ _ => codec_statement _
theorem Codec.atsTimeout : ∀ vf fn, Codec.Statement (.atsTimeout vf fn) := fun _ _ => codec_statement _
theorem Codec.peerRequest : ∀ p, Codec.Statement (.peerRequest p) := fun _ => codec_statement _
theorem Codec.peerResponse : ∀ p, Codec.Statement (.peerResponse p) := fun _ => codec_statement _
theorem Codec.generationUpdate : ∀ pkg part gen, Codec.Statement (.generationUpdate pkg part gen) := fun _ _ _ => codec_statement _
theorem Codec.colourMarking : ∀ tenant colour, Codec.Statement (.colourMarking tenant colour) := fun _ _ => codec_statement _
theorem Codec.markingAck : ∀ tenant colour pkg, Codec.Statement (.markingAck tenant colour pkg) := fun _ _ _ => codec_statement _
theorem Codec.revocationSweep : ∀ tenant colour, Codec.Statement (.revocationSweep tenant colour) := fun _ _ => codec_statement _
theorem Codec.sweepAck : ∀ tenant colour pkg, Codec.Statement (.sweepAck tenant colour pkg) := fun _ _ _ => codec_statement _
theorem Codec.frameGrant : ∀ part slice, Codec.Statement (.frameGrant part slice) := fun _ _ => codec_statement _
theorem Codec.ownerChangeScrub : ∀ first count, Codec.Statement (.ownerChangeScrub first count) := fun _ _ => codec_statement _
theorem Codec.patrolScrub : ∀ slice, Codec.Statement (.patrolScrub slice) := fun _ => codec_statement _
theorem Codec.refreshDue : ∀ slice row, Codec.Statement (.refreshDue slice row) := fun _ _ => codec_statement _
theorem Codec.channelWindow : ∀ slice chan, Codec.Statement (.channelWindow slice chan) := fun _ _ => codec_statement _
theorem Codec.useCountDecay : ∀ slice, Codec.Statement (.useCountDecay slice) := fun _ => codec_statement _
theorem Codec.partitionCreate : ∀ p, Codec.Statement (.partitionCreate p) := fun _ => codec_statement _
theorem Codec.preempt : ∀ c, Codec.Statement (.preempt c) := fun _ => codec_statement _
theorem Codec.contextSave : ∀ c, Codec.Statement (.contextSave c) := fun _ => codec_statement _
theorem Codec.contextRestore : ∀ c place, Codec.Statement (.contextRestore c place) := fun _ _ => codec_statement _
theorem Codec.contextExport : ∀ c pkg, Codec.Statement (.contextExport c pkg) := fun _ _ => codec_statement _
theorem Codec.contextImport : ∀ k part place, Codec.Statement (.contextImport k part place) := fun _ _ _ => codec_statement _
theorem Codec.contextEnd : ∀ c, Codec.Statement (.contextEnd c) := fun _ => codec_statement _
theorem Codec.partitionMergeSplit : ∀ m, Codec.Statement (.partitionMergeSplit m) := fun _ => codec_statement _
theorem Codec.sliceReset : ∀ slice, Codec.Statement (.sliceReset slice) := fun _ => codec_statement _
theorem Codec.sliceWatchdog : ∀ slice, Codec.Statement (.sliceWatchdog slice) := fun _ => codec_statement _
theorem Codec.monitorSample : ∀ slice, Codec.Statement (.monitorSample slice) := fun _ => codec_statement _
theorem Codec.powerControlStep : Codec.Statement .powerControlStep := codec_statement _
theorem Codec.coldStart : ∀ b, Codec.Statement (.coldStart b) := fun _ => codec_statement _
theorem Codec.bootTimeout : Codec.Statement .bootTimeout := codec_statement _
theorem Codec.bootReasonReport : Codec.Statement .bootReasonReport := codec_statement _
theorem Codec.powerInputLoss : Codec.Statement .powerInputLoss := codec_statement _
theorem Codec.setPowerLimit : ∀ watts, Codec.Statement (.setPowerLimit watts) := fun _ => codec_statement _
theorem Codec.retryBoot : ∀ b, Codec.Statement (.retryBoot b) := fun _ => codec_statement _
theorem Codec.firmwareStage : ∀ kind image, Codec.Statement (.firmwareStage kind image) := fun _ _ => codec_statement _
theorem Codec.getVersion : ∀ vf, Codec.Statement (.getVersion vf) := fun _ => codec_statement _
theorem Codec.getCapabilities : ∀ vf, Codec.Statement (.getCapabilities vf) := fun _ => codec_statement _
theorem Codec.negotiateAlgorithms : ∀ vf p384 sha384 gcm, Codec.Statement (.negotiateAlgorithms vf p384 sha384 gcm) := fun _ _ _ _ => codec_statement _
theorem Codec.getDigests : ∀ vf, Codec.Statement (.getDigests vf) := fun _ => codec_statement _
theorem Codec.getCertificate : ∀ vf slot, Codec.Statement (.getCertificate vf slot) := fun _ _ => codec_statement _
theorem Codec.challenge : ∀ vf slot nonce, Codec.Statement (.challenge vf slot nonce) := fun _ _ _ => codec_statement _
theorem Codec.getMeasurements : ∀ vf session index nonce, Codec.Statement (.getMeasurements vf session index nonce) := fun _ _ _ _ => codec_statement _
theorem Codec.keyExchange : ∀ vf cert, Codec.Statement (.keyExchange vf cert) := fun _ _ => codec_statement _
theorem Codec.finish : ∀ session mac, Codec.Statement (.finish session mac) := fun _ _ => codec_statement _
theorem Codec.heartbeat : ∀ session, Codec.Statement (.heartbeat session) := fun _ => codec_statement _
theorem Codec.heartbeatExpiry : ∀ session, Codec.Statement (.heartbeatExpiry session) := fun _ => codec_statement _
theorem Codec.keyUpdate : ∀ session, Codec.Statement (.keyUpdate session) := fun _ => codec_statement _
theorem Codec.endSession : ∀ session, Codec.Statement (.endSession session) := fun _ => codec_statement _
theorem Codec.respondIfReady : ∀ vf, Codec.Statement (.respondIfReady vf) := fun _ => codec_statement _
theorem Codec.evidenceMode : ∀ session live, Codec.Statement (.evidenceMode session live) := fun _ _ => codec_statement _
theorem Codec.setKek : ∀ session key, Codec.Statement (.setKek session key) := fun _ _ => codec_statement _
theorem Codec.regPub : ∀ session key, Codec.Statement (.regPub session key) := fun _ _ => codec_statement _
theorem Codec.allowExport : ∀ session ctx pkg, Codec.Statement (.allowExport session ctx pkg) := fun _ _ _ => codec_statement _
theorem Codec.attach : ∀ session ctx, Codec.Statement (.attach session ctx) := fun _ _ => codec_statement _
theorem Codec.detach : ∀ session ctx, Codec.Statement (.detach session ctx) := fun _ _ => codec_statement _
theorem Codec.setWatch : ∀ session ctx index kinds base len, Codec.Statement (.setWatch session ctx index kinds base len) := fun _ _ _ _ _ _ => codec_statement _
theorem Codec.readState : ∀ session ctx t item, Codec.Statement (.readState session ctx t item) := fun _ _ _ _ => codec_statement _
theorem Codec.readMem : ∀ session ctx t quad off len, Codec.Statement (.readMem session ctx t quad off len) := fun _ _ _ _ _ _ => codec_statement _
theorem Codec.step : ∀ session ctx launch group blk off, Codec.Statement (.step session ctx launch group blk off) := fun _ _ _ _ _ _ => codec_statement _
theorem Codec.resume : ∀ session ctx launch group thread deliver, Codec.Statement (.resume session ctx launch group thread deliver) := fun _ _ _ _ _ _ => codec_statement _
theorem Codec.lockInterface : ∀ vf, Codec.Statement (.lockInterface vf) := fun _ => codec_statement _
theorem Codec.startInterface : ∀ vf, Codec.Statement (.startInterface vf) := fun _ => codec_statement _
theorem Codec.stopInterface : ∀ vf, Codec.Statement (.stopInterface vf) := fun _ => codec_statement _
theorem Codec.ideStreamFailure : ∀ link, Codec.Statement (.ideStreamFailure link) := fun _ => codec_statement _
theorem Codec.ualinkPortAuth : ∀ port evidence, Codec.Statement (.ualinkPortAuth port evidence) := fun _ _ => codec_statement _
theorem Codec.partitionRemove : ∀ part, Codec.Statement (.partitionRemove part) := fun _ => codec_statement _
theorem Codec.frameReclaim : ∀ frame, Codec.Statement (.frameReclaim frame) := fun _ => codec_statement _
theorem Codec.tenantCreate : ∀ tenant, Codec.Statement (.tenantCreate tenant) := fun _ => codec_statement _
theorem Codec.tenantEnd : ∀ tenant, Codec.Statement (.tenantEnd tenant) := fun _ => codec_statement _
theorem Codec.contextCreate : ∀ c, Codec.Statement (.contextCreate c) := fun _ => codec_statement _
theorem Codec.queueBind : ∀ vf q ctx, Codec.Statement (.queueBind vf q ctx) := fun _ _ _ => codec_statement _
theorem Codec.partitionGate : ∀ part, Codec.Statement (.partitionGate part) := fun _ => codec_statement _
theorem Codec.partitionPowerUp : ∀ part, Codec.Statement (.partitionPowerUp part) := fun _ => codec_statement _
theorem Codec.vfReset : ∀ vf, Codec.Statement (.vfReset vf) := fun _ => codec_statement _
theorem Codec.reachTableWrite : ∀ part pkg entry, Codec.Statement (.reachTableWrite part pkg entry) := fun _ _ _ => codec_statement _
theorem Codec.arbiterTableWrite : ∀ slice chan part floor ceiling, Codec.Statement (.arbiterTableWrite slice chan part floor ceiling) := fun _ _ _ _ _ => codec_statement _
theorem Codec.wayQuotaWrite : ∀ slice part mask, Codec.Statement (.wayQuotaWrite slice part mask) := fun _ _ _ => codec_statement _
theorem Codec.fairnessLimitWrite : ∀ cu limit, Codec.Statement (.fairnessLimitWrite cu limit) := fun _ _ => codec_statement _
theorem Codec.contextPriorityWrite : ∀ c prio, Codec.Statement (.contextPriorityWrite c prio) := fun _ _ => codec_statement _
theorem Codec.ideKmKeyProg : ∀ session link dir key, Codec.Statement (.ideKmKeyProg session link dir key) := fun _ _ _ _ => codec_statement _
theorem Codec.importReport : ∀ c pkg, Codec.Statement (.importReport c pkg) := fun _ _ => codec_statement _

end Sys2Proof.Laws
end

