-- ==== Sys2Proof/Laws/State.lean ====
section
/-!
SUPPORT. What each update of the state leaves: one lemma for each field of each update.
-/

namespace Sys2Proof.Machine

/-! ## `State.modSlice` -/

@[simp] theorem State.modSlice_cur (s : State) (n : Nat) (f : Slice → Slice) : (s.modSlice n f).cur = s.cur := rfl
@[simp] theorem State.modSlice_threads (s : State) (n : Nat) (f : Slice → Slice) : (s.modSlice n f).threads = s.threads := rfl
@[simp] theorem State.modSlice_trains (s : State) (n : Nat) (f : Slice → Slice) : (s.modSlice n f).trains = s.trains := rfl
@[simp] theorem State.modSlice_plats (s : State) (n : Nat) (f : Slice → Slice) : (s.modSlice n f).plats = s.plats := rfl
@[simp] theorem State.modSlice_groups (s : State) (n : Nat) (f : Slice → Slice) : (s.modSlice n f).groups = s.groups := rfl
@[simp] theorem State.modSlice_teams (s : State) (n : Nat) (f : Slice → Slice) : (s.modSlice n f).teams = s.teams := rfl
@[simp] theorem State.modSlice_launches (s : State) (n : Nat) (f : Slice → Slice) : (s.modSlice n f).launches = s.launches := rfl
@[simp] theorem State.modSlice_contexts (s : State) (n : Nat) (f : Slice → Slice) : (s.modSlice n f).contexts = s.contexts := rfl
@[simp] theorem State.modSlice_cus (s : State) (n : Nat) (f : Slice → Slice) : (s.modSlice n f).cus = s.cus := rfl
@[simp] theorem State.modSlice_monitors (s : State) (n : Nat) (f : Slice → Slice) : (s.modSlice n f).monitors = s.monitors := rfl
@[simp] theorem State.modSlice_slices (s : State) (n : Nat) (f : Slice → Slice) : (s.modSlice n f).slices = modAt s.slices n f := rfl
@[simp] theorem State.modSlice_mem (s : State) (n : Nat) (f : Slice → Slice) : (s.modSlice n f).mem = s.mem := rfl
@[simp] theorem State.modSlice_tags (s : State) (n : Nat) (f : Slice → Slice) : (s.modSlice n f).tags = s.tags := rfl
@[simp] theorem State.modSlice_poison (s : State) (n : Nat) (f : Slice → Slice) : (s.modSlice n f).poison = s.poison := rfl
@[simp] theorem State.modSlice_ecc (s : State) (n : Nat) (f : Slice → Slice) : (s.modSlice n f).ecc = s.ecc := rfl
@[simp] theorem State.modSlice_frames (s : State) (n : Nat) (f : Slice → Slice) : (s.modSlice n f).frames = s.frames := rfl
@[simp] theorem State.modSlice_runs (s : State) (n : Nat) (f : Slice → Slice) : (s.modSlice n f).runs = s.runs := rfl
@[simp] theorem State.modSlice_parts (s : State) (n : Nat) (f : Slice → Slice) : (s.modSlice n f).parts = s.parts := rfl
@[simp] theorem State.modSlice_tenants (s : State) (n : Nat) (f : Slice → Slice) : (s.modSlice n f).tenants = s.tenants := rfl
@[simp] theorem State.modSlice_vfs (s : State) (n : Nat) (f : Slice → Slice) : (s.modSlice n f).vfs = s.vfs := rfl
@[simp] theorem State.modSlice_maxGens (s : State) (n : Nat) (f : Slice → Slice) : (s.modSlice n f).maxGens = s.maxGens := rfl
@[simp] theorem State.modSlice_curator (s : State) (n : Nat) (f : Slice → Slice) : (s.modSlice n f).curator = s.curator := rfl
@[simp] theorem State.modSlice_links (s : State) (n : Nat) (f : Slice → Slice) : (s.modSlice n f).links = s.links := rfl
@[simp] theorem State.modSlice_ports (s : State) (n : Nat) (f : Slice → Slice) : (s.modSlice n f).ports = s.ports := rfl
@[simp] theorem State.modSlice_flows (s : State) (n : Nat) (f : Slice → Slice) : (s.modSlice n f).flows = s.flows := rfl
@[simp] theorem State.modSlice_inFlows (s : State) (n : Nat) (f : Slice → Slice) : (s.modSlice n f).inFlows = s.inFlows := rfl
@[simp] theorem State.modSlice_peerGens (s : State) (n : Nat) (f : Slice → Slice) : (s.modSlice n f).peerGens = s.peerGens := rfl
@[simp] theorem State.modSlice_time (s : State) (n : Nat) (f : Slice → Slice) : (s.modSlice n f).time = s.time := rfl
@[simp] theorem State.modSlice_stores (s : State) (n : Nat) (f : Slice → Slice) : (s.modSlice n f).stores = s.stores := rfl
@[simp] theorem State.modSlice_flights (s : State) (n : Nat) (f : Slice → Slice) : (s.modSlice n f).flights = s.flights := rfl
@[simp] theorem State.modSlice_nextReq (s : State) (n : Nat) (f : Slice → Slice) : (s.modSlice n f).nextReq = s.nextReq := rfl
@[simp] theorem State.modSlice_nextLaunch (s : State) (n : Nat) (f : Slice → Slice) : (s.modSlice n f).nextLaunch = s.nextLaunch := rfl
@[simp] theorem State.modSlice_nextSerial (s : State) (n : Nat) (f : Slice → Slice) : (s.modSlice n f).nextSerial = s.nextSerial := rfl
@[simp] theorem State.modSlice_staged (s : State) (n : Nat) (f : Slice → Slice) : (s.modSlice n f).staged = s.staged := rfl
@[simp] theorem State.modSlice_inbox (s : State) (n : Nat) (f : Slice → Slice) : (s.modSlice n f).inbox = s.inbox := rfl
@[simp] theorem State.modSlice_hostWaits (s : State) (n : Nat) (f : Slice → Slice) : (s.modSlice n f).hostWaits = s.hostWaits := rfl
@[simp] theorem State.modSlice_schedule (s : State) (n : Nat) (f : Slice → Slice) : (s.modSlice n f).schedule = s.schedule := rfl
@[simp] theorem State.modSlice_turn (s : State) (n : Nat) (f : Slice → Slice) : (s.modSlice n f).turn = s.turn := rfl
@[simp] theorem State.modSlice_free (s : State) (n : Nat) (f : Slice → Slice) : (s.modSlice n f).free = s.free := rfl
@[simp] theorem State.modSlice_memLate (s : State) (n : Nat) (f : Slice → Slice) : (s.modSlice n f).memLate = s.memLate := rfl
@[simp] theorem State.modSlice_upsets (s : State) (n : Nat) (f : Slice → Slice) : (s.modSlice n f).upsets = s.upsets := rfl
@[simp] theorem State.modSlice_sensors (s : State) (n : Nat) (f : Slice → Slice) : (s.modSlice n f).sensors = s.sensors := rfl
@[simp] theorem State.modSlice_out (s : State) (n : Nat) (f : Slice → Slice) : (s.modSlice n f).out = s.out := rfl

/-! ## `State.modCu` -/

@[simp] theorem State.modCu_cur (s : State) (n : Nat) (f : Cu → Cu) : (s.modCu n f).cur = s.cur := rfl
@[simp] theorem State.modCu_threads (s : State) (n : Nat) (f : Cu → Cu) : (s.modCu n f).threads = s.threads := rfl
@[simp] theorem State.modCu_trains (s : State) (n : Nat) (f : Cu → Cu) : (s.modCu n f).trains = s.trains := rfl
@[simp] theorem State.modCu_plats (s : State) (n : Nat) (f : Cu → Cu) : (s.modCu n f).plats = s.plats := rfl
@[simp] theorem State.modCu_groups (s : State) (n : Nat) (f : Cu → Cu) : (s.modCu n f).groups = s.groups := rfl
@[simp] theorem State.modCu_teams (s : State) (n : Nat) (f : Cu → Cu) : (s.modCu n f).teams = s.teams := rfl
@[simp] theorem State.modCu_launches (s : State) (n : Nat) (f : Cu → Cu) : (s.modCu n f).launches = s.launches := rfl
@[simp] theorem State.modCu_contexts (s : State) (n : Nat) (f : Cu → Cu) : (s.modCu n f).contexts = s.contexts := rfl
@[simp] theorem State.modCu_cus (s : State) (n : Nat) (f : Cu → Cu) : (s.modCu n f).cus = modAt s.cus n f := rfl
@[simp] theorem State.modCu_monitors (s : State) (n : Nat) (f : Cu → Cu) : (s.modCu n f).monitors = s.monitors := rfl
@[simp] theorem State.modCu_slices (s : State) (n : Nat) (f : Cu → Cu) : (s.modCu n f).slices = s.slices := rfl
@[simp] theorem State.modCu_mem (s : State) (n : Nat) (f : Cu → Cu) : (s.modCu n f).mem = s.mem := rfl
@[simp] theorem State.modCu_tags (s : State) (n : Nat) (f : Cu → Cu) : (s.modCu n f).tags = s.tags := rfl
@[simp] theorem State.modCu_poison (s : State) (n : Nat) (f : Cu → Cu) : (s.modCu n f).poison = s.poison := rfl
@[simp] theorem State.modCu_ecc (s : State) (n : Nat) (f : Cu → Cu) : (s.modCu n f).ecc = s.ecc := rfl
@[simp] theorem State.modCu_frames (s : State) (n : Nat) (f : Cu → Cu) : (s.modCu n f).frames = s.frames := rfl
@[simp] theorem State.modCu_runs (s : State) (n : Nat) (f : Cu → Cu) : (s.modCu n f).runs = s.runs := rfl
@[simp] theorem State.modCu_parts (s : State) (n : Nat) (f : Cu → Cu) : (s.modCu n f).parts = s.parts := rfl
@[simp] theorem State.modCu_tenants (s : State) (n : Nat) (f : Cu → Cu) : (s.modCu n f).tenants = s.tenants := rfl
@[simp] theorem State.modCu_vfs (s : State) (n : Nat) (f : Cu → Cu) : (s.modCu n f).vfs = s.vfs := rfl
@[simp] theorem State.modCu_maxGens (s : State) (n : Nat) (f : Cu → Cu) : (s.modCu n f).maxGens = s.maxGens := rfl
@[simp] theorem State.modCu_curator (s : State) (n : Nat) (f : Cu → Cu) : (s.modCu n f).curator = s.curator := rfl
@[simp] theorem State.modCu_links (s : State) (n : Nat) (f : Cu → Cu) : (s.modCu n f).links = s.links := rfl
@[simp] theorem State.modCu_ports (s : State) (n : Nat) (f : Cu → Cu) : (s.modCu n f).ports = s.ports := rfl
@[simp] theorem State.modCu_flows (s : State) (n : Nat) (f : Cu → Cu) : (s.modCu n f).flows = s.flows := rfl
@[simp] theorem State.modCu_inFlows (s : State) (n : Nat) (f : Cu → Cu) : (s.modCu n f).inFlows = s.inFlows := rfl
@[simp] theorem State.modCu_peerGens (s : State) (n : Nat) (f : Cu → Cu) : (s.modCu n f).peerGens = s.peerGens := rfl
@[simp] theorem State.modCu_time (s : State) (n : Nat) (f : Cu → Cu) : (s.modCu n f).time = s.time := rfl
@[simp] theorem State.modCu_stores (s : State) (n : Nat) (f : Cu → Cu) : (s.modCu n f).stores = s.stores := rfl
@[simp] theorem State.modCu_flights (s : State) (n : Nat) (f : Cu → Cu) : (s.modCu n f).flights = s.flights := rfl
@[simp] theorem State.modCu_nextReq (s : State) (n : Nat) (f : Cu → Cu) : (s.modCu n f).nextReq = s.nextReq := rfl
@[simp] theorem State.modCu_nextLaunch (s : State) (n : Nat) (f : Cu → Cu) : (s.modCu n f).nextLaunch = s.nextLaunch := rfl
@[simp] theorem State.modCu_nextSerial (s : State) (n : Nat) (f : Cu → Cu) : (s.modCu n f).nextSerial = s.nextSerial := rfl
@[simp] theorem State.modCu_staged (s : State) (n : Nat) (f : Cu → Cu) : (s.modCu n f).staged = s.staged := rfl
@[simp] theorem State.modCu_inbox (s : State) (n : Nat) (f : Cu → Cu) : (s.modCu n f).inbox = s.inbox := rfl
@[simp] theorem State.modCu_hostWaits (s : State) (n : Nat) (f : Cu → Cu) : (s.modCu n f).hostWaits = s.hostWaits := rfl
@[simp] theorem State.modCu_schedule (s : State) (n : Nat) (f : Cu → Cu) : (s.modCu n f).schedule = s.schedule := rfl
@[simp] theorem State.modCu_turn (s : State) (n : Nat) (f : Cu → Cu) : (s.modCu n f).turn = s.turn := rfl
@[simp] theorem State.modCu_free (s : State) (n : Nat) (f : Cu → Cu) : (s.modCu n f).free = s.free := rfl
@[simp] theorem State.modCu_memLate (s : State) (n : Nat) (f : Cu → Cu) : (s.modCu n f).memLate = s.memLate := rfl
@[simp] theorem State.modCu_upsets (s : State) (n : Nat) (f : Cu → Cu) : (s.modCu n f).upsets = s.upsets := rfl
@[simp] theorem State.modCu_sensors (s : State) (n : Nat) (f : Cu → Cu) : (s.modCu n f).sensors = s.sensors := rfl
@[simp] theorem State.modCu_out (s : State) (n : Nat) (f : Cu → Cu) : (s.modCu n f).out = s.out := rfl

/-! ## `State.modPart` -/

@[simp] theorem State.modPart_cur (s : State) (n : Nat) (f : Partition → Partition) : (s.modPart n f).cur = s.cur := rfl
@[simp] theorem State.modPart_threads (s : State) (n : Nat) (f : Partition → Partition) : (s.modPart n f).threads = s.threads := rfl
@[simp] theorem State.modPart_trains (s : State) (n : Nat) (f : Partition → Partition) : (s.modPart n f).trains = s.trains := rfl
@[simp] theorem State.modPart_plats (s : State) (n : Nat) (f : Partition → Partition) : (s.modPart n f).plats = s.plats := rfl
@[simp] theorem State.modPart_groups (s : State) (n : Nat) (f : Partition → Partition) : (s.modPart n f).groups = s.groups := rfl
@[simp] theorem State.modPart_teams (s : State) (n : Nat) (f : Partition → Partition) : (s.modPart n f).teams = s.teams := rfl
@[simp] theorem State.modPart_launches (s : State) (n : Nat) (f : Partition → Partition) : (s.modPart n f).launches = s.launches := rfl
@[simp] theorem State.modPart_contexts (s : State) (n : Nat) (f : Partition → Partition) : (s.modPart n f).contexts = s.contexts := rfl
@[simp] theorem State.modPart_cus (s : State) (n : Nat) (f : Partition → Partition) : (s.modPart n f).cus = s.cus := rfl
@[simp] theorem State.modPart_monitors (s : State) (n : Nat) (f : Partition → Partition) : (s.modPart n f).monitors = s.monitors := rfl
@[simp] theorem State.modPart_slices (s : State) (n : Nat) (f : Partition → Partition) : (s.modPart n f).slices = s.slices := rfl
@[simp] theorem State.modPart_mem (s : State) (n : Nat) (f : Partition → Partition) : (s.modPart n f).mem = s.mem := rfl
@[simp] theorem State.modPart_tags (s : State) (n : Nat) (f : Partition → Partition) : (s.modPart n f).tags = s.tags := rfl
@[simp] theorem State.modPart_poison (s : State) (n : Nat) (f : Partition → Partition) : (s.modPart n f).poison = s.poison := rfl
@[simp] theorem State.modPart_ecc (s : State) (n : Nat) (f : Partition → Partition) : (s.modPart n f).ecc = s.ecc := rfl
@[simp] theorem State.modPart_frames (s : State) (n : Nat) (f : Partition → Partition) : (s.modPart n f).frames = s.frames := rfl
@[simp] theorem State.modPart_runs (s : State) (n : Nat) (f : Partition → Partition) : (s.modPart n f).runs = s.runs := rfl
@[simp] theorem State.modPart_parts (s : State) (n : Nat) (f : Partition → Partition) : (s.modPart n f).parts = modAt s.parts n f := rfl
@[simp] theorem State.modPart_tenants (s : State) (n : Nat) (f : Partition → Partition) : (s.modPart n f).tenants = s.tenants := rfl
@[simp] theorem State.modPart_vfs (s : State) (n : Nat) (f : Partition → Partition) : (s.modPart n f).vfs = s.vfs := rfl
@[simp] theorem State.modPart_maxGens (s : State) (n : Nat) (f : Partition → Partition) : (s.modPart n f).maxGens = s.maxGens := rfl
@[simp] theorem State.modPart_curator (s : State) (n : Nat) (f : Partition → Partition) : (s.modPart n f).curator = s.curator := rfl
@[simp] theorem State.modPart_links (s : State) (n : Nat) (f : Partition → Partition) : (s.modPart n f).links = s.links := rfl
@[simp] theorem State.modPart_ports (s : State) (n : Nat) (f : Partition → Partition) : (s.modPart n f).ports = s.ports := rfl
@[simp] theorem State.modPart_flows (s : State) (n : Nat) (f : Partition → Partition) : (s.modPart n f).flows = s.flows := rfl
@[simp] theorem State.modPart_inFlows (s : State) (n : Nat) (f : Partition → Partition) : (s.modPart n f).inFlows = s.inFlows := rfl
@[simp] theorem State.modPart_peerGens (s : State) (n : Nat) (f : Partition → Partition) : (s.modPart n f).peerGens = s.peerGens := rfl
@[simp] theorem State.modPart_time (s : State) (n : Nat) (f : Partition → Partition) : (s.modPart n f).time = s.time := rfl
@[simp] theorem State.modPart_stores (s : State) (n : Nat) (f : Partition → Partition) : (s.modPart n f).stores = s.stores := rfl
@[simp] theorem State.modPart_flights (s : State) (n : Nat) (f : Partition → Partition) : (s.modPart n f).flights = s.flights := rfl
@[simp] theorem State.modPart_nextReq (s : State) (n : Nat) (f : Partition → Partition) : (s.modPart n f).nextReq = s.nextReq := rfl
@[simp] theorem State.modPart_nextLaunch (s : State) (n : Nat) (f : Partition → Partition) : (s.modPart n f).nextLaunch = s.nextLaunch := rfl
@[simp] theorem State.modPart_nextSerial (s : State) (n : Nat) (f : Partition → Partition) : (s.modPart n f).nextSerial = s.nextSerial := rfl
@[simp] theorem State.modPart_staged (s : State) (n : Nat) (f : Partition → Partition) : (s.modPart n f).staged = s.staged := rfl
@[simp] theorem State.modPart_inbox (s : State) (n : Nat) (f : Partition → Partition) : (s.modPart n f).inbox = s.inbox := rfl
@[simp] theorem State.modPart_hostWaits (s : State) (n : Nat) (f : Partition → Partition) : (s.modPart n f).hostWaits = s.hostWaits := rfl
@[simp] theorem State.modPart_schedule (s : State) (n : Nat) (f : Partition → Partition) : (s.modPart n f).schedule = s.schedule := rfl
@[simp] theorem State.modPart_turn (s : State) (n : Nat) (f : Partition → Partition) : (s.modPart n f).turn = s.turn := rfl
@[simp] theorem State.modPart_free (s : State) (n : Nat) (f : Partition → Partition) : (s.modPart n f).free = s.free := rfl
@[simp] theorem State.modPart_memLate (s : State) (n : Nat) (f : Partition → Partition) : (s.modPart n f).memLate = s.memLate := rfl
@[simp] theorem State.modPart_upsets (s : State) (n : Nat) (f : Partition → Partition) : (s.modPart n f).upsets = s.upsets := rfl
@[simp] theorem State.modPart_sensors (s : State) (n : Nat) (f : Partition → Partition) : (s.modPart n f).sensors = s.sensors := rfl
@[simp] theorem State.modPart_out (s : State) (n : Nat) (f : Partition → Partition) : (s.modPart n f).out = s.out := rfl

/-! ## `State.modVf` -/

@[simp] theorem State.modVf_cur (s : State) (n : Nat) (f : Vf → Vf) : (s.modVf n f).cur = s.cur := rfl
@[simp] theorem State.modVf_threads (s : State) (n : Nat) (f : Vf → Vf) : (s.modVf n f).threads = s.threads := rfl
@[simp] theorem State.modVf_trains (s : State) (n : Nat) (f : Vf → Vf) : (s.modVf n f).trains = s.trains := rfl
@[simp] theorem State.modVf_plats (s : State) (n : Nat) (f : Vf → Vf) : (s.modVf n f).plats = s.plats := rfl
@[simp] theorem State.modVf_groups (s : State) (n : Nat) (f : Vf → Vf) : (s.modVf n f).groups = s.groups := rfl
@[simp] theorem State.modVf_teams (s : State) (n : Nat) (f : Vf → Vf) : (s.modVf n f).teams = s.teams := rfl
@[simp] theorem State.modVf_launches (s : State) (n : Nat) (f : Vf → Vf) : (s.modVf n f).launches = s.launches := rfl
@[simp] theorem State.modVf_contexts (s : State) (n : Nat) (f : Vf → Vf) : (s.modVf n f).contexts = s.contexts := rfl
@[simp] theorem State.modVf_cus (s : State) (n : Nat) (f : Vf → Vf) : (s.modVf n f).cus = s.cus := rfl
@[simp] theorem State.modVf_monitors (s : State) (n : Nat) (f : Vf → Vf) : (s.modVf n f).monitors = s.monitors := rfl
@[simp] theorem State.modVf_slices (s : State) (n : Nat) (f : Vf → Vf) : (s.modVf n f).slices = s.slices := rfl
@[simp] theorem State.modVf_mem (s : State) (n : Nat) (f : Vf → Vf) : (s.modVf n f).mem = s.mem := rfl
@[simp] theorem State.modVf_tags (s : State) (n : Nat) (f : Vf → Vf) : (s.modVf n f).tags = s.tags := rfl
@[simp] theorem State.modVf_poison (s : State) (n : Nat) (f : Vf → Vf) : (s.modVf n f).poison = s.poison := rfl
@[simp] theorem State.modVf_ecc (s : State) (n : Nat) (f : Vf → Vf) : (s.modVf n f).ecc = s.ecc := rfl
@[simp] theorem State.modVf_frames (s : State) (n : Nat) (f : Vf → Vf) : (s.modVf n f).frames = s.frames := rfl
@[simp] theorem State.modVf_runs (s : State) (n : Nat) (f : Vf → Vf) : (s.modVf n f).runs = s.runs := rfl
@[simp] theorem State.modVf_parts (s : State) (n : Nat) (f : Vf → Vf) : (s.modVf n f).parts = s.parts := rfl
@[simp] theorem State.modVf_tenants (s : State) (n : Nat) (f : Vf → Vf) : (s.modVf n f).tenants = s.tenants := rfl
@[simp] theorem State.modVf_vfs (s : State) (n : Nat) (f : Vf → Vf) : (s.modVf n f).vfs = modAt s.vfs n f := rfl
@[simp] theorem State.modVf_maxGens (s : State) (n : Nat) (f : Vf → Vf) : (s.modVf n f).maxGens = s.maxGens := rfl
@[simp] theorem State.modVf_curator (s : State) (n : Nat) (f : Vf → Vf) : (s.modVf n f).curator = s.curator := rfl
@[simp] theorem State.modVf_links (s : State) (n : Nat) (f : Vf → Vf) : (s.modVf n f).links = s.links := rfl
@[simp] theorem State.modVf_ports (s : State) (n : Nat) (f : Vf → Vf) : (s.modVf n f).ports = s.ports := rfl
@[simp] theorem State.modVf_flows (s : State) (n : Nat) (f : Vf → Vf) : (s.modVf n f).flows = s.flows := rfl
@[simp] theorem State.modVf_inFlows (s : State) (n : Nat) (f : Vf → Vf) : (s.modVf n f).inFlows = s.inFlows := rfl
@[simp] theorem State.modVf_peerGens (s : State) (n : Nat) (f : Vf → Vf) : (s.modVf n f).peerGens = s.peerGens := rfl
@[simp] theorem State.modVf_time (s : State) (n : Nat) (f : Vf → Vf) : (s.modVf n f).time = s.time := rfl
@[simp] theorem State.modVf_stores (s : State) (n : Nat) (f : Vf → Vf) : (s.modVf n f).stores = s.stores := rfl
@[simp] theorem State.modVf_flights (s : State) (n : Nat) (f : Vf → Vf) : (s.modVf n f).flights = s.flights := rfl
@[simp] theorem State.modVf_nextReq (s : State) (n : Nat) (f : Vf → Vf) : (s.modVf n f).nextReq = s.nextReq := rfl
@[simp] theorem State.modVf_nextLaunch (s : State) (n : Nat) (f : Vf → Vf) : (s.modVf n f).nextLaunch = s.nextLaunch := rfl
@[simp] theorem State.modVf_nextSerial (s : State) (n : Nat) (f : Vf → Vf) : (s.modVf n f).nextSerial = s.nextSerial := rfl
@[simp] theorem State.modVf_staged (s : State) (n : Nat) (f : Vf → Vf) : (s.modVf n f).staged = s.staged := rfl
@[simp] theorem State.modVf_inbox (s : State) (n : Nat) (f : Vf → Vf) : (s.modVf n f).inbox = s.inbox := rfl
@[simp] theorem State.modVf_hostWaits (s : State) (n : Nat) (f : Vf → Vf) : (s.modVf n f).hostWaits = s.hostWaits := rfl
@[simp] theorem State.modVf_schedule (s : State) (n : Nat) (f : Vf → Vf) : (s.modVf n f).schedule = s.schedule := rfl
@[simp] theorem State.modVf_turn (s : State) (n : Nat) (f : Vf → Vf) : (s.modVf n f).turn = s.turn := rfl
@[simp] theorem State.modVf_free (s : State) (n : Nat) (f : Vf → Vf) : (s.modVf n f).free = s.free := rfl
@[simp] theorem State.modVf_memLate (s : State) (n : Nat) (f : Vf → Vf) : (s.modVf n f).memLate = s.memLate := rfl
@[simp] theorem State.modVf_upsets (s : State) (n : Nat) (f : Vf → Vf) : (s.modVf n f).upsets = s.upsets := rfl
@[simp] theorem State.modVf_sensors (s : State) (n : Nat) (f : Vf → Vf) : (s.modVf n f).sensors = s.sensors := rfl
@[simp] theorem State.modVf_out (s : State) (n : Nat) (f : Vf → Vf) : (s.modVf n f).out = s.out := rfl

/-! ## `State.modLaunch` -/

@[simp] theorem State.modLaunch_cur (s : State) (u : Nat) (f : Launch → Launch) : (s.modLaunch u f).cur = s.cur := rfl
@[simp] theorem State.modLaunch_threads (s : State) (u : Nat) (f : Launch → Launch) : (s.modLaunch u f).threads = s.threads := rfl
@[simp] theorem State.modLaunch_trains (s : State) (u : Nat) (f : Launch → Launch) : (s.modLaunch u f).trains = s.trains := rfl
@[simp] theorem State.modLaunch_plats (s : State) (u : Nat) (f : Launch → Launch) : (s.modLaunch u f).plats = s.plats := rfl
@[simp] theorem State.modLaunch_groups (s : State) (u : Nat) (f : Launch → Launch) : (s.modLaunch u f).groups = s.groups := rfl
@[simp] theorem State.modLaunch_teams (s : State) (u : Nat) (f : Launch → Launch) : (s.modLaunch u f).teams = s.teams := rfl
@[simp] theorem State.modLaunch_launches (s : State) (u : Nat) (f : Launch → Launch) : (s.modLaunch u f).launches = modWhere s.launches (·.uid == u) f := rfl
@[simp] theorem State.modLaunch_contexts (s : State) (u : Nat) (f : Launch → Launch) : (s.modLaunch u f).contexts = s.contexts := rfl
@[simp] theorem State.modLaunch_cus (s : State) (u : Nat) (f : Launch → Launch) : (s.modLaunch u f).cus = s.cus := rfl
@[simp] theorem State.modLaunch_monitors (s : State) (u : Nat) (f : Launch → Launch) : (s.modLaunch u f).monitors = s.monitors := rfl
@[simp] theorem State.modLaunch_slices (s : State) (u : Nat) (f : Launch → Launch) : (s.modLaunch u f).slices = s.slices := rfl
@[simp] theorem State.modLaunch_mem (s : State) (u : Nat) (f : Launch → Launch) : (s.modLaunch u f).mem = s.mem := rfl
@[simp] theorem State.modLaunch_tags (s : State) (u : Nat) (f : Launch → Launch) : (s.modLaunch u f).tags = s.tags := rfl
@[simp] theorem State.modLaunch_poison (s : State) (u : Nat) (f : Launch → Launch) : (s.modLaunch u f).poison = s.poison := rfl
@[simp] theorem State.modLaunch_ecc (s : State) (u : Nat) (f : Launch → Launch) : (s.modLaunch u f).ecc = s.ecc := rfl
@[simp] theorem State.modLaunch_frames (s : State) (u : Nat) (f : Launch → Launch) : (s.modLaunch u f).frames = s.frames := rfl
@[simp] theorem State.modLaunch_runs (s : State) (u : Nat) (f : Launch → Launch) : (s.modLaunch u f).runs = s.runs := rfl
@[simp] theorem State.modLaunch_parts (s : State) (u : Nat) (f : Launch → Launch) : (s.modLaunch u f).parts = s.parts := rfl
@[simp] theorem State.modLaunch_tenants (s : State) (u : Nat) (f : Launch → Launch) : (s.modLaunch u f).tenants = s.tenants := rfl
@[simp] theorem State.modLaunch_vfs (s : State) (u : Nat) (f : Launch → Launch) : (s.modLaunch u f).vfs = s.vfs := rfl
@[simp] theorem State.modLaunch_maxGens (s : State) (u : Nat) (f : Launch → Launch) : (s.modLaunch u f).maxGens = s.maxGens := rfl
@[simp] theorem State.modLaunch_curator (s : State) (u : Nat) (f : Launch → Launch) : (s.modLaunch u f).curator = s.curator := rfl
@[simp] theorem State.modLaunch_links (s : State) (u : Nat) (f : Launch → Launch) : (s.modLaunch u f).links = s.links := rfl
@[simp] theorem State.modLaunch_ports (s : State) (u : Nat) (f : Launch → Launch) : (s.modLaunch u f).ports = s.ports := rfl
@[simp] theorem State.modLaunch_flows (s : State) (u : Nat) (f : Launch → Launch) : (s.modLaunch u f).flows = s.flows := rfl
@[simp] theorem State.modLaunch_inFlows (s : State) (u : Nat) (f : Launch → Launch) : (s.modLaunch u f).inFlows = s.inFlows := rfl
@[simp] theorem State.modLaunch_peerGens (s : State) (u : Nat) (f : Launch → Launch) : (s.modLaunch u f).peerGens = s.peerGens := rfl
@[simp] theorem State.modLaunch_time (s : State) (u : Nat) (f : Launch → Launch) : (s.modLaunch u f).time = s.time := rfl
@[simp] theorem State.modLaunch_stores (s : State) (u : Nat) (f : Launch → Launch) : (s.modLaunch u f).stores = s.stores := rfl
@[simp] theorem State.modLaunch_flights (s : State) (u : Nat) (f : Launch → Launch) : (s.modLaunch u f).flights = s.flights := rfl
@[simp] theorem State.modLaunch_nextReq (s : State) (u : Nat) (f : Launch → Launch) : (s.modLaunch u f).nextReq = s.nextReq := rfl
@[simp] theorem State.modLaunch_nextLaunch (s : State) (u : Nat) (f : Launch → Launch) : (s.modLaunch u f).nextLaunch = s.nextLaunch := rfl
@[simp] theorem State.modLaunch_nextSerial (s : State) (u : Nat) (f : Launch → Launch) : (s.modLaunch u f).nextSerial = s.nextSerial := rfl
@[simp] theorem State.modLaunch_staged (s : State) (u : Nat) (f : Launch → Launch) : (s.modLaunch u f).staged = s.staged := rfl
@[simp] theorem State.modLaunch_inbox (s : State) (u : Nat) (f : Launch → Launch) : (s.modLaunch u f).inbox = s.inbox := rfl
@[simp] theorem State.modLaunch_hostWaits (s : State) (u : Nat) (f : Launch → Launch) : (s.modLaunch u f).hostWaits = s.hostWaits := rfl
@[simp] theorem State.modLaunch_schedule (s : State) (u : Nat) (f : Launch → Launch) : (s.modLaunch u f).schedule = s.schedule := rfl
@[simp] theorem State.modLaunch_turn (s : State) (u : Nat) (f : Launch → Launch) : (s.modLaunch u f).turn = s.turn := rfl
@[simp] theorem State.modLaunch_free (s : State) (u : Nat) (f : Launch → Launch) : (s.modLaunch u f).free = s.free := rfl
@[simp] theorem State.modLaunch_memLate (s : State) (u : Nat) (f : Launch → Launch) : (s.modLaunch u f).memLate = s.memLate := rfl
@[simp] theorem State.modLaunch_upsets (s : State) (u : Nat) (f : Launch → Launch) : (s.modLaunch u f).upsets = s.upsets := rfl
@[simp] theorem State.modLaunch_sensors (s : State) (u : Nat) (f : Launch → Launch) : (s.modLaunch u f).sensors = s.sensors := rfl
@[simp] theorem State.modLaunch_out (s : State) (u : Nat) (f : Launch → Launch) : (s.modLaunch u f).out = s.out := rfl

/-! ## `State.modContext` -/

@[simp] theorem State.modContext_cur (s : State) (c : CtxId) (f : Context → Context) : (s.modContext c f).cur = s.cur := rfl
@[simp] theorem State.modContext_threads (s : State) (c : CtxId) (f : Context → Context) : (s.modContext c f).threads = s.threads := rfl
@[simp] theorem State.modContext_trains (s : State) (c : CtxId) (f : Context → Context) : (s.modContext c f).trains = s.trains := rfl
@[simp] theorem State.modContext_plats (s : State) (c : CtxId) (f : Context → Context) : (s.modContext c f).plats = s.plats := rfl
@[simp] theorem State.modContext_groups (s : State) (c : CtxId) (f : Context → Context) : (s.modContext c f).groups = s.groups := rfl
@[simp] theorem State.modContext_teams (s : State) (c : CtxId) (f : Context → Context) : (s.modContext c f).teams = s.teams := rfl
@[simp] theorem State.modContext_launches (s : State) (c : CtxId) (f : Context → Context) : (s.modContext c f).launches = s.launches := rfl
@[simp] theorem State.modContext_contexts (s : State) (c : CtxId) (f : Context → Context) : (s.modContext c f).contexts = modWhere s.contexts (·.id = c) f := rfl
@[simp] theorem State.modContext_cus (s : State) (c : CtxId) (f : Context → Context) : (s.modContext c f).cus = s.cus := rfl
@[simp] theorem State.modContext_monitors (s : State) (c : CtxId) (f : Context → Context) : (s.modContext c f).monitors = s.monitors := rfl
@[simp] theorem State.modContext_slices (s : State) (c : CtxId) (f : Context → Context) : (s.modContext c f).slices = s.slices := rfl
@[simp] theorem State.modContext_mem (s : State) (c : CtxId) (f : Context → Context) : (s.modContext c f).mem = s.mem := rfl
@[simp] theorem State.modContext_tags (s : State) (c : CtxId) (f : Context → Context) : (s.modContext c f).tags = s.tags := rfl
@[simp] theorem State.modContext_poison (s : State) (c : CtxId) (f : Context → Context) : (s.modContext c f).poison = s.poison := rfl
@[simp] theorem State.modContext_ecc (s : State) (c : CtxId) (f : Context → Context) : (s.modContext c f).ecc = s.ecc := rfl
@[simp] theorem State.modContext_frames (s : State) (c : CtxId) (f : Context → Context) : (s.modContext c f).frames = s.frames := rfl
@[simp] theorem State.modContext_runs (s : State) (c : CtxId) (f : Context → Context) : (s.modContext c f).runs = s.runs := rfl
@[simp] theorem State.modContext_parts (s : State) (c : CtxId) (f : Context → Context) : (s.modContext c f).parts = s.parts := rfl
@[simp] theorem State.modContext_tenants (s : State) (c : CtxId) (f : Context → Context) : (s.modContext c f).tenants = s.tenants := rfl
@[simp] theorem State.modContext_vfs (s : State) (c : CtxId) (f : Context → Context) : (s.modContext c f).vfs = s.vfs := rfl
@[simp] theorem State.modContext_maxGens (s : State) (c : CtxId) (f : Context → Context) : (s.modContext c f).maxGens = s.maxGens := rfl
@[simp] theorem State.modContext_curator (s : State) (c : CtxId) (f : Context → Context) : (s.modContext c f).curator = s.curator := rfl
@[simp] theorem State.modContext_links (s : State) (c : CtxId) (f : Context → Context) : (s.modContext c f).links = s.links := rfl
@[simp] theorem State.modContext_ports (s : State) (c : CtxId) (f : Context → Context) : (s.modContext c f).ports = s.ports := rfl
@[simp] theorem State.modContext_flows (s : State) (c : CtxId) (f : Context → Context) : (s.modContext c f).flows = s.flows := rfl
@[simp] theorem State.modContext_inFlows (s : State) (c : CtxId) (f : Context → Context) : (s.modContext c f).inFlows = s.inFlows := rfl
@[simp] theorem State.modContext_peerGens (s : State) (c : CtxId) (f : Context → Context) : (s.modContext c f).peerGens = s.peerGens := rfl
@[simp] theorem State.modContext_time (s : State) (c : CtxId) (f : Context → Context) : (s.modContext c f).time = s.time := rfl
@[simp] theorem State.modContext_stores (s : State) (c : CtxId) (f : Context → Context) : (s.modContext c f).stores = s.stores := rfl
@[simp] theorem State.modContext_flights (s : State) (c : CtxId) (f : Context → Context) : (s.modContext c f).flights = s.flights := rfl
@[simp] theorem State.modContext_nextReq (s : State) (c : CtxId) (f : Context → Context) : (s.modContext c f).nextReq = s.nextReq := rfl
@[simp] theorem State.modContext_nextLaunch (s : State) (c : CtxId) (f : Context → Context) : (s.modContext c f).nextLaunch = s.nextLaunch := rfl
@[simp] theorem State.modContext_nextSerial (s : State) (c : CtxId) (f : Context → Context) : (s.modContext c f).nextSerial = s.nextSerial := rfl
@[simp] theorem State.modContext_staged (s : State) (c : CtxId) (f : Context → Context) : (s.modContext c f).staged = s.staged := rfl
@[simp] theorem State.modContext_inbox (s : State) (c : CtxId) (f : Context → Context) : (s.modContext c f).inbox = s.inbox := rfl
@[simp] theorem State.modContext_hostWaits (s : State) (c : CtxId) (f : Context → Context) : (s.modContext c f).hostWaits = s.hostWaits := rfl
@[simp] theorem State.modContext_schedule (s : State) (c : CtxId) (f : Context → Context) : (s.modContext c f).schedule = s.schedule := rfl
@[simp] theorem State.modContext_turn (s : State) (c : CtxId) (f : Context → Context) : (s.modContext c f).turn = s.turn := rfl
@[simp] theorem State.modContext_free (s : State) (c : CtxId) (f : Context → Context) : (s.modContext c f).free = s.free := rfl
@[simp] theorem State.modContext_memLate (s : State) (c : CtxId) (f : Context → Context) : (s.modContext c f).memLate = s.memLate := rfl
@[simp] theorem State.modContext_upsets (s : State) (c : CtxId) (f : Context → Context) : (s.modContext c f).upsets = s.upsets := rfl
@[simp] theorem State.modContext_sensors (s : State) (c : CtxId) (f : Context → Context) : (s.modContext c f).sensors = s.sensors := rfl
@[simp] theorem State.modContext_out (s : State) (c : CtxId) (f : Context → Context) : (s.modContext c f).out = s.out := rfl

/-! ## `State.modGroup` -/

@[simp] theorem State.modGroup_cur (s : State) (l g : Nat) (f : Group → Group) : (s.modGroup l g f).cur = s.cur := rfl
@[simp] theorem State.modGroup_threads (s : State) (l g : Nat) (f : Group → Group) : (s.modGroup l g f).threads = s.threads := rfl
@[simp] theorem State.modGroup_trains (s : State) (l g : Nat) (f : Group → Group) : (s.modGroup l g f).trains = s.trains := rfl
@[simp] theorem State.modGroup_plats (s : State) (l g : Nat) (f : Group → Group) : (s.modGroup l g f).plats = s.plats := rfl
@[simp] theorem State.modGroup_groups (s : State) (l g : Nat) (f : Group → Group) : (s.modGroup l g f).groups = modWhere s.groups (fun x => x.launch == l && x.num == g) f := rfl
@[simp] theorem State.modGroup_teams (s : State) (l g : Nat) (f : Group → Group) : (s.modGroup l g f).teams = s.teams := rfl
@[simp] theorem State.modGroup_launches (s : State) (l g : Nat) (f : Group → Group) : (s.modGroup l g f).launches = s.launches := rfl
@[simp] theorem State.modGroup_contexts (s : State) (l g : Nat) (f : Group → Group) : (s.modGroup l g f).contexts = s.contexts := rfl
@[simp] theorem State.modGroup_cus (s : State) (l g : Nat) (f : Group → Group) : (s.modGroup l g f).cus = s.cus := rfl
@[simp] theorem State.modGroup_monitors (s : State) (l g : Nat) (f : Group → Group) : (s.modGroup l g f).monitors = s.monitors := rfl
@[simp] theorem State.modGroup_slices (s : State) (l g : Nat) (f : Group → Group) : (s.modGroup l g f).slices = s.slices := rfl
@[simp] theorem State.modGroup_mem (s : State) (l g : Nat) (f : Group → Group) : (s.modGroup l g f).mem = s.mem := rfl
@[simp] theorem State.modGroup_tags (s : State) (l g : Nat) (f : Group → Group) : (s.modGroup l g f).tags = s.tags := rfl
@[simp] theorem State.modGroup_poison (s : State) (l g : Nat) (f : Group → Group) : (s.modGroup l g f).poison = s.poison := rfl
@[simp] theorem State.modGroup_ecc (s : State) (l g : Nat) (f : Group → Group) : (s.modGroup l g f).ecc = s.ecc := rfl
@[simp] theorem State.modGroup_frames (s : State) (l g : Nat) (f : Group → Group) : (s.modGroup l g f).frames = s.frames := rfl
@[simp] theorem State.modGroup_runs (s : State) (l g : Nat) (f : Group → Group) : (s.modGroup l g f).runs = s.runs := rfl
@[simp] theorem State.modGroup_parts (s : State) (l g : Nat) (f : Group → Group) : (s.modGroup l g f).parts = s.parts := rfl
@[simp] theorem State.modGroup_tenants (s : State) (l g : Nat) (f : Group → Group) : (s.modGroup l g f).tenants = s.tenants := rfl
@[simp] theorem State.modGroup_vfs (s : State) (l g : Nat) (f : Group → Group) : (s.modGroup l g f).vfs = s.vfs := rfl
@[simp] theorem State.modGroup_maxGens (s : State) (l g : Nat) (f : Group → Group) : (s.modGroup l g f).maxGens = s.maxGens := rfl
@[simp] theorem State.modGroup_curator (s : State) (l g : Nat) (f : Group → Group) : (s.modGroup l g f).curator = s.curator := rfl
@[simp] theorem State.modGroup_links (s : State) (l g : Nat) (f : Group → Group) : (s.modGroup l g f).links = s.links := rfl
@[simp] theorem State.modGroup_ports (s : State) (l g : Nat) (f : Group → Group) : (s.modGroup l g f).ports = s.ports := rfl
@[simp] theorem State.modGroup_flows (s : State) (l g : Nat) (f : Group → Group) : (s.modGroup l g f).flows = s.flows := rfl
@[simp] theorem State.modGroup_inFlows (s : State) (l g : Nat) (f : Group → Group) : (s.modGroup l g f).inFlows = s.inFlows := rfl
@[simp] theorem State.modGroup_peerGens (s : State) (l g : Nat) (f : Group → Group) : (s.modGroup l g f).peerGens = s.peerGens := rfl
@[simp] theorem State.modGroup_time (s : State) (l g : Nat) (f : Group → Group) : (s.modGroup l g f).time = s.time := rfl
@[simp] theorem State.modGroup_stores (s : State) (l g : Nat) (f : Group → Group) : (s.modGroup l g f).stores = s.stores := rfl
@[simp] theorem State.modGroup_flights (s : State) (l g : Nat) (f : Group → Group) : (s.modGroup l g f).flights = s.flights := rfl
@[simp] theorem State.modGroup_nextReq (s : State) (l g : Nat) (f : Group → Group) : (s.modGroup l g f).nextReq = s.nextReq := rfl
@[simp] theorem State.modGroup_nextLaunch (s : State) (l g : Nat) (f : Group → Group) : (s.modGroup l g f).nextLaunch = s.nextLaunch := rfl
@[simp] theorem State.modGroup_nextSerial (s : State) (l g : Nat) (f : Group → Group) : (s.modGroup l g f).nextSerial = s.nextSerial := rfl
@[simp] theorem State.modGroup_staged (s : State) (l g : Nat) (f : Group → Group) : (s.modGroup l g f).staged = s.staged := rfl
@[simp] theorem State.modGroup_inbox (s : State) (l g : Nat) (f : Group → Group) : (s.modGroup l g f).inbox = s.inbox := rfl
@[simp] theorem State.modGroup_hostWaits (s : State) (l g : Nat) (f : Group → Group) : (s.modGroup l g f).hostWaits = s.hostWaits := rfl
@[simp] theorem State.modGroup_schedule (s : State) (l g : Nat) (f : Group → Group) : (s.modGroup l g f).schedule = s.schedule := rfl
@[simp] theorem State.modGroup_turn (s : State) (l g : Nat) (f : Group → Group) : (s.modGroup l g f).turn = s.turn := rfl
@[simp] theorem State.modGroup_free (s : State) (l g : Nat) (f : Group → Group) : (s.modGroup l g f).free = s.free := rfl
@[simp] theorem State.modGroup_memLate (s : State) (l g : Nat) (f : Group → Group) : (s.modGroup l g f).memLate = s.memLate := rfl
@[simp] theorem State.modGroup_upsets (s : State) (l g : Nat) (f : Group → Group) : (s.modGroup l g f).upsets = s.upsets := rfl
@[simp] theorem State.modGroup_sensors (s : State) (l g : Nat) (f : Group → Group) : (s.modGroup l g f).sensors = s.sensors := rfl
@[simp] theorem State.modGroup_out (s : State) (l g : Nat) (f : Group → Group) : (s.modGroup l g f).out = s.out := rfl

/-! ## `State.modTeam` -/

@[simp] theorem State.modTeam_cur (s : State) (l g : Nat) (f : Team → Team) : (s.modTeam l g f).cur = s.cur := rfl
@[simp] theorem State.modTeam_threads (s : State) (l g : Nat) (f : Team → Team) : (s.modTeam l g f).threads = s.threads := rfl
@[simp] theorem State.modTeam_trains (s : State) (l g : Nat) (f : Team → Team) : (s.modTeam l g f).trains = s.trains := rfl
@[simp] theorem State.modTeam_plats (s : State) (l g : Nat) (f : Team → Team) : (s.modTeam l g f).plats = s.plats := rfl
@[simp] theorem State.modTeam_groups (s : State) (l g : Nat) (f : Team → Team) : (s.modTeam l g f).groups = s.groups := rfl
@[simp] theorem State.modTeam_teams (s : State) (l g : Nat) (f : Team → Team) : (s.modTeam l g f).teams = modWhere s.teams (fun m => m.launch == l && m.num == g / s.teamSize l) f := rfl
@[simp] theorem State.modTeam_launches (s : State) (l g : Nat) (f : Team → Team) : (s.modTeam l g f).launches = s.launches := rfl
@[simp] theorem State.modTeam_contexts (s : State) (l g : Nat) (f : Team → Team) : (s.modTeam l g f).contexts = s.contexts := rfl
@[simp] theorem State.modTeam_cus (s : State) (l g : Nat) (f : Team → Team) : (s.modTeam l g f).cus = s.cus := rfl
@[simp] theorem State.modTeam_monitors (s : State) (l g : Nat) (f : Team → Team) : (s.modTeam l g f).monitors = s.monitors := rfl
@[simp] theorem State.modTeam_slices (s : State) (l g : Nat) (f : Team → Team) : (s.modTeam l g f).slices = s.slices := rfl
@[simp] theorem State.modTeam_mem (s : State) (l g : Nat) (f : Team → Team) : (s.modTeam l g f).mem = s.mem := rfl
@[simp] theorem State.modTeam_tags (s : State) (l g : Nat) (f : Team → Team) : (s.modTeam l g f).tags = s.tags := rfl
@[simp] theorem State.modTeam_poison (s : State) (l g : Nat) (f : Team → Team) : (s.modTeam l g f).poison = s.poison := rfl
@[simp] theorem State.modTeam_ecc (s : State) (l g : Nat) (f : Team → Team) : (s.modTeam l g f).ecc = s.ecc := rfl
@[simp] theorem State.modTeam_frames (s : State) (l g : Nat) (f : Team → Team) : (s.modTeam l g f).frames = s.frames := rfl
@[simp] theorem State.modTeam_runs (s : State) (l g : Nat) (f : Team → Team) : (s.modTeam l g f).runs = s.runs := rfl
@[simp] theorem State.modTeam_parts (s : State) (l g : Nat) (f : Team → Team) : (s.modTeam l g f).parts = s.parts := rfl
@[simp] theorem State.modTeam_tenants (s : State) (l g : Nat) (f : Team → Team) : (s.modTeam l g f).tenants = s.tenants := rfl
@[simp] theorem State.modTeam_vfs (s : State) (l g : Nat) (f : Team → Team) : (s.modTeam l g f).vfs = s.vfs := rfl
@[simp] theorem State.modTeam_maxGens (s : State) (l g : Nat) (f : Team → Team) : (s.modTeam l g f).maxGens = s.maxGens := rfl
@[simp] theorem State.modTeam_curator (s : State) (l g : Nat) (f : Team → Team) : (s.modTeam l g f).curator = s.curator := rfl
@[simp] theorem State.modTeam_links (s : State) (l g : Nat) (f : Team → Team) : (s.modTeam l g f).links = s.links := rfl
@[simp] theorem State.modTeam_ports (s : State) (l g : Nat) (f : Team → Team) : (s.modTeam l g f).ports = s.ports := rfl
@[simp] theorem State.modTeam_flows (s : State) (l g : Nat) (f : Team → Team) : (s.modTeam l g f).flows = s.flows := rfl
@[simp] theorem State.modTeam_inFlows (s : State) (l g : Nat) (f : Team → Team) : (s.modTeam l g f).inFlows = s.inFlows := rfl
@[simp] theorem State.modTeam_peerGens (s : State) (l g : Nat) (f : Team → Team) : (s.modTeam l g f).peerGens = s.peerGens := rfl
@[simp] theorem State.modTeam_time (s : State) (l g : Nat) (f : Team → Team) : (s.modTeam l g f).time = s.time := rfl
@[simp] theorem State.modTeam_stores (s : State) (l g : Nat) (f : Team → Team) : (s.modTeam l g f).stores = s.stores := rfl
@[simp] theorem State.modTeam_flights (s : State) (l g : Nat) (f : Team → Team) : (s.modTeam l g f).flights = s.flights := rfl
@[simp] theorem State.modTeam_nextReq (s : State) (l g : Nat) (f : Team → Team) : (s.modTeam l g f).nextReq = s.nextReq := rfl
@[simp] theorem State.modTeam_nextLaunch (s : State) (l g : Nat) (f : Team → Team) : (s.modTeam l g f).nextLaunch = s.nextLaunch := rfl
@[simp] theorem State.modTeam_nextSerial (s : State) (l g : Nat) (f : Team → Team) : (s.modTeam l g f).nextSerial = s.nextSerial := rfl
@[simp] theorem State.modTeam_staged (s : State) (l g : Nat) (f : Team → Team) : (s.modTeam l g f).staged = s.staged := rfl
@[simp] theorem State.modTeam_inbox (s : State) (l g : Nat) (f : Team → Team) : (s.modTeam l g f).inbox = s.inbox := rfl
@[simp] theorem State.modTeam_hostWaits (s : State) (l g : Nat) (f : Team → Team) : (s.modTeam l g f).hostWaits = s.hostWaits := rfl
@[simp] theorem State.modTeam_schedule (s : State) (l g : Nat) (f : Team → Team) : (s.modTeam l g f).schedule = s.schedule := rfl
@[simp] theorem State.modTeam_turn (s : State) (l g : Nat) (f : Team → Team) : (s.modTeam l g f).turn = s.turn := rfl
@[simp] theorem State.modTeam_free (s : State) (l g : Nat) (f : Team → Team) : (s.modTeam l g f).free = s.free := rfl
@[simp] theorem State.modTeam_memLate (s : State) (l g : Nat) (f : Team → Team) : (s.modTeam l g f).memLate = s.memLate := rfl
@[simp] theorem State.modTeam_upsets (s : State) (l g : Nat) (f : Team → Team) : (s.modTeam l g f).upsets = s.upsets := rfl
@[simp] theorem State.modTeam_sensors (s : State) (l g : Nat) (f : Team → Team) : (s.modTeam l g f).sensors = s.sensors := rfl
@[simp] theorem State.modTeam_out (s : State) (l g : Nat) (f : Team → Team) : (s.modTeam l g f).out = s.out := rfl

/-! ## `State.modTenant` -/

@[simp] theorem State.modTenant_cur (s : State) (n : Nat) (f : Tenant → Tenant) : (s.modTenant n f).cur = s.cur := rfl
@[simp] theorem State.modTenant_threads (s : State) (n : Nat) (f : Tenant → Tenant) : (s.modTenant n f).threads = s.threads := rfl
@[simp] theorem State.modTenant_trains (s : State) (n : Nat) (f : Tenant → Tenant) : (s.modTenant n f).trains = s.trains := rfl
@[simp] theorem State.modTenant_plats (s : State) (n : Nat) (f : Tenant → Tenant) : (s.modTenant n f).plats = s.plats := rfl
@[simp] theorem State.modTenant_groups (s : State) (n : Nat) (f : Tenant → Tenant) : (s.modTenant n f).groups = s.groups := rfl
@[simp] theorem State.modTenant_teams (s : State) (n : Nat) (f : Tenant → Tenant) : (s.modTenant n f).teams = s.teams := rfl
@[simp] theorem State.modTenant_launches (s : State) (n : Nat) (f : Tenant → Tenant) : (s.modTenant n f).launches = s.launches := rfl
@[simp] theorem State.modTenant_contexts (s : State) (n : Nat) (f : Tenant → Tenant) : (s.modTenant n f).contexts = s.contexts := rfl
@[simp] theorem State.modTenant_cus (s : State) (n : Nat) (f : Tenant → Tenant) : (s.modTenant n f).cus = s.cus := rfl
@[simp] theorem State.modTenant_monitors (s : State) (n : Nat) (f : Tenant → Tenant) : (s.modTenant n f).monitors = s.monitors := rfl
@[simp] theorem State.modTenant_slices (s : State) (n : Nat) (f : Tenant → Tenant) : (s.modTenant n f).slices = s.slices := rfl
@[simp] theorem State.modTenant_mem (s : State) (n : Nat) (f : Tenant → Tenant) : (s.modTenant n f).mem = s.mem := rfl
@[simp] theorem State.modTenant_tags (s : State) (n : Nat) (f : Tenant → Tenant) : (s.modTenant n f).tags = s.tags := rfl
@[simp] theorem State.modTenant_poison (s : State) (n : Nat) (f : Tenant → Tenant) : (s.modTenant n f).poison = s.poison := rfl
@[simp] theorem State.modTenant_ecc (s : State) (n : Nat) (f : Tenant → Tenant) : (s.modTenant n f).ecc = s.ecc := rfl
@[simp] theorem State.modTenant_frames (s : State) (n : Nat) (f : Tenant → Tenant) : (s.modTenant n f).frames = s.frames := rfl
@[simp] theorem State.modTenant_runs (s : State) (n : Nat) (f : Tenant → Tenant) : (s.modTenant n f).runs = s.runs := rfl
@[simp] theorem State.modTenant_parts (s : State) (n : Nat) (f : Tenant → Tenant) : (s.modTenant n f).parts = s.parts := rfl
@[simp] theorem State.modTenant_tenants (s : State) (n : Nat) (f : Tenant → Tenant) : (s.modTenant n f).tenants = modWhere s.tenants (·.id == n) f := rfl
@[simp] theorem State.modTenant_vfs (s : State) (n : Nat) (f : Tenant → Tenant) : (s.modTenant n f).vfs = s.vfs := rfl
@[simp] theorem State.modTenant_maxGens (s : State) (n : Nat) (f : Tenant → Tenant) : (s.modTenant n f).maxGens = s.maxGens := rfl
@[simp] theorem State.modTenant_curator (s : State) (n : Nat) (f : Tenant → Tenant) : (s.modTenant n f).curator = s.curator := rfl
@[simp] theorem State.modTenant_links (s : State) (n : Nat) (f : Tenant → Tenant) : (s.modTenant n f).links = s.links := rfl
@[simp] theorem State.modTenant_ports (s : State) (n : Nat) (f : Tenant → Tenant) : (s.modTenant n f).ports = s.ports := rfl
@[simp] theorem State.modTenant_flows (s : State) (n : Nat) (f : Tenant → Tenant) : (s.modTenant n f).flows = s.flows := rfl
@[simp] theorem State.modTenant_inFlows (s : State) (n : Nat) (f : Tenant → Tenant) : (s.modTenant n f).inFlows = s.inFlows := rfl
@[simp] theorem State.modTenant_peerGens (s : State) (n : Nat) (f : Tenant → Tenant) : (s.modTenant n f).peerGens = s.peerGens := rfl
@[simp] theorem State.modTenant_time (s : State) (n : Nat) (f : Tenant → Tenant) : (s.modTenant n f).time = s.time := rfl
@[simp] theorem State.modTenant_stores (s : State) (n : Nat) (f : Tenant → Tenant) : (s.modTenant n f).stores = s.stores := rfl
@[simp] theorem State.modTenant_flights (s : State) (n : Nat) (f : Tenant → Tenant) : (s.modTenant n f).flights = s.flights := rfl
@[simp] theorem State.modTenant_nextReq (s : State) (n : Nat) (f : Tenant → Tenant) : (s.modTenant n f).nextReq = s.nextReq := rfl
@[simp] theorem State.modTenant_nextLaunch (s : State) (n : Nat) (f : Tenant → Tenant) : (s.modTenant n f).nextLaunch = s.nextLaunch := rfl
@[simp] theorem State.modTenant_nextSerial (s : State) (n : Nat) (f : Tenant → Tenant) : (s.modTenant n f).nextSerial = s.nextSerial := rfl
@[simp] theorem State.modTenant_staged (s : State) (n : Nat) (f : Tenant → Tenant) : (s.modTenant n f).staged = s.staged := rfl
@[simp] theorem State.modTenant_inbox (s : State) (n : Nat) (f : Tenant → Tenant) : (s.modTenant n f).inbox = s.inbox := rfl
@[simp] theorem State.modTenant_hostWaits (s : State) (n : Nat) (f : Tenant → Tenant) : (s.modTenant n f).hostWaits = s.hostWaits := rfl
@[simp] theorem State.modTenant_schedule (s : State) (n : Nat) (f : Tenant → Tenant) : (s.modTenant n f).schedule = s.schedule := rfl
@[simp] theorem State.modTenant_turn (s : State) (n : Nat) (f : Tenant → Tenant) : (s.modTenant n f).turn = s.turn := rfl
@[simp] theorem State.modTenant_free (s : State) (n : Nat) (f : Tenant → Tenant) : (s.modTenant n f).free = s.free := rfl
@[simp] theorem State.modTenant_memLate (s : State) (n : Nat) (f : Tenant → Tenant) : (s.modTenant n f).memLate = s.memLate := rfl
@[simp] theorem State.modTenant_upsets (s : State) (n : Nat) (f : Tenant → Tenant) : (s.modTenant n f).upsets = s.upsets := rfl
@[simp] theorem State.modTenant_sensors (s : State) (n : Nat) (f : Tenant → Tenant) : (s.modTenant n f).sensors = s.sensors := rfl
@[simp] theorem State.modTenant_out (s : State) (n : Nat) (f : Tenant → Tenant) : (s.modTenant n f).out = s.out := rfl

/-! ## `State.emit` -/

@[simp] theorem State.emit_cur (s : State) (o : Out) : (s.emit o).cur = s.cur := rfl
@[simp] theorem State.emit_threads (s : State) (o : Out) : (s.emit o).threads = s.threads := rfl
@[simp] theorem State.emit_trains (s : State) (o : Out) : (s.emit o).trains = s.trains := rfl
@[simp] theorem State.emit_plats (s : State) (o : Out) : (s.emit o).plats = s.plats := rfl
@[simp] theorem State.emit_groups (s : State) (o : Out) : (s.emit o).groups = s.groups := rfl
@[simp] theorem State.emit_teams (s : State) (o : Out) : (s.emit o).teams = s.teams := rfl
@[simp] theorem State.emit_launches (s : State) (o : Out) : (s.emit o).launches = s.launches := rfl
@[simp] theorem State.emit_contexts (s : State) (o : Out) : (s.emit o).contexts = s.contexts := rfl
@[simp] theorem State.emit_cus (s : State) (o : Out) : (s.emit o).cus = s.cus := rfl
@[simp] theorem State.emit_monitors (s : State) (o : Out) : (s.emit o).monitors = s.monitors := rfl
@[simp] theorem State.emit_slices (s : State) (o : Out) : (s.emit o).slices = s.slices := rfl
@[simp] theorem State.emit_mem (s : State) (o : Out) : (s.emit o).mem = s.mem := rfl
@[simp] theorem State.emit_tags (s : State) (o : Out) : (s.emit o).tags = s.tags := rfl
@[simp] theorem State.emit_poison (s : State) (o : Out) : (s.emit o).poison = s.poison := rfl
@[simp] theorem State.emit_ecc (s : State) (o : Out) : (s.emit o).ecc = s.ecc := rfl
@[simp] theorem State.emit_frames (s : State) (o : Out) : (s.emit o).frames = s.frames := rfl
@[simp] theorem State.emit_runs (s : State) (o : Out) : (s.emit o).runs = s.runs := rfl
@[simp] theorem State.emit_parts (s : State) (o : Out) : (s.emit o).parts = s.parts := rfl
@[simp] theorem State.emit_tenants (s : State) (o : Out) : (s.emit o).tenants = s.tenants := rfl
@[simp] theorem State.emit_vfs (s : State) (o : Out) : (s.emit o).vfs = s.vfs := rfl
@[simp] theorem State.emit_maxGens (s : State) (o : Out) : (s.emit o).maxGens = s.maxGens := rfl
@[simp] theorem State.emit_curator (s : State) (o : Out) : (s.emit o).curator = s.curator := rfl
@[simp] theorem State.emit_links (s : State) (o : Out) : (s.emit o).links = s.links := rfl
@[simp] theorem State.emit_ports (s : State) (o : Out) : (s.emit o).ports = s.ports := rfl
@[simp] theorem State.emit_flows (s : State) (o : Out) : (s.emit o).flows = s.flows := rfl
@[simp] theorem State.emit_inFlows (s : State) (o : Out) : (s.emit o).inFlows = s.inFlows := rfl
@[simp] theorem State.emit_peerGens (s : State) (o : Out) : (s.emit o).peerGens = s.peerGens := rfl
@[simp] theorem State.emit_time (s : State) (o : Out) : (s.emit o).time = s.time := rfl
@[simp] theorem State.emit_stores (s : State) (o : Out) : (s.emit o).stores = s.stores := rfl
@[simp] theorem State.emit_flights (s : State) (o : Out) : (s.emit o).flights = s.flights := rfl
@[simp] theorem State.emit_nextReq (s : State) (o : Out) : (s.emit o).nextReq = s.nextReq := rfl
@[simp] theorem State.emit_nextLaunch (s : State) (o : Out) : (s.emit o).nextLaunch = s.nextLaunch := rfl
@[simp] theorem State.emit_nextSerial (s : State) (o : Out) : (s.emit o).nextSerial = s.nextSerial := rfl
@[simp] theorem State.emit_staged (s : State) (o : Out) : (s.emit o).staged = s.staged := rfl
@[simp] theorem State.emit_inbox (s : State) (o : Out) : (s.emit o).inbox = s.inbox := rfl
@[simp] theorem State.emit_hostWaits (s : State) (o : Out) : (s.emit o).hostWaits = s.hostWaits := rfl
@[simp] theorem State.emit_schedule (s : State) (o : Out) : (s.emit o).schedule = s.schedule := rfl
@[simp] theorem State.emit_turn (s : State) (o : Out) : (s.emit o).turn = s.turn := rfl
@[simp] theorem State.emit_free (s : State) (o : Out) : (s.emit o).free = s.free := rfl
@[simp] theorem State.emit_memLate (s : State) (o : Out) : (s.emit o).memLate = s.memLate := rfl
@[simp] theorem State.emit_upsets (s : State) (o : Out) : (s.emit o).upsets = s.upsets := rfl
@[simp] theorem State.emit_sensors (s : State) (o : Out) : (s.emit o).sensors = s.sensors := rfl
@[simp] theorem State.emit_out (s : State) (o : Out) : (s.emit o).out = o :: s.out := rfl

/-! ## `State.perf` -/

@[simp] theorem State.perf_cur (s : State) (c : CtxId) (k : Nat) (e : Byte) (n : Nat) : (s.perf c k e n).cur = s.cur := rfl
@[simp] theorem State.perf_threads (s : State) (c : CtxId) (k : Nat) (e : Byte) (n : Nat) : (s.perf c k e n).threads = s.threads := rfl
@[simp] theorem State.perf_trains (s : State) (c : CtxId) (k : Nat) (e : Byte) (n : Nat) : (s.perf c k e n).trains = s.trains := rfl
@[simp] theorem State.perf_plats (s : State) (c : CtxId) (k : Nat) (e : Byte) (n : Nat) : (s.perf c k e n).plats = s.plats := rfl
@[simp] theorem State.perf_groups (s : State) (c : CtxId) (k : Nat) (e : Byte) (n : Nat) : (s.perf c k e n).groups = s.groups := rfl
@[simp] theorem State.perf_teams (s : State) (c : CtxId) (k : Nat) (e : Byte) (n : Nat) : (s.perf c k e n).teams = s.teams := rfl
@[simp] theorem State.perf_launches (s : State) (c : CtxId) (k : Nat) (e : Byte) (n : Nat) : (s.perf c k e n).launches = s.launches := rfl
@[simp] theorem State.perf_cus (s : State) (c : CtxId) (k : Nat) (e : Byte) (n : Nat) : (s.perf c k e n).cus = s.cus := rfl
@[simp] theorem State.perf_monitors (s : State) (c : CtxId) (k : Nat) (e : Byte) (n : Nat) : (s.perf c k e n).monitors = s.monitors := rfl
@[simp] theorem State.perf_slices (s : State) (c : CtxId) (k : Nat) (e : Byte) (n : Nat) : (s.perf c k e n).slices = s.slices := rfl
@[simp] theorem State.perf_mem (s : State) (c : CtxId) (k : Nat) (e : Byte) (n : Nat) : (s.perf c k e n).mem = s.mem := rfl
@[simp] theorem State.perf_tags (s : State) (c : CtxId) (k : Nat) (e : Byte) (n : Nat) : (s.perf c k e n).tags = s.tags := rfl
@[simp] theorem State.perf_poison (s : State) (c : CtxId) (k : Nat) (e : Byte) (n : Nat) : (s.perf c k e n).poison = s.poison := rfl
@[simp] theorem State.perf_ecc (s : State) (c : CtxId) (k : Nat) (e : Byte) (n : Nat) : (s.perf c k e n).ecc = s.ecc := rfl
@[simp] theorem State.perf_frames (s : State) (c : CtxId) (k : Nat) (e : Byte) (n : Nat) : (s.perf c k e n).frames = s.frames := rfl
@[simp] theorem State.perf_runs (s : State) (c : CtxId) (k : Nat) (e : Byte) (n : Nat) : (s.perf c k e n).runs = s.runs := rfl
@[simp] theorem State.perf_parts (s : State) (c : CtxId) (k : Nat) (e : Byte) (n : Nat) : (s.perf c k e n).parts = s.parts := rfl
@[simp] theorem State.perf_tenants (s : State) (c : CtxId) (k : Nat) (e : Byte) (n : Nat) : (s.perf c k e n).tenants = s.tenants := rfl
@[simp] theorem State.perf_vfs (s : State) (c : CtxId) (k : Nat) (e : Byte) (n : Nat) : (s.perf c k e n).vfs = s.vfs := rfl
@[simp] theorem State.perf_maxGens (s : State) (c : CtxId) (k : Nat) (e : Byte) (n : Nat) : (s.perf c k e n).maxGens = s.maxGens := rfl
@[simp] theorem State.perf_curator (s : State) (c : CtxId) (k : Nat) (e : Byte) (n : Nat) : (s.perf c k e n).curator = s.curator := rfl
@[simp] theorem State.perf_links (s : State) (c : CtxId) (k : Nat) (e : Byte) (n : Nat) : (s.perf c k e n).links = s.links := rfl
@[simp] theorem State.perf_ports (s : State) (c : CtxId) (k : Nat) (e : Byte) (n : Nat) : (s.perf c k e n).ports = s.ports := rfl
@[simp] theorem State.perf_flows (s : State) (c : CtxId) (k : Nat) (e : Byte) (n : Nat) : (s.perf c k e n).flows = s.flows := rfl
@[simp] theorem State.perf_inFlows (s : State) (c : CtxId) (k : Nat) (e : Byte) (n : Nat) : (s.perf c k e n).inFlows = s.inFlows := rfl
@[simp] theorem State.perf_peerGens (s : State) (c : CtxId) (k : Nat) (e : Byte) (n : Nat) : (s.perf c k e n).peerGens = s.peerGens := rfl
@[simp] theorem State.perf_time (s : State) (c : CtxId) (k : Nat) (e : Byte) (n : Nat) : (s.perf c k e n).time = s.time := rfl
@[simp] theorem State.perf_stores (s : State) (c : CtxId) (k : Nat) (e : Byte) (n : Nat) : (s.perf c k e n).stores = s.stores := rfl
@[simp] theorem State.perf_flights (s : State) (c : CtxId) (k : Nat) (e : Byte) (n : Nat) : (s.perf c k e n).flights = s.flights := rfl
@[simp] theorem State.perf_nextReq (s : State) (c : CtxId) (k : Nat) (e : Byte) (n : Nat) : (s.perf c k e n).nextReq = s.nextReq := rfl
@[simp] theorem State.perf_nextLaunch (s : State) (c : CtxId) (k : Nat) (e : Byte) (n : Nat) : (s.perf c k e n).nextLaunch = s.nextLaunch := rfl
@[simp] theorem State.perf_nextSerial (s : State) (c : CtxId) (k : Nat) (e : Byte) (n : Nat) : (s.perf c k e n).nextSerial = s.nextSerial := rfl
@[simp] theorem State.perf_staged (s : State) (c : CtxId) (k : Nat) (e : Byte) (n : Nat) : (s.perf c k e n).staged = s.staged := rfl
@[simp] theorem State.perf_inbox (s : State) (c : CtxId) (k : Nat) (e : Byte) (n : Nat) : (s.perf c k e n).inbox = s.inbox := rfl
@[simp] theorem State.perf_hostWaits (s : State) (c : CtxId) (k : Nat) (e : Byte) (n : Nat) : (s.perf c k e n).hostWaits = s.hostWaits := rfl
@[simp] theorem State.perf_schedule (s : State) (c : CtxId) (k : Nat) (e : Byte) (n : Nat) : (s.perf c k e n).schedule = s.schedule := rfl
@[simp] theorem State.perf_turn (s : State) (c : CtxId) (k : Nat) (e : Byte) (n : Nat) : (s.perf c k e n).turn = s.turn := rfl
@[simp] theorem State.perf_free (s : State) (c : CtxId) (k : Nat) (e : Byte) (n : Nat) : (s.perf c k e n).free = s.free := rfl
@[simp] theorem State.perf_memLate (s : State) (c : CtxId) (k : Nat) (e : Byte) (n : Nat) : (s.perf c k e n).memLate = s.memLate := rfl
@[simp] theorem State.perf_upsets (s : State) (c : CtxId) (k : Nat) (e : Byte) (n : Nat) : (s.perf c k e n).upsets = s.upsets := rfl
@[simp] theorem State.perf_sensors (s : State) (c : CtxId) (k : Nat) (e : Byte) (n : Nat) : (s.perf c k e n).sensors = s.sensors := rfl
@[simp] theorem State.perf_out (s : State) (c : CtxId) (k : Nat) (e : Byte) (n : Nat) : (s.perf c k e n).out = s.out := rfl

/-! ## `State.putThread` -/

@[simp] theorem State.putThread_trains (s : State) (t : Thread) : (s.putThread t).trains = s.trains := by
  unfold State.putThread; split; (split <;> rfl); rfl
@[simp] theorem State.putThread_plats (s : State) (t : Thread) : (s.putThread t).plats = s.plats := by
  unfold State.putThread; split; (split <;> rfl); rfl
@[simp] theorem State.putThread_groups (s : State) (t : Thread) : (s.putThread t).groups = s.groups := by
  unfold State.putThread; split; (split <;> rfl); rfl
@[simp] theorem State.putThread_teams (s : State) (t : Thread) : (s.putThread t).teams = s.teams := by
  unfold State.putThread; split; (split <;> rfl); rfl
@[simp] theorem State.putThread_launches (s : State) (t : Thread) : (s.putThread t).launches = s.launches := by
  unfold State.putThread; split; (split <;> rfl); rfl
@[simp] theorem State.putThread_contexts (s : State) (t : Thread) : (s.putThread t).contexts = s.contexts := by
  unfold State.putThread; split; (split <;> rfl); rfl
@[simp] theorem State.putThread_cus (s : State) (t : Thread) : (s.putThread t).cus = s.cus := by
  unfold State.putThread; split; (split <;> rfl); rfl
@[simp] theorem State.putThread_monitors (s : State) (t : Thread) : (s.putThread t).monitors = s.monitors := by
  unfold State.putThread; split; (split <;> rfl); rfl
@[simp] theorem State.putThread_slices (s : State) (t : Thread) : (s.putThread t).slices = s.slices := by
  unfold State.putThread; split; (split <;> rfl); rfl
@[simp] theorem State.putThread_mem (s : State) (t : Thread) : (s.putThread t).mem = s.mem := by
  unfold State.putThread; split; (split <;> rfl); rfl
@[simp] theorem State.putThread_tags (s : State) (t : Thread) : (s.putThread t).tags = s.tags := by
  unfold State.putThread; split; (split <;> rfl); rfl
@[simp] theorem State.putThread_poison (s : State) (t : Thread) : (s.putThread t).poison = s.poison := by
  unfold State.putThread; split; (split <;> rfl); rfl
@[simp] theorem State.putThread_ecc (s : State) (t : Thread) : (s.putThread t).ecc = s.ecc := by
  unfold State.putThread; split; (split <;> rfl); rfl
@[simp] theorem State.putThread_frames (s : State) (t : Thread) : (s.putThread t).frames = s.frames := by
  unfold State.putThread; split; (split <;> rfl); rfl
@[simp] theorem State.putThread_runs (s : State) (t : Thread) : (s.putThread t).runs = s.runs := by
  unfold State.putThread; split; (split <;> rfl); rfl
@[simp] theorem State.putThread_parts (s : State) (t : Thread) : (s.putThread t).parts = s.parts := by
  unfold State.putThread; split; (split <;> rfl); rfl
@[simp] theorem State.putThread_tenants (s : State) (t : Thread) : (s.putThread t).tenants = s.tenants := by
  unfold State.putThread; split; (split <;> rfl); rfl
@[simp] theorem State.putThread_vfs (s : State) (t : Thread) : (s.putThread t).vfs = s.vfs := by
  unfold State.putThread; split; (split <;> rfl); rfl
@[simp] theorem State.putThread_maxGens (s : State) (t : Thread) : (s.putThread t).maxGens = s.maxGens := by
  unfold State.putThread; split; (split <;> rfl); rfl
@[simp] theorem State.putThread_curator (s : State) (t : Thread) : (s.putThread t).curator = s.curator := by
  unfold State.putThread; split; (split <;> rfl); rfl
@[simp] theorem State.putThread_links (s : State) (t : Thread) : (s.putThread t).links = s.links := by
  unfold State.putThread; split; (split <;> rfl); rfl
@[simp] theorem State.putThread_ports (s : State) (t : Thread) : (s.putThread t).ports = s.ports := by
  unfold State.putThread; split; (split <;> rfl); rfl
@[simp] theorem State.putThread_flows (s : State) (t : Thread) : (s.putThread t).flows = s.flows := by
  unfold State.putThread; split; (split <;> rfl); rfl
@[simp] theorem State.putThread_inFlows (s : State) (t : Thread) : (s.putThread t).inFlows = s.inFlows := by
  unfold State.putThread; split; (split <;> rfl); rfl
@[simp] theorem State.putThread_peerGens (s : State) (t : Thread) : (s.putThread t).peerGens = s.peerGens := by
  unfold State.putThread; split; (split <;> rfl); rfl
@[simp] theorem State.putThread_time (s : State) (t : Thread) : (s.putThread t).time = s.time := by
  unfold State.putThread; split; (split <;> rfl); rfl
@[simp] theorem State.putThread_stores (s : State) (t : Thread) : (s.putThread t).stores = s.stores := by
  unfold State.putThread; split; (split <;> rfl); rfl
@[simp] theorem State.putThread_flights (s : State) (t : Thread) : (s.putThread t).flights = s.flights := by
  unfold State.putThread; split; (split <;> rfl); rfl
@[simp] theorem State.putThread_nextReq (s : State) (t : Thread) : (s.putThread t).nextReq = s.nextReq := by
  unfold State.putThread; split; (split <;> rfl); rfl
@[simp] theorem State.putThread_nextLaunch (s : State) (t : Thread) : (s.putThread t).nextLaunch = s.nextLaunch := by
  unfold State.putThread; split; (split <;> rfl); rfl
@[simp] theorem State.putThread_nextSerial (s : State) (t : Thread) : (s.putThread t).nextSerial = s.nextSerial := by
  unfold State.putThread; split; (split <;> rfl); rfl
@[simp] theorem State.putThread_staged (s : State) (t : Thread) : (s.putThread t).staged = s.staged := by
  unfold State.putThread; split; (split <;> rfl); rfl
@[simp] theorem State.putThread_inbox (s : State) (t : Thread) : (s.putThread t).inbox = s.inbox := by
  unfold State.putThread; split; (split <;> rfl); rfl
@[simp] theorem State.putThread_hostWaits (s : State) (t : Thread) : (s.putThread t).hostWaits = s.hostWaits := by
  unfold State.putThread; split; (split <;> rfl); rfl
@[simp] theorem State.putThread_schedule (s : State) (t : Thread) : (s.putThread t).schedule = s.schedule := by
  unfold State.putThread; split; (split <;> rfl); rfl
@[simp] theorem State.putThread_turn (s : State) (t : Thread) : (s.putThread t).turn = s.turn := by
  unfold State.putThread; split; (split <;> rfl); rfl
@[simp] theorem State.putThread_free (s : State) (t : Thread) : (s.putThread t).free = s.free := by
  unfold State.putThread; split; (split <;> rfl); rfl
@[simp] theorem State.putThread_memLate (s : State) (t : Thread) : (s.putThread t).memLate = s.memLate := by
  unfold State.putThread; split; (split <;> rfl); rfl
@[simp] theorem State.putThread_upsets (s : State) (t : Thread) : (s.putThread t).upsets = s.upsets := by
  unfold State.putThread; split; (split <;> rfl); rfl
@[simp] theorem State.putThread_sensors (s : State) (t : Thread) : (s.putThread t).sensors = s.sensors := by
  unfold State.putThread; split; (split <;> rfl); rfl
@[simp] theorem State.putThread_out (s : State) (t : Thread) : (s.putThread t).out = s.out := by
  unfold State.putThread; split; (split <;> rfl); rfl

/-! ## `State.modThread` -/

@[simp] theorem State.modThread_trains (s : State) (i : TId) (f : Thread → Thread) : (s.modThread i f).trains = s.trains := by
  unfold State.modThread; split <;> simp
@[simp] theorem State.modThread_plats (s : State) (i : TId) (f : Thread → Thread) : (s.modThread i f).plats = s.plats := by
  unfold State.modThread; split <;> simp
@[simp] theorem State.modThread_groups (s : State) (i : TId) (f : Thread → Thread) : (s.modThread i f).groups = s.groups := by
  unfold State.modThread; split <;> simp
@[simp] theorem State.modThread_teams (s : State) (i : TId) (f : Thread → Thread) : (s.modThread i f).teams = s.teams := by
  unfold State.modThread; split <;> simp
@[simp] theorem State.modThread_launches (s : State) (i : TId) (f : Thread → Thread) : (s.modThread i f).launches = s.launches := by
  unfold State.modThread; split <;> simp
@[simp] theorem State.modThread_contexts (s : State) (i : TId) (f : Thread → Thread) : (s.modThread i f).contexts = s.contexts := by
  unfold State.modThread; split <;> simp
@[simp] theorem State.modThread_cus (s : State) (i : TId) (f : Thread → Thread) : (s.modThread i f).cus = s.cus := by
  unfold State.modThread; split <;> simp
@[simp] theorem State.modThread_monitors (s : State) (i : TId) (f : Thread → Thread) : (s.modThread i f).monitors = s.monitors := by
  unfold State.modThread; split <;> simp
@[simp] theorem State.modThread_slices (s : State) (i : TId) (f : Thread → Thread) : (s.modThread i f).slices = s.slices := by
  unfold State.modThread; split <;> simp
@[simp] theorem State.modThread_mem (s : State) (i : TId) (f : Thread → Thread) : (s.modThread i f).mem = s.mem := by
  unfold State.modThread; split <;> simp
@[simp] theorem State.modThread_tags (s : State) (i : TId) (f : Thread → Thread) : (s.modThread i f).tags = s.tags := by
  unfold State.modThread; split <;> simp
@[simp] theorem State.modThread_poison (s : State) (i : TId) (f : Thread → Thread) : (s.modThread i f).poison = s.poison := by
  unfold State.modThread; split <;> simp
@[simp] theorem State.modThread_ecc (s : State) (i : TId) (f : Thread → Thread) : (s.modThread i f).ecc = s.ecc := by
  unfold State.modThread; split <;> simp
@[simp] theorem State.modThread_frames (s : State) (i : TId) (f : Thread → Thread) : (s.modThread i f).frames = s.frames := by
  unfold State.modThread; split <;> simp
@[simp] theorem State.modThread_runs (s : State) (i : TId) (f : Thread → Thread) : (s.modThread i f).runs = s.runs := by
  unfold State.modThread; split <;> simp
@[simp] theorem State.modThread_parts (s : State) (i : TId) (f : Thread → Thread) : (s.modThread i f).parts = s.parts := by
  unfold State.modThread; split <;> simp
@[simp] theorem State.modThread_tenants (s : State) (i : TId) (f : Thread → Thread) : (s.modThread i f).tenants = s.tenants := by
  unfold State.modThread; split <;> simp
@[simp] theorem State.modThread_vfs (s : State) (i : TId) (f : Thread → Thread) : (s.modThread i f).vfs = s.vfs := by
  unfold State.modThread; split <;> simp
@[simp] theorem State.modThread_maxGens (s : State) (i : TId) (f : Thread → Thread) : (s.modThread i f).maxGens = s.maxGens := by
  unfold State.modThread; split <;> simp
@[simp] theorem State.modThread_curator (s : State) (i : TId) (f : Thread → Thread) : (s.modThread i f).curator = s.curator := by
  unfold State.modThread; split <;> simp
@[simp] theorem State.modThread_links (s : State) (i : TId) (f : Thread → Thread) : (s.modThread i f).links = s.links := by
  unfold State.modThread; split <;> simp
@[simp] theorem State.modThread_ports (s : State) (i : TId) (f : Thread → Thread) : (s.modThread i f).ports = s.ports := by
  unfold State.modThread; split <;> simp
@[simp] theorem State.modThread_flows (s : State) (i : TId) (f : Thread → Thread) : (s.modThread i f).flows = s.flows := by
  unfold State.modThread; split <;> simp
@[simp] theorem State.modThread_inFlows (s : State) (i : TId) (f : Thread → Thread) : (s.modThread i f).inFlows = s.inFlows := by
  unfold State.modThread; split <;> simp
@[simp] theorem State.modThread_peerGens (s : State) (i : TId) (f : Thread → Thread) : (s.modThread i f).peerGens = s.peerGens := by
  unfold State.modThread; split <;> simp
@[simp] theorem State.modThread_time (s : State) (i : TId) (f : Thread → Thread) : (s.modThread i f).time = s.time := by
  unfold State.modThread; split <;> simp
@[simp] theorem State.modThread_stores (s : State) (i : TId) (f : Thread → Thread) : (s.modThread i f).stores = s.stores := by
  unfold State.modThread; split <;> simp
@[simp] theorem State.modThread_flights (s : State) (i : TId) (f : Thread → Thread) : (s.modThread i f).flights = s.flights := by
  unfold State.modThread; split <;> simp
@[simp] theorem State.modThread_nextReq (s : State) (i : TId) (f : Thread → Thread) : (s.modThread i f).nextReq = s.nextReq := by
  unfold State.modThread; split <;> simp
@[simp] theorem State.modThread_nextLaunch (s : State) (i : TId) (f : Thread → Thread) : (s.modThread i f).nextLaunch = s.nextLaunch := by
  unfold State.modThread; split <;> simp
@[simp] theorem State.modThread_nextSerial (s : State) (i : TId) (f : Thread → Thread) : (s.modThread i f).nextSerial = s.nextSerial := by
  unfold State.modThread; split <;> simp
@[simp] theorem State.modThread_staged (s : State) (i : TId) (f : Thread → Thread) : (s.modThread i f).staged = s.staged := by
  unfold State.modThread; split <;> simp
@[simp] theorem State.modThread_inbox (s : State) (i : TId) (f : Thread → Thread) : (s.modThread i f).inbox = s.inbox := by
  unfold State.modThread; split <;> simp
@[simp] theorem State.modThread_hostWaits (s : State) (i : TId) (f : Thread → Thread) : (s.modThread i f).hostWaits = s.hostWaits := by
  unfold State.modThread; split <;> simp
@[simp] theorem State.modThread_schedule (s : State) (i : TId) (f : Thread → Thread) : (s.modThread i f).schedule = s.schedule := by
  unfold State.modThread; split <;> simp
@[simp] theorem State.modThread_turn (s : State) (i : TId) (f : Thread → Thread) : (s.modThread i f).turn = s.turn := by
  unfold State.modThread; split <;> simp
@[simp] theorem State.modThread_free (s : State) (i : TId) (f : Thread → Thread) : (s.modThread i f).free = s.free := by
  unfold State.modThread; split <;> simp
@[simp] theorem State.modThread_memLate (s : State) (i : TId) (f : Thread → Thread) : (s.modThread i f).memLate = s.memLate := by
  unfold State.modThread; split <;> simp
@[simp] theorem State.modThread_upsets (s : State) (i : TId) (f : Thread → Thread) : (s.modThread i f).upsets = s.upsets := by
  unfold State.modThread; split <;> simp
@[simp] theorem State.modThread_sensors (s : State) (i : TId) (f : Thread → Thread) : (s.modThread i f).sensors = s.sensors := by
  unfold State.modThread; split <;> simp
@[simp] theorem State.modThread_out (s : State) (i : TId) (f : Thread → Thread) : (s.modThread i f).out = s.out := by
  unfold State.modThread; split <;> simp

/-! ## `State.modThreads` -/

@[simp] theorem State.modThreads_trains (s : State) (p : Thread → Bool) (f : Thread → Thread) : (s.modThreads p f).trains = s.trains := rfl
@[simp] theorem State.modThreads_plats (s : State) (p : Thread → Bool) (f : Thread → Thread) : (s.modThreads p f).plats = s.plats := rfl
@[simp] theorem State.modThreads_groups (s : State) (p : Thread → Bool) (f : Thread → Thread) : (s.modThreads p f).groups = s.groups := rfl
@[simp] theorem State.modThreads_teams (s : State) (p : Thread → Bool) (f : Thread → Thread) : (s.modThreads p f).teams = s.teams := rfl
@[simp] theorem State.modThreads_launches (s : State) (p : Thread → Bool) (f : Thread → Thread) : (s.modThreads p f).launches = s.launches := rfl
@[simp] theorem State.modThreads_contexts (s : State) (p : Thread → Bool) (f : Thread → Thread) : (s.modThreads p f).contexts = s.contexts := rfl
@[simp] theorem State.modThreads_cus (s : State) (p : Thread → Bool) (f : Thread → Thread) : (s.modThreads p f).cus = s.cus := rfl
@[simp] theorem State.modThreads_monitors (s : State) (p : Thread → Bool) (f : Thread → Thread) : (s.modThreads p f).monitors = s.monitors := rfl
@[simp] theorem State.modThreads_slices (s : State) (p : Thread → Bool) (f : Thread → Thread) : (s.modThreads p f).slices = s.slices := rfl
@[simp] theorem State.modThreads_mem (s : State) (p : Thread → Bool) (f : Thread → Thread) : (s.modThreads p f).mem = s.mem := rfl
@[simp] theorem State.modThreads_tags (s : State) (p : Thread → Bool) (f : Thread → Thread) : (s.modThreads p f).tags = s.tags := rfl
@[simp] theorem State.modThreads_poison (s : State) (p : Thread → Bool) (f : Thread → Thread) : (s.modThreads p f).poison = s.poison := rfl
@[simp] theorem State.modThreads_ecc (s : State) (p : Thread → Bool) (f : Thread → Thread) : (s.modThreads p f).ecc = s.ecc := rfl
@[simp] theorem State.modThreads_frames (s : State) (p : Thread → Bool) (f : Thread → Thread) : (s.modThreads p f).frames = s.frames := rfl
@[simp] theorem State.modThreads_runs (s : State) (p : Thread → Bool) (f : Thread → Thread) : (s.modThreads p f).runs = s.runs := rfl
@[simp] theorem State.modThreads_parts (s : State) (p : Thread → Bool) (f : Thread → Thread) : (s.modThreads p f).parts = s.parts := rfl
@[simp] theorem State.modThreads_tenants (s : State) (p : Thread → Bool) (f : Thread → Thread) : (s.modThreads p f).tenants = s.tenants := rfl
@[simp] theorem State.modThreads_vfs (s : State) (p : Thread → Bool) (f : Thread → Thread) : (s.modThreads p f).vfs = s.vfs := rfl
@[simp] theorem State.modThreads_maxGens (s : State) (p : Thread → Bool) (f : Thread → Thread) : (s.modThreads p f).maxGens = s.maxGens := rfl
@[simp] theorem State.modThreads_curator (s : State) (p : Thread → Bool) (f : Thread → Thread) : (s.modThreads p f).curator = s.curator := rfl
@[simp] theorem State.modThreads_links (s : State) (p : Thread → Bool) (f : Thread → Thread) : (s.modThreads p f).links = s.links := rfl
@[simp] theorem State.modThreads_ports (s : State) (p : Thread → Bool) (f : Thread → Thread) : (s.modThreads p f).ports = s.ports := rfl
@[simp] theorem State.modThreads_flows (s : State) (p : Thread → Bool) (f : Thread → Thread) : (s.modThreads p f).flows = s.flows := rfl
@[simp] theorem State.modThreads_inFlows (s : State) (p : Thread → Bool) (f : Thread → Thread) : (s.modThreads p f).inFlows = s.inFlows := rfl
@[simp] theorem State.modThreads_peerGens (s : State) (p : Thread → Bool) (f : Thread → Thread) : (s.modThreads p f).peerGens = s.peerGens := rfl
@[simp] theorem State.modThreads_time (s : State) (p : Thread → Bool) (f : Thread → Thread) : (s.modThreads p f).time = s.time := rfl
@[simp] theorem State.modThreads_stores (s : State) (p : Thread → Bool) (f : Thread → Thread) : (s.modThreads p f).stores = s.stores := rfl
@[simp] theorem State.modThreads_flights (s : State) (p : Thread → Bool) (f : Thread → Thread) : (s.modThreads p f).flights = s.flights := rfl
@[simp] theorem State.modThreads_nextReq (s : State) (p : Thread → Bool) (f : Thread → Thread) : (s.modThreads p f).nextReq = s.nextReq := rfl
@[simp] theorem State.modThreads_nextLaunch (s : State) (p : Thread → Bool) (f : Thread → Thread) : (s.modThreads p f).nextLaunch = s.nextLaunch := rfl
@[simp] theorem State.modThreads_nextSerial (s : State) (p : Thread → Bool) (f : Thread → Thread) : (s.modThreads p f).nextSerial = s.nextSerial := rfl
@[simp] theorem State.modThreads_staged (s : State) (p : Thread → Bool) (f : Thread → Thread) : (s.modThreads p f).staged = s.staged := rfl
@[simp] theorem State.modThreads_inbox (s : State) (p : Thread → Bool) (f : Thread → Thread) : (s.modThreads p f).inbox = s.inbox := rfl
@[simp] theorem State.modThreads_hostWaits (s : State) (p : Thread → Bool) (f : Thread → Thread) : (s.modThreads p f).hostWaits = s.hostWaits := rfl
@[simp] theorem State.modThreads_schedule (s : State) (p : Thread → Bool) (f : Thread → Thread) : (s.modThreads p f).schedule = s.schedule := rfl
@[simp] theorem State.modThreads_turn (s : State) (p : Thread → Bool) (f : Thread → Thread) : (s.modThreads p f).turn = s.turn := rfl
@[simp] theorem State.modThreads_free (s : State) (p : Thread → Bool) (f : Thread → Thread) : (s.modThreads p f).free = s.free := rfl
@[simp] theorem State.modThreads_memLate (s : State) (p : Thread → Bool) (f : Thread → Thread) : (s.modThreads p f).memLate = s.memLate := rfl
@[simp] theorem State.modThreads_upsets (s : State) (p : Thread → Bool) (f : Thread → Thread) : (s.modThreads p f).upsets = s.upsets := rfl
@[simp] theorem State.modThreads_sensors (s : State) (p : Thread → Bool) (f : Thread → Thread) : (s.modThreads p f).sensors = s.sensors := rfl
@[simp] theorem State.modThreads_out (s : State) (p : Thread → Bool) (f : Thread → Thread) : (s.modThreads p f).out = s.out := rfl

/-! ## `State.dropThread` -/

@[simp] theorem State.dropThread_trains (s : State) (i : TId) : (s.dropThread i).trains = s.trains := rfl
@[simp] theorem State.dropThread_plats (s : State) (i : TId) : (s.dropThread i).plats = s.plats := rfl
@[simp] theorem State.dropThread_groups (s : State) (i : TId) : (s.dropThread i).groups = s.groups := rfl
@[simp] theorem State.dropThread_teams (s : State) (i : TId) : (s.dropThread i).teams = s.teams := rfl
@[simp] theorem State.dropThread_launches (s : State) (i : TId) : (s.dropThread i).launches = s.launches := rfl
@[simp] theorem State.dropThread_contexts (s : State) (i : TId) : (s.dropThread i).contexts = s.contexts := rfl
@[simp] theorem State.dropThread_cus (s : State) (i : TId) : (s.dropThread i).cus = s.cus := rfl
@[simp] theorem State.dropThread_monitors (s : State) (i : TId) : (s.dropThread i).monitors = s.monitors := rfl
@[simp] theorem State.dropThread_slices (s : State) (i : TId) : (s.dropThread i).slices = s.slices := rfl
@[simp] theorem State.dropThread_mem (s : State) (i : TId) : (s.dropThread i).mem = s.mem := rfl
@[simp] theorem State.dropThread_tags (s : State) (i : TId) : (s.dropThread i).tags = s.tags := rfl
@[simp] theorem State.dropThread_poison (s : State) (i : TId) : (s.dropThread i).poison = s.poison := rfl
@[simp] theorem State.dropThread_ecc (s : State) (i : TId) : (s.dropThread i).ecc = s.ecc := rfl
@[simp] theorem State.dropThread_frames (s : State) (i : TId) : (s.dropThread i).frames = s.frames := rfl
@[simp] theorem State.dropThread_runs (s : State) (i : TId) : (s.dropThread i).runs = s.runs := rfl
@[simp] theorem State.dropThread_parts (s : State) (i : TId) : (s.dropThread i).parts = s.parts := rfl
@[simp] theorem State.dropThread_tenants (s : State) (i : TId) : (s.dropThread i).tenants = s.tenants := rfl
@[simp] theorem State.dropThread_vfs (s : State) (i : TId) : (s.dropThread i).vfs = s.vfs := rfl
@[simp] theorem State.dropThread_maxGens (s : State) (i : TId) : (s.dropThread i).maxGens = s.maxGens := rfl
@[simp] theorem State.dropThread_curator (s : State) (i : TId) : (s.dropThread i).curator = s.curator := rfl
@[simp] theorem State.dropThread_links (s : State) (i : TId) : (s.dropThread i).links = s.links := rfl
@[simp] theorem State.dropThread_ports (s : State) (i : TId) : (s.dropThread i).ports = s.ports := rfl
@[simp] theorem State.dropThread_flows (s : State) (i : TId) : (s.dropThread i).flows = s.flows := rfl
@[simp] theorem State.dropThread_inFlows (s : State) (i : TId) : (s.dropThread i).inFlows = s.inFlows := rfl
@[simp] theorem State.dropThread_peerGens (s : State) (i : TId) : (s.dropThread i).peerGens = s.peerGens := rfl
@[simp] theorem State.dropThread_time (s : State) (i : TId) : (s.dropThread i).time = s.time := rfl
@[simp] theorem State.dropThread_stores (s : State) (i : TId) : (s.dropThread i).stores = s.stores := rfl
@[simp] theorem State.dropThread_flights (s : State) (i : TId) : (s.dropThread i).flights = s.flights := rfl
@[simp] theorem State.dropThread_nextReq (s : State) (i : TId) : (s.dropThread i).nextReq = s.nextReq := rfl
@[simp] theorem State.dropThread_nextLaunch (s : State) (i : TId) : (s.dropThread i).nextLaunch = s.nextLaunch := rfl
@[simp] theorem State.dropThread_nextSerial (s : State) (i : TId) : (s.dropThread i).nextSerial = s.nextSerial := rfl
@[simp] theorem State.dropThread_staged (s : State) (i : TId) : (s.dropThread i).staged = s.staged := rfl
@[simp] theorem State.dropThread_inbox (s : State) (i : TId) : (s.dropThread i).inbox = s.inbox := rfl
@[simp] theorem State.dropThread_hostWaits (s : State) (i : TId) : (s.dropThread i).hostWaits = s.hostWaits := rfl
@[simp] theorem State.dropThread_schedule (s : State) (i : TId) : (s.dropThread i).schedule = s.schedule := rfl
@[simp] theorem State.dropThread_turn (s : State) (i : TId) : (s.dropThread i).turn = s.turn := rfl
@[simp] theorem State.dropThread_free (s : State) (i : TId) : (s.dropThread i).free = s.free := rfl
@[simp] theorem State.dropThread_memLate (s : State) (i : TId) : (s.dropThread i).memLate = s.memLate := rfl
@[simp] theorem State.dropThread_upsets (s : State) (i : TId) : (s.dropThread i).upsets = s.upsets := rfl
@[simp] theorem State.dropThread_sensors (s : State) (i : TId) : (s.dropThread i).sensors = s.sensors := rfl
@[simp] theorem State.dropThread_out (s : State) (i : TId) : (s.dropThread i).out = s.out := rfl

/-! ## `State.leaveTrain` -/

@[simp] theorem State.leaveTrain_cur (s : State) (t : Thread) : (s.leaveTrain t).cur = s.cur := rfl
@[simp] theorem State.leaveTrain_threads (s : State) (t : Thread) : (s.leaveTrain t).threads = s.threads := rfl
@[simp] theorem State.leaveTrain_plats (s : State) (t : Thread) : (s.leaveTrain t).plats = s.plats := rfl
@[simp] theorem State.leaveTrain_groups (s : State) (t : Thread) : (s.leaveTrain t).groups = s.groups := rfl
@[simp] theorem State.leaveTrain_teams (s : State) (t : Thread) : (s.leaveTrain t).teams = s.teams := rfl
@[simp] theorem State.leaveTrain_launches (s : State) (t : Thread) : (s.leaveTrain t).launches = s.launches := rfl
@[simp] theorem State.leaveTrain_contexts (s : State) (t : Thread) : (s.leaveTrain t).contexts = s.contexts := rfl
@[simp] theorem State.leaveTrain_cus (s : State) (t : Thread) : (s.leaveTrain t).cus = s.cus := rfl
@[simp] theorem State.leaveTrain_monitors (s : State) (t : Thread) : (s.leaveTrain t).monitors = s.monitors := rfl
@[simp] theorem State.leaveTrain_slices (s : State) (t : Thread) : (s.leaveTrain t).slices = s.slices := rfl
@[simp] theorem State.leaveTrain_mem (s : State) (t : Thread) : (s.leaveTrain t).mem = s.mem := rfl
@[simp] theorem State.leaveTrain_tags (s : State) (t : Thread) : (s.leaveTrain t).tags = s.tags := rfl
@[simp] theorem State.leaveTrain_poison (s : State) (t : Thread) : (s.leaveTrain t).poison = s.poison := rfl
@[simp] theorem State.leaveTrain_ecc (s : State) (t : Thread) : (s.leaveTrain t).ecc = s.ecc := rfl
@[simp] theorem State.leaveTrain_frames (s : State) (t : Thread) : (s.leaveTrain t).frames = s.frames := rfl
@[simp] theorem State.leaveTrain_runs (s : State) (t : Thread) : (s.leaveTrain t).runs = s.runs := rfl
@[simp] theorem State.leaveTrain_parts (s : State) (t : Thread) : (s.leaveTrain t).parts = s.parts := rfl
@[simp] theorem State.leaveTrain_tenants (s : State) (t : Thread) : (s.leaveTrain t).tenants = s.tenants := rfl
@[simp] theorem State.leaveTrain_vfs (s : State) (t : Thread) : (s.leaveTrain t).vfs = s.vfs := rfl
@[simp] theorem State.leaveTrain_maxGens (s : State) (t : Thread) : (s.leaveTrain t).maxGens = s.maxGens := rfl
@[simp] theorem State.leaveTrain_curator (s : State) (t : Thread) : (s.leaveTrain t).curator = s.curator := rfl
@[simp] theorem State.leaveTrain_links (s : State) (t : Thread) : (s.leaveTrain t).links = s.links := rfl
@[simp] theorem State.leaveTrain_ports (s : State) (t : Thread) : (s.leaveTrain t).ports = s.ports := rfl
@[simp] theorem State.leaveTrain_flows (s : State) (t : Thread) : (s.leaveTrain t).flows = s.flows := rfl
@[simp] theorem State.leaveTrain_inFlows (s : State) (t : Thread) : (s.leaveTrain t).inFlows = s.inFlows := rfl
@[simp] theorem State.leaveTrain_peerGens (s : State) (t : Thread) : (s.leaveTrain t).peerGens = s.peerGens := rfl
@[simp] theorem State.leaveTrain_time (s : State) (t : Thread) : (s.leaveTrain t).time = s.time := rfl
@[simp] theorem State.leaveTrain_stores (s : State) (t : Thread) : (s.leaveTrain t).stores = s.stores := rfl
@[simp] theorem State.leaveTrain_flights (s : State) (t : Thread) : (s.leaveTrain t).flights = s.flights := rfl
@[simp] theorem State.leaveTrain_nextReq (s : State) (t : Thread) : (s.leaveTrain t).nextReq = s.nextReq := rfl
@[simp] theorem State.leaveTrain_nextLaunch (s : State) (t : Thread) : (s.leaveTrain t).nextLaunch = s.nextLaunch := rfl
@[simp] theorem State.leaveTrain_nextSerial (s : State) (t : Thread) : (s.leaveTrain t).nextSerial = s.nextSerial := rfl
@[simp] theorem State.leaveTrain_staged (s : State) (t : Thread) : (s.leaveTrain t).staged = s.staged := rfl
@[simp] theorem State.leaveTrain_inbox (s : State) (t : Thread) : (s.leaveTrain t).inbox = s.inbox := rfl
@[simp] theorem State.leaveTrain_hostWaits (s : State) (t : Thread) : (s.leaveTrain t).hostWaits = s.hostWaits := rfl
@[simp] theorem State.leaveTrain_schedule (s : State) (t : Thread) : (s.leaveTrain t).schedule = s.schedule := rfl
@[simp] theorem State.leaveTrain_turn (s : State) (t : Thread) : (s.leaveTrain t).turn = s.turn := rfl
@[simp] theorem State.leaveTrain_free (s : State) (t : Thread) : (s.leaveTrain t).free = s.free := rfl
@[simp] theorem State.leaveTrain_memLate (s : State) (t : Thread) : (s.leaveTrain t).memLate = s.memLate := rfl
@[simp] theorem State.leaveTrain_upsets (s : State) (t : Thread) : (s.leaveTrain t).upsets = s.upsets := rfl
@[simp] theorem State.leaveTrain_sensors (s : State) (t : Thread) : (s.leaveTrain t).sensors = s.sensors := rfl
@[simp] theorem State.leaveTrain_out (s : State) (t : Thread) : (s.leaveTrain t).out = s.out := rfl

/-! ## Where the issuing thread is -/

/-- Putting the issuing thread back changes that thread alone. -/
@[simp] theorem State.putThread_cur (s : State) (c t : Thread) (h : s.cur = some c) (hid : c.id = t.id) :
    s.putThread t = { s with cur := some t } := by
  simp [State.putThread, h, hid]

/-- The issuing thread is found by its name. -/
@[simp] theorem State.thread_cur (s : State) (t : Thread) (h : s.cur = some t) : s.thread t.id = some t := by
  simp [State.thread, State.allThreads, h]

end Sys2Proof.Machine
end

