-- ==== Sys2Proof/Tests/Slice0.lean ====
section
/-!
SUPPORT. Small tests of the model: ill-formed words, words of the spec's own tables, single steps with results worked out by hand from the
spec, and for each statement with hypotheses states and operands that meet them.
-/

open Sys2Proof Sys2Proof.Machine

namespace Sys2Proof.Tests

/-! ## Words with chosen fields -/

/-- A guard that is always true. -/
def g0 : Guard := { pred := 0, neg := false }

def fw (d : BitVec 9) (a b c : BitVec 10) (mod : BitVec 8) : FWord := { guard := g0, d := d, a := a, b := b, c := c, retain := 0, mod := mod }

def iw (d a : BitVec 9) (imm : BitVec 32) : IWord := { guard := g0, d := d, a := a, imm := imm }

def xw (d a b c : BitVec 9) (mod : BitVec 11) : XWord := { guard := g0, d := d, a := a, b := b, c := c, mod := mod }

def slot (op : SlotOp) (d : BitVec 8) (s : BitVec 9) (imm : BitVec 6) : PSlot := { op := op, guard := 0, d := d, s := s, imm := imm }

/-! ## Ill-formed words are refused (R56, R58, R60, R65, R67, R69, R74, R100) -/

theorem test_wf_add : (Instr.add (fw 10 20 30 0 0)).wf = true := by decide
theorem test_illformed_unused : (Instr.add (fw 10 20 30 1 0)).wf = false := by decide
theorem test_wf_retain : (Instr.add { fw 10 20 30 0 0 with retain := 1 }).wf = true := by decide
theorem test_illformed_source : (Instr.add (fw 10 20 576 0 0)).wf = false := by decide
theorem test_illformed_pair : (Instr.add (fw 41 42 44 0 0x40)).wf = false ∧ (Instr.add (fw 40 42 44 0 0x40)).wf = true := by decide
theorem test_illformed_type : (Instr.mulw (fw 40 42 44 0 0xA0)).wf = false := by decide
theorem test_illformed_condition : (Instr.cmp (fw 3 5 6 0 0x18)).wf = false := by decide
theorem test_illformed_predicate : (Instr.pset (fw 16 1 2 0 0)).wf = false := by decide
theorem test_illformed_float_type : (Instr.fadd (fw 3 5 6 0 0x80)).wf = false := by decide
theorem test_illformed_shift_amount : (Instr.shli (iw 3 5 32)).wf = false ∧ (Instr.shli (iw 3 5 31)).wf = true := by decide
theorem test_illformed_movhi : (Instr.movhi (iw 3 5 0x10000)).wf = false := by decide
theorem test_illformed_cmpi_field : (Instr.cmpi (iw 0x10 5 0)).wf = false := by decide
theorem test_illformed_block_field : (Instr.bra (iw 0 0 0x10000)).wf = false := by decide
theorem test_illformed_predneg : (Instr.brc (iw 0 0x20 0)).wf = false := by decide
theorem test_illformed_quad : (Instr.cmov (xw 8 6 0 0 0)).wf = false ∧ (Instr.cmov (xw 8 4 0 0 0)).wf = true := by decide
theorem test_illformed_width : (Instr.ld (xw 10 12 4 0 5)).wf = false := by decide
theorem test_illformed_index : (Instr.ld (xw 10 12 4 0 0x202)).wf = false ∧ (Instr.ld (xw 10 12 0 0 0x202)).wf = true := by decide
theorem test_illformed_scope : (Instr.ld (xw 10 12 4 0 0x042)).wf = false := by decide
theorem test_illformed_atom_operation : (Instr.atom (xw 10 12 4 6 0x038)).wf = false := by decide
theorem test_illformed_fence : (Instr.fence (xw 0 0 0 0 5)).wf = false := by decide
theorem test_illformed_queue_field : (Instr.cpy (xw 32 16 20 0 0x200)).wf = false := by decide
theorem test_illformed_tile : (Instr.mget (xw 3 5 0 0 0xC0)).wf = false := by decide
theorem test_illformed_ring : (Instr.qpush (xw 1 5 0 0 0)).wf = false ∧ (Instr.qpush (xw 1 5 0 0 0x40)).wf = true := by decide
theorem test_illformed_special : (Instr.rds (xw 3 0 0 0 0x13)).wf = false := by decide
theorem test_illformed_select : (Instr.syscAlloc (xw 8 4 0 0 3)).wf = false ∧ (Instr.syscAlloc (xw 8 4 0 0 2)).wf = true := by decide
theorem test_illformed_slot_nop : (Instr.pairWord (slot .nop 1 0 0) (slot .add 5 6 0)).wf = false := by decide
theorem test_illformed_slot_imm : (Instr.pairWord (slot .shli 4 0 32) (slot .add 5 6 0)).wf = false := by decide
theorem test_illformed_pair_banks : (Instr.pairWord (slot .add 8 12 0) (slot .add 4 16 0)).wf = false := by decide
theorem test_wf_pair : (Instr.pairWord (slot .add 8 13 0) (slot .addi 9 0 61)).wf = true := by decide

/-! ## Words of the spec's tables decode to what they stand for -/

/-- 03: `add.i32 g10, g4, k3`, `?!p3 fadd.f32.rz g20, g21, z`, `brc !p2, 12, 7`, `cmov c5, c2`. -/
theorem test_words_03 :
    decode 0x00400A0120300000 = .instr (.add (fw 10 4 0x203 0 0))
    ∧ decode 0x100E140560000008 = .instr (.fadd { fw 20 21 0x200 0 8 with guard := { pred := 3, neg := true } })
    ∧ decode 0x908000120007000C = .instr (.brc (iw 0 0x12 0x7000C)) ∧ decode 0xC0F0050100000000 = .instr (.cmov (xw 20 8 0 0 0))
    ∧ decode 0x0000000051008C00 = .header := by decide

/-- 04: `add.i64 g40, g42, g44`, `addc.n32.ci g51, g61, g71, p5`, `cmp.i32.lt p3, g5, k2`, `cmpi.ltu p2, g12, 1000`. -/
theorem test_words_04 :
    decode 0x0040280A82C00040 = .instr (.add (fw 40 42 44 0 0x40)) ∧ decode 0x00C0330F44700035 = .instr (.addc (fw 51 61 71 0 0x35))
    ∧ decode 0x0A00030160200008 = .instr (.cmp (fw 3 5 0x202 0 8)) ∧ decode 0x8403040C000003E8 = .instr (.cmpi (iw 0x182 12 1000)) := by decide

/-- 05: `ffma.f32 g10, g11, g12, g13`, `fcmp.f32.lt.or p4, g6, g7, p2`, `f2i.i32.f32.rz g5, g6`, `qdeq.bf16x2 g20, g21, z, g22`, `faddi g7, g8, 1.5`. -/
theorem test_words_05 :
    decode 0x10C00A02C0C03400 = .instr (.ffma (fw 10 11 12 13 0)) ∧ decode 0x11C0A40180700800 = .instr (.fcmp (fw 0xA4 6 7 2 0))
    ∧ decode 0x1480050180000008 = .instr (.f2i (fw 5 6 0 0 8)) ∧ decode 0x16C01405600058A0 = .instr (.qdeq (fw 20 21 0x200 22 0xA0))
    ∧ decode 0x87800E083FC00000 = .instr (.faddi (iw 7 8 0x3FC00000)) := by decide

/-- 06: `cbnd.exact c9, c4, g40`, `cinc c10, c9, g42`, `cinc.w32 c11, c9, g46`; 20: `cspc g43, c8`. -/
theorem test_words_06 :
    decode 0xC040090202800001 = .instr (.cbnd (xw 36 16 40 0 1)) ∧ decode 0xC0200A0482A00000 = .instr (.cinc (xw 40 36 42 0 0))
    ∧ decode 0xC0200B0482E00001 = .instr (.cinc (xw 44 36 46 0 1)) ∧ decode 0xC0A00AC400000000 = .instr (.cspc (xw 43 32 0 0 0)) := by decide

/-- 07: `call g33, 1, 2`, `ret g33`, `brc p1, 3, 4`; 20: `?p4 exit g42`; 25: `bar`, `exit 0`, `shli g33, g33, 16`. -/
theorem test_words_07 :
    decode 0x9100420000020001 = .instr (.call (iw 33 0 0x20001)) ∧ decode 0xD820000420000000 = .instr (.ret (xw 0 33 0 0 0))
    ∧ decode 0x9080000100040003 = .instr (.brc (iw 0 1 0x40003))
    ∧ decode 0xD834000540000000 = .instr (.exitX { xw 0 42 0 0 0 with guard := { pred := 4, neg := false } })
    ∧ decode 0xD040000000000000 = .instr (.bar (xw 0 0 0 0 0)) ∧ decode 0x9180000000000000 = .instr (.exitI (iw 0 0 0))
    ∧ decode 0x8580422100000010 = .instr (.shli (iw 33 33 16)) := by decide

/-- 08, 09: loads, stores, atomics and a monitor. -/
theorem test_words_08 :
    decode 0xC400028180400012 = .instr (.ld (xw 10 12 4 0 0x12)) ∧ decode 0xC4000A0180000203 = .instr (.ld (xw 40 12 0 0 0x203))
    ∧ decode 0xC4100601009000A0 = .instr (.ldc (xw 24 8 9 0 0xA0)) ∧ decode 0xC420050281E0F800 = .instr (.ldv (xw 20 20 30 31 0))
    ∧ decode 0xC800000180405012 = .instr (.st (xw 0 12 4 10 0x12)) ∧ decode 0xC81000010090C0A0 = .instr (.stc (xw 0 8 9 24 0xA0))
    ∧ decode 0xC830050200503100 = .instr (.atom (xw 20 16 5 6 0x100)) ∧ decode 0xC8400A0100016243 = .instr (.acas (xw 40 8 0 44 0x243))
    ∧ decode 0xC87001C180404000 = .instr (.wadr (xw 7 12 4 8 0)) := by decide

/-- 10: `fence.rel.prt`, `fence.all.sys`, `drain.glb`. -/
theorem test_words_10 :
    decode 0xC890000000000081 = .instr (.fence (xw 0 0 0 0 0x81)) ∧ decode 0xC890000000000104 = .instr (.fence (xw 0 0 0 0 0x104))
    ∧ decode 0xC8A0000000000002 = .instr (.drain (xw 0 0 0 0 2)) := by decide

/-- 12, 24: engine words. -/
theorem test_words_12 :
    decode 0xCC00080201400021 = .instr (.cpy (xw 32 16 20 0 0x21)) ∧ decode 0xCC40000180000000 = .instr (.qfen (xw 0 12 0 0 0))
    ∧ decode 0xCC50014180603C30 = .instr (.wfill (xw 5 12 6 7 0x430)) ∧ decode 0xCC80000100000210 = .instr (.mmo (xw 0 8 0 0 0x210))
    ∧ decode 0xCC90000300900053 = .instr (.mst (xw 0 24 9 0 0x53)) ∧ decode 0xCCC0088402100000 = .instr (.obres (xw 34 32 33 0 0))
    ∧ decode 0xCCA0000460000000 = .instr (.mzro (xw 0 35 0 0 0)) ∧ decode 0xCCE000042001C024 = .instr (.obset (xw 0 33 0 56 0x24)) := by decide

/-- 13, 16, 17: rings, barriers, counters, special registers, firmware calls, the return. -/
theorem test_words_13 :
    decode 0xD0010006C0000001 = .instr (.qpush { xw 0 54 0 0 1 with guard := { pred := 1, neg := false } }) ∧ decode 0xD050000000000002 = .instr (.hbar (xw 0 0 0 0 2))
    ∧ decode 0xD400000000000100 = .instr (.wait (xw 0 0 0 0 0x100)) ∧ decode 0xD4100A0000000000 = .instr (.clk (xw 40 0 0 0 0))
    ∧ decode 0xD4200A000000000A = .instr (.rds (xw 40 0 0 0 10)) ∧ decode 0xD43000012000000C = .instr (.wrs (xw 0 9 0 0 12))
    ∧ decode 0xD4400000E000000B = .instr (.perfcSel (xw 0 7 0 0 11)) ∧ decode 0xD4400A8000000003 = .instr (.perfcRd (xw 42 0 0 0 3))
    ∧ decode 0xD850000200000001 = .instr (.syscMap (xw 0 16 0 0 1)) ∧ decode 0xD850080200000002 = .instr (.syscAlloc (xw 32 16 0 0 2))
    ∧ decode 0xD850014200000003 = .instr (.syscRevoke (xw 5 16 0 0 3)) ∧ decode 0xD850014200600004 = .instr (.syscLown (xw 5 16 6 0 4))
    ∧ decode 0xD860000120000001 = .instr (.rti (xw 0 9 0 0 1)) := by decide

/-- 03 R64, R65: `add g3, g4` in slot 0 with `addi g5, -1` under p1 in slot 1, bit by bit. -/
theorem test_word_pair :
    decode (0b01_000001_00_00000011_000000100_000000_010000_01_00000101_000000000_111111 : BitVec 64)
      = .instr (.pairWord (slot .add 3 4 0) { slot .addi 5 0 63 with guard := 1 }) := by decide

/-- 03 R74, R75: op10 0x7FF and op8 0xFF are assigned to nothing. -/
theorem test_words_unassigned : decode 0xFFF0000000000000 = .illegal ∧ decode 0x3FC0000000000000 = .illegal := by decide

/-! The opcode tables of 03 R75 to R77: each word has its opcode and nothing else set. -/

/-- R75, integer. -/
theorem test_opcodes_F_integer :
    decode 0x40000000000000 = .instr (.add (fw 0 0 0 0 0)) ∧ decode 0x80000000000000 = .instr (.sub (fw 0 0 0 0 0))
    ∧ decode 0xC0000000000000 = .instr (.addc (fw 0 0 0 0 0)) ∧ decode 0x100000000000000 = .instr (.subb (fw 0 0 0 0 0))
    ∧ decode 0x140000000000000 = .instr (.mul (fw 0 0 0 0 0)) ∧ decode 0x180000000000000 = .instr (.mulhi (fw 0 0 0 0 0))
    ∧ decode 0x1C0000000000000 = .instr (.mulw (fw 0 0 0 0 0)) ∧ decode 0x200000000000000 = .instr (.mad (fw 0 0 0 0 0))
    ∧ decode 0x240000000000000 = .instr (.madhi (fw 0 0 0 0 0)) ∧ decode 0x280000000000000 = .instr (.min (fw 0 0 0 0 0))
    ∧ decode 0x2C0000000000000 = .instr (.max (fw 0 0 0 0 0)) ∧ decode 0x300000000000000 = .instr (.abs (fw 0 0 0 0 0))
    ∧ decode 0x340000000000000 = .instr (.neg (fw 0 0 0 0 0)) ∧ decode 0x380000000000000 = .instr (.sadd (fw 0 0 0 0 0))
    ∧ decode 0x3C0000000000000 = .instr (.ssub (fw 0 0 0 0 0)) ∧ decode 0x400000000000000 = .instr (.and (fw 0 0 0 0 0))
    ∧ decode 0x440000000000000 = .instr (.or (fw 0 0 0 0 0)) ∧ decode 0x480000000000000 = .instr (.xor (fw 0 0 0 0 0))
    ∧ decode 0x4C0000000000000 = .instr (.andn (fw 0 0 0 0 0)) ∧ decode 0x500000000000000 = .instr (.orn (fw 0 0 0 0 0))
    ∧ decode 0x540000000000000 = .instr (.not (fw 0 0 0 0 0)) ∧ decode 0x580000000000000 = .instr (.shl (fw 0 0 0 0 0))
    ∧ decode 0x5C0000000000000 = .instr (.shr (fw 0 0 0 0 0)) ∧ decode 0x600000000000000 = .instr (.sar (fw 0 0 0 0 0))
    ∧ decode 0x640000000000000 = .instr (.rol (fw 0 0 0 0 0)) ∧ decode 0x680000000000000 = .instr (.ror (fw 0 0 0 0 0))
    ∧ decode 0x6C0000000000000 = .instr (.bfx (fw 0 0 0 0 0)) ∧ decode 0x700000000000000 = .instr (.bfi (fw 0 0 0 0 0))
    ∧ decode 0x740000000000000 = .instr (.popc (fw 0 0 0 0 0)) ∧ decode 0x780000000000000 = .instr (.clz (fw 0 0 0 0 0))
    ∧ decode 0x7C0000000000000 = .instr (.ctz (fw 0 0 0 0 0)) ∧ decode 0x800000000000000 = .instr (.brev (fw 0 0 0 0 0))
    ∧ decode 0x840000000000000 = .instr (.bperm (fw 0 0 0 0 0)) ∧ decode 0x880000000000000 = .instr (.sel (fw 0 0 0 0 0))
    ∧ decode 0x8C0000000000000 = .instr (.mov (fw 0 0 0 0 0)) ∧ decode 0x900000000000000 = .instr (.clmul (fw 0 0 0 0 0))
    ∧ decode 0x940000000000000 = .instr (.clmulhi (fw 0 0 0 0 0)) ∧ decode 0x980000000000000 = .instr (.dot4 (fw 0 0 0 0 0))
    ∧ decode 0x9C0000000000000 = .instr (.adiff (fw 0 0 0 0 0)) ∧ decode 0xA00000000000000 = .instr (.cmp (fw 0 0 0 0 0))
    ∧ decode 0xA40000000000000 = .instr (.pset (fw 0 0 0 0 0)) ∧ decode 0xA80000000000000 = .instr (.p2g (fw 0 0 0 0 0))
    ∧ decode 0xAC0000000000000 = .instr (.g2p (fw 0 0 0 0 0)) ∧ decode 0xB00000000000000 = .instr (.scadd (fw 0 0 0 0 0)) := by decide

/-- R75, floating-point. -/
theorem test_opcodes_F_float :
    decode 0x1000000000000000 = .instr (.fadd (fw 0 0 0 0 0)) ∧ decode 0x1040000000000000 = .instr (.fsub (fw 0 0 0 0 0))
    ∧ decode 0x1080000000000000 = .instr (.fmul (fw 0 0 0 0 0)) ∧ decode 0x10C0000000000000 = .instr (.ffma (fw 0 0 0 0 0))
    ∧ decode 0x1100000000000000 = .instr (.fmin (fw 0 0 0 0 0)) ∧ decode 0x1140000000000000 = .instr (.fmax (fw 0 0 0 0 0))
    ∧ decode 0x1180000000000000 = .instr (.fmov (fw 0 0 0 0 0)) ∧ decode 0x11C0000000000000 = .instr (.fcmp (fw 0 0 0 0 0))
    ∧ decode 0x1200000000000000 = .instr (.fclass (fw 0 0 0 0 0)) ∧ decode 0x1240000000000000 = .instr (.fdiv (fw 0 0 0 0 0))
    ∧ decode 0x1280000000000000 = .instr (.fsqrt (fw 0 0 0 0 0)) ∧ decode 0x12C0000000000000 = .instr (.frcp (fw 0 0 0 0 0))
    ∧ decode 0x1300000000000000 = .instr (.frsq (fw 0 0 0 0 0)) ∧ decode 0x1340000000000000 = .instr (.fex2 (fw 0 0 0 0 0))
    ∧ decode 0x1380000000000000 = .instr (.flg2 (fw 0 0 0 0 0)) ∧ decode 0x13C0000000000000 = .instr (.fsin (fw 0 0 0 0 0))
    ∧ decode 0x1400000000000000 = .instr (.fcos (fw 0 0 0 0 0)) ∧ decode 0x1440000000000000 = .instr (.fcvt (fw 0 0 0 0 0))
    ∧ decode 0x1480000000000000 = .instr (.f2i (fw 0 0 0 0 0)) ∧ decode 0x14C0000000000000 = .instr (.i2f (fw 0 0 0 0 0))
    ∧ decode 0x1500000000000000 = .instr (.frnd (fw 0 0 0 0 0)) ∧ decode 0x1540000000000000 = .instr (.fscale (fw 0 0 0 0 0))
    ∧ decode 0x1580000000000000 = .instr (.fgexp (fw 0 0 0 0 0)) ∧ decode 0x15C0000000000000 = .instr (.hadd2 (fw 0 0 0 0 0))
    ∧ decode 0x1600000000000000 = .instr (.hmul2 (fw 0 0 0 0 0)) ∧ decode 0x1640000000000000 = .instr (.hfma2 (fw 0 0 0 0 0))
    ∧ decode 0x1680000000000000 = .instr (.fdot2 (fw 0 0 0 0 0)) ∧ decode 0x16C0000000000000 = .instr (.qdeq (fw 0 0 0 0 0)) := by decide

/-- R76. -/
theorem test_opcodes_I :
    decode 0x8080000000000000 = .instr (.addi (iw 0 0 0)) ∧ decode 0x8100000000000000 = .instr (.muli (iw 0 0 0))
    ∧ decode 0x8180000000000000 = .instr (.andi (iw 0 0 0)) ∧ decode 0x8200000000000000 = .instr (.ori (iw 0 0 0))
    ∧ decode 0x8280000000000000 = .instr (.xori (iw 0 0 0)) ∧ decode 0x8300000000000000 = .instr (.movi (iw 0 0 0))
    ∧ decode 0x8380000000000000 = .instr (.movhi (iw 0 0 0)) ∧ decode 0x8400000000000000 = .instr (.cmpi (iw 0 0 0))
    ∧ decode 0x8480000000000000 = .instr (.mini (iw 0 0 0)) ∧ decode 0x8500000000000000 = .instr (.maxi (iw 0 0 0))
    ∧ decode 0x8580000000000000 = .instr (.shli (iw 0 0 0)) ∧ decode 0x8600000000000000 = .instr (.shri (iw 0 0 0))
    ∧ decode 0x8680000000000000 = .instr (.sari (iw 0 0 0)) ∧ decode 0x8700000000000000 = .instr (.fmovi (iw 0 0 0))
    ∧ decode 0x8780000000000000 = .instr (.faddi (iw 0 0 0)) ∧ decode 0x8800000000000000 = .instr (.fmuli (iw 0 0 0))
    ∧ decode 0x9000000000000000 = .instr (.bra (iw 0 0 0)) ∧ decode 0x9080000000000000 = .instr (.brc (iw 0 0 0))
    ∧ decode 0x9100000000000000 = .instr (.call (iw 0 0 0)) ∧ decode 0x9180000000000000 = .instr (.exitI (iw 0 0 0))
    ∧ decode 0x9200000000000000 = .instr (.trap (iw 0 0 0)) := by decide

/-- R77 up to 0x0FF. -/
theorem test_opcodes_X_low :
    decode 0xC010000000000000 = .instr (.cget (xw 0 0 0 0 0)) ∧ decode 0xC020000000000000 = .instr (.cinc (xw 0 0 0 0 0))
    ∧ decode 0xC030000000000000 = .instr (.csetc (xw 0 0 0 0 0)) ∧ decode 0xC040000000000000 = .instr (.cbnd (xw 0 0 0 0 0))
    ∧ decode 0xC050000000000000 = .instr (.cperm (xw 0 0 0 0 0)) ∧ decode 0xC060000000000000 = .instr (.cview (xw 0 0 0 0 0))
    ∧ decode 0xC070000000000000 = .instr (.cseal (xw 0 0 0 0 0)) ∧ decode 0xC080000000000000 = .instr (.cunseal (xw 0 0 0 0 0))
    ∧ decode 0xC090000000000000 = .instr (.ctag (xw 0 0 0 0 0)) ∧ decode 0xC0A0000000000000 = .instr (.cspc (xw 0 0 0 0 0))
    ∧ decode 0xC0B0000000000000 = .instr (.ccast (xw 0 0 0 0 0)) ∧ decode 0xC0C0000000000000 = .instr (.ceq (xw 0 0 0 0 0))
    ∧ decode 0xC0D0000000000000 = .instr (.cdif (xw 0 0 0 0 0)) ∧ decode 0xC0E0000000000000 = .instr (.cclr (xw 0 0 0 0 0))
    ∧ decode 0xC0F0000000000000 = .instr (.cmov (xw 0 0 0 0 0)) ∧ decode 0xC100000000000000 = .instr (.crep (xw 0 0 0 0 0))
    ∧ decode 0xC400000000000000 = .instr (.ld (xw 0 0 0 0 0)) ∧ decode 0xC410000000000000 = .instr (.ldc (xw 0 0 0 0 0))
    ∧ decode 0xC420000000000000 = .instr (.ldv (xw 0 0 0 0 0)) ∧ decode 0xC800000000000000 = .instr (.st (xw 0 0 0 0 0))
    ∧ decode 0xC810000000000000 = .instr (.stc (xw 0 0 0 0 0)) ∧ decode 0xC820000000000000 = .instr (.stv (xw 0 0 0 0 0))
    ∧ decode 0xC830000000000000 = .instr (.atom (xw 0 0 0 0 0)) ∧ decode 0xC840000000000000 = .instr (.acas (xw 0 0 0 0 0))
    ∧ decode 0xC850000000000000 = .instr (.red (xw 0 0 0 0 0)) ∧ decode 0xC860000000000000 = .instr (.acasc (xw 0 0 0 0 0))
    ∧ decode 0xC870000000000000 = .instr (.wadr (xw 0 0 0 0 0)) ∧ decode 0xC880000000000000 = .instr (.wake (xw 0 0 0 0 0))
    ∧ decode 0xC8B0000000000000 = .instr (.pf (xw 0 0 0 0 0)) ∧ decode 0xC890000000000000 = .instr (.fence (xw 0 0 0 0 0))
    ∧ decode 0xC8A0000000000000 = .instr (.drain (xw 0 0 0 0 0)) ∧ decode 0xCC00000000000000 = .instr (.cpy (xw 0 0 0 0 0))
    ∧ decode 0xCC10000000000000 = .instr (.cpyv (xw 0 0 0 0 0)) ∧ decode 0xCC20000000000000 = .instr (.cpyg (xw 0 0 0 0 0))
    ∧ decode 0xCC30000000000000 = .instr (.cpyf (xw 0 0 0 0 0)) ∧ decode 0xCC40000000000000 = .instr (.qfen (xw 0 0 0 0 0))
    ∧ decode 0xCC50000000000000 = .instr (.wfill (xw 0 0 0 0 0)) ∧ decode 0xCC80000000000000 = .instr (.mmo (xw 0 0 0 0 0))
    ∧ decode 0xCC90000000000000 = .instr (.mst (xw 0 0 0 0 0)) ∧ decode 0xCCA0000000000000 = .instr (.mzro (xw 0 0 0 0 0))
    ∧ decode 0xCCB0000000000000 = .instr (.mget (xw 0 0 0 0 0)) ∧ decode 0xCCC0000000000000 = .instr (.obres (xw 0 0 0 0 0))
    ∧ decode 0xCCD0000000000000 = .instr (.obrel (xw 0 0 0 0 0)) ∧ decode 0xCCE0000000000000 = .instr (.obset (xw 0 0 0 0 0)) := by decide

/-- R77 from 0x100, `perfc` and `sysc` apart. -/
theorem test_opcodes_X_high :
    decode 0xD000000000000000 = .instr (.qpush (xw 0 0 0 0 0)) ∧ decode 0xD010000000000000 = .instr (.qpop (xw 0 0 0 0 0))
    ∧ decode 0xD020000000000000 = .instr (.stacq (xw 0 0 0 0 0)) ∧ decode 0xD030000000000000 = .instr (.strel (xw 0 0 0 0 0))
    ∧ decode 0xD040000000000000 = .instr (.bar (xw 0 0 0 0 0)) ∧ decode 0xD050000000000000 = .instr (.hbar (xw 0 0 0 0 0))
    ∧ decode 0xD060000000000000 = .instr (.launch (xw 0 0 0 0 0)) ∧ decode 0xD070000000000000 = .instr (.join (xw 0 0 0 0 0))
    ∧ decode 0xD400000000000000 = .instr (.wait (xw 0 0 0 0 0)) ∧ decode 0xD410000000000000 = .instr (.clk (xw 0 0 0 0 0))
    ∧ decode 0xD420000000000000 = .instr (.rds (xw 0 0 0 0 0)) ∧ decode 0xD430000000000000 = .instr (.wrs (xw 0 0 0 0 0))
    ∧ decode 0xD800000000000000 = .instr (.brx (xw 0 0 0 0 0)) ∧ decode 0xD810000000000000 = .instr (.callx (xw 0 0 0 0 0))
    ∧ decode 0xD820000000000000 = .instr (.ret (xw 0 0 0 0 0)) ∧ decode 0xD830000000000000 = .instr (.exitX (xw 0 0 0 0 0))
    ∧ decode 0xD840000000000000 = .instr (.nop (xw 0 0 0 0 0)) ∧ decode 0xD870000000000000 = .instr (.brk (xw 0 0 0 0 0))
    ∧ decode 0xD880000000000000 = .instr (.idle (xw 0 0 0 0 0)) ∧ decode 0xD860000000000000 = .instr (.rti (xw 0 0 0 0 0))
    ∧ decode 0xDC00000000000000 = .instr (.elect (xw 0 0 0 0 0)) := by decide
/-! ## A small machine -/

def cid : CtxId := { part := 0, id := 0 }

/-- A capability with every permission and live colour 0 on [base, base + len). -/
def cap (space cursor base len : Nat) : Cap :=
  ((((Cap.null.withField 29 22 0xFF).withField 21 19 space).withCursor cursor).withBounds
    ((setBounds base len).getD { e := 0, b := 0, t := 0, bl := 0, tl := 0 })).withTag true

/-- A thread of 64 registers at word 1 of block 0. -/
def thr : Thread := { placedThread cid 0 with regs := List.replicate 64 0, tags := List.replicate 16 false }

/-- A thread with registers and capabilities of its own. -/
def thrOf (rs : List (Nat × Nat)) (cs : List (Nat × Cap)) : Thread :=
  { thr with
    regs := cs.foldl (fun l c => (List.range 4).foldl (fun l i => l.set (c.1 + i) (c.2.bits.extractLsb' (32 * i) 32)) l)
      (rs.foldl (fun l r => l.set r.1 (BitVec.ofNat 32 r.2)) thr.regs)
    tags := cs.foldl (fun l c => l.set (c.1 / 4) c.2.tag) thr.tags }

def lch : Launch := { placedLaunch cid 0 with blocks := 4, regsPer := 64 }

def grp : Group :=
  { launch := 0, num := 0, ctx := cid, cu := 0, stage := 0, role := 3, threads := 1, regsPer := 64, obBase := 0, obSize := 4096
    resvs := List.replicate 16 Resv.free, arrived := 0, bonus := 0, slots := [0] }

def team : Team :=
  { launch := 0, num := 0, cluster := 0, place := [0], regions := [{ cu := 0, base := 0, size := 65536 }], arrivals := []
    children := List.replicate 32 { used := false, seq := 0, launch := 0, result := none }, waits := [] }

def train : Train :=
  { cu := 0, launch := 0, group := 0, blk := 0, off := 1, lanes := [0], todo := [0], done := [], elected := none, since := 0, page := none
    check := false, head := false, word := none, old := [], pos := [0], reqs := [], turned := false, tried := [] }

def tnt : Tenant :=
  { id := 0, colours := { state := 1, epoch := 0, lo := 0, hi := 0 } :: List.replicate 15 { state := 0, epoch := 0, lo := 0, hi := 0 }
    memKey := 0, transferKey := 0, kek := none, pubKeys := [], exports := [], revs := [], acks := [] }

/-- One partition of one slice with an enabled virtual function, one context, one group of one thread, which issues; page 0 is mapped
writable, executable and tag-capable onto frame 1. -/
def base : State :=
  { State.reset with
    cus := List.replicate 12 Cu.reset, cur := some thr, launches := [lch], contexts := [placedContext cid], groups := [grp], teams := [team]
    trains := [train], tenants := [tnt], nextLaunch := 1, sensors := { State.reset.sensors with die := List.replicate 48 300 }
    parts := { Partition.reset with state := 1, map := [0] } :: List.replicate 15 Partition.reset
    vfs := { Vf.reset with enabled := true } :: List.replicate 15 Vf.reset
    links := [{ keys := [], secure := true }, { keys := [], secure := false }, { keys := [], secure := false }]
    frames := [(0, { state := 2, scrub := false, lent := false, part := 0, seq := 0 }), (1, { state := 1, scrub := false, lent := false, part := 0, seq := 0 })]
    mem := memWriteN (memWriteN (memWriteN (memWriteN [] 0 (natBytes 8 0x1001)) 0x1000 (natBytes 8 0x2001)) 0x2000 (natBytes 8 0x3001))
      0x3000 (natBytes 8 0x800000000001000F) }

/-- The same machine while a thread `t` issues. -/
def withThread (t : Thread) : State := { base with cur := some t }

theorem test_page : base.xlate 0 0x20 .write = .ok 0x10020 0x800000000001000F 16 := by decide

theorem test_scratch :
    (withThread thr).land thr 3 0xFD00000000000010 .write = .ok (.sram 0 16) := by decide

/-- A thread whose word's own checks pass. -/
theorem ready {i : Instr} {s : State} {t : Thread} (h0 : s.cur = some t)
    (h : (guardTrue t i.code && operandsOk t i.code && (blocked s t i.code).isNone && !awaitsFlight s t i.code && !s.upsets.lane && t.peerFault.isNone) = true) :
    Ready i s t := by
  simp only [Bool.and_eq_true, Option.isNone_iff_eq_none, Bool.not_eq_true'] at h
  exact ⟨h0, h.1.1.1.1.1, h.1.1.1.1.2, h.1.1.1.2, h.1.1.2, h.2, h.1.2⟩

/-- What the thread that issued holds afterwards. -/
def after (o : Host.Outcome State Fault Refusal) : Option Thread :=
  match o with
  | .next s => s.cur
  | .fault _ => none
  | .refused _ => none

def regAfter (i : Instr) (t : Thread) (n : Nat) : Option Nat := (after (exec i (withThread t))).map (fun t => (t.reg n).toNat)

def fpsAfter (i : Instr) (t : Thread) : Option (BitVec 5) := (after (exec i (withThread t))).map (·.fps)

/-! ## Single steps with the spec's own results -/

/-- 04 "A 64-bit sum built from 32-bit words": the first `addc` leaves 0x10 and a carry in p5, the second adds it. -/
theorem test_addc :
    (after (exec (.addc (fw 50 60 61 0 0x25)) (withThread (thrOf [(60, 0xFFFFFFF0), (61, 0x20)] [])))).map (fun t => ((t.reg 50).toNat, t.pred 5)) = some (0x10, true)
    ∧ (after (exec (.addc (fw 51 60 61 0 0x35)) (withThread { thrOf [(60, 1), (61, 2)] [] with preds := 0x20 }))).map (fun t => ((t.reg 51).toNat, t.pred 5)) = some (4, false) := by
  decide

/-- 04 "Fields and bytes". -/
theorem test_bfx : regAfter (.bfx (fw 9 8 7 0 0)) (thrOf [(8, 0xDEADBEEF), (7, 0x808)] []) 9 = some 0xFFFFFFBE
    ∧ regAfter (.bfx (fw 9 8 7 0 0x20)) (thrOf [(8, 0xDEADBEEF), (7, 0x2818)] []) 9 = some 0xDE := by decide
theorem test_bfi : regAfter (.bfi (fw 9 6 8 7 0x20)) (thrOf [(8, 0xDEADBEEF), (6, 0x12), (7, 0x808)] []) 9 = some 0xDEAD12EF := by decide
theorem test_bperm : regAfter (.bperm (fw 3 1 2 4 0x20)) (thrOf [(1, 0x44332211), (2, 0x88776655), (4, 0xF470)] []) 3 = some 0xFF558811 := by decide

/-- 04 R101, by hand: |-128| in bytes wraps to -128, and saturates to 127 with .sat; -1 times -1 of 32 bits has high half 0. -/
theorem test_abs : regAfter (.abs (fw 9 8 0 0 0xC0)) (thrOf [(8, 0x8001FF7F)] []) 9 = some 0x8001017F
    ∧ regAfter (.abs (fw 9 8 0 0 0xC1)) (thrOf [(8, 0x8001FF7F)] []) 9 = some 0x7F01017F := by decide
theorem test_mulhi : regAfter (.mulhi (fw 9 8 8 0 0)) (thrOf [(8, 0xFFFFFFFF)] []) 9 = some 0
    ∧ regAfter (.mulhi (fw 9 8 8 0 0x20)) (thrOf [(8, 0xFFFFFFFF)] []) 9 = some 0xFFFFFFFE := by decide

/-- 05 "Overflow by rounding in binary16": with flags OF and NX, with NX alone, and clamped. -/
theorem test_fadd_overflow :
    (let t := thrOf [(1, 0x7BFF), (2, 0x4C00)] []
    [0x40, 0x48].map (fun m => regAfter (.fadd (fw 3 1 2 0 m)) t 3) = [some 0x7C00, some 0x7BFF]
    ∧ fpsAfter (.fadd (fw 3 1 2 0 0x40)) t = some (flagOF ||| flagNX) ∧ fpsAfter (.fadd (fw 3 1 2 0 0x48)) t = some flagNX) := by decide

/-- 05 "Float-to-integer saturation". -/
theorem test_f2i :
    regAfter (.f2i (fw 5 6 0 0 0)) (thrOf [(6, 0xC0200000)] []) 5 = some 0xFFFFFFFE ∧ fpsAfter (.f2i (fw 5 6 0 0 0)) (thrOf [(6, 0xC0200000)] []) = some flagNX
    ∧ regAfter (.f2i (fw 5 6 0 0 0)) (thrOf [(6, 0x4F32D05E)] []) 5 = some 0x7FFFFFFF ∧ regAfter (.f2i (fw 5 6 1 0 0)) (thrOf [(6, 0x4F32D05E)] []) 5 = some 0xB2D05E00
    ∧ fpsAfter (.f2i (fw 5 6 1 0 0)) (thrOf [(6, 0xBF800000)] []) = some flagNV ∧ regAfter (.f2i (fw 5 6 0 0 0)) (thrOf [(6, 0x7FC00000)] []) 5 = some 0 := by decide

/-- 06 "Worked examples": the capability c4 of the example; `cbnd.exact` gives word 1 0x1480_0800_3040_4030. -/
def c4 : Cap :=
  let b := (setBounds 0x4000000000 0x100000000).getD { e := 0, b := 0, t := 0, bl := 0, tl := 0 }
  (((((Cap.null.withField 29 22 (permLD + permST + permGL)).withField 7 4 3).withField 14 13 2).withCursor 0x4000010000).withBounds b).withTag true

def live3 : State → State := fun s => { s with tenants := [{ tnt with colours := tnt.colours.set 3 { state := 1, epoch := 0, lo := 0, hi := 0 } }] }

theorem test_cbnd :
    (after (exec (.cbnd (xw 36 16 40 0 1)) (live3 (withThread (thrOf [(40, 0x30000)] [(16, c4)]))))).map (fun t => ((t.quad 36).bits, (t.quad 36).tag))
      = some (0x14800800304040300000004000010000, true) := by decide

theorem test_cinc_leaves_region :
    (let c9 : Cap := { bits := 0x14800800304040300000004000010000, tag := true }
    ((after (exec (.cinc (xw 40 36 42 0 0)) (live3 (withThread (thrOf [(42, 0x5FFFC)] [(36, c9)]))))).map (fun t => ((t.quad 40).cursor, (t.quad 40).tag))
      = some (0x400006FFFC, true))
    ∧ (after (exec (.cinc (xw 44 36 46 0 1)) (live3 (withThread (thrOf [(46, 0x60000)] [(36, c9)]))))).map (fun t => ((t.quad 44).cursor, (t.quad 44).tag))
      = some (0x4000070000, false)) := by decide

/-- 07 R72: past its block's last word the thread takes ILLEGAL_TARGET, its fault place the word it issued. -/
theorem test_block_end :
    (after (exec (.nop (xw 0 0 0 0 0)) { withThread { thr with blkLen := 2 } with launches := [{ lch with handler := 2 }] })).map
      (fun t => (t.fcode, t.fblk, t.inHandler, t.blk)) = some (0x06, 0x10000, true, 2) := by decide

/-- 08 R207, 09 R221: a byte stored to scratchpad reads back sign-extended. -/
theorem test_store_load :
    (match exec (.st (xw 0 12 0 10 0x200)) (withThread (thrOf [(10, 0x80)] [(12, cap 3 0xFD00000000000010 0xFD00000000000000 256)])) with
    | .next s => (after (exec (.ld (xw 9 12 0 0 0x208)) s)).map (fun t => (t.reg 9).toNat) == some 0xFFFFFF80
    | _ => false) = true := by decide

/-- 09 R227: `atom.max` on signed words keeps the larger and returns the old value. -/
theorem test_atom_max :
    (let t := thrOf [(10, 0xFFFFFFFE)] [(12, cap 3 0xFD00000000000010 0xFD00000000000000 256)]
    let s : State := { withThread t with cus := modAt base.cus 0 (fun c => { c with sram := memWriteN [] 16 [5, 0, 0, 0] }) }
    match exec (.atom (xw 9 12 0 10 0x015)) s with
    | .next s => s.cur.map (fun t => (t.reg 9).toNat) == some 5 && memNat (s.cu 0).sram 16 4 == 5
    | _ => false) = true := by decide

/-! ## States and operands that meet the hypotheses of the statements -/

theorem witness_DecodeOfEncode : ∃ x, (Instr.add (fw 511 575 0 0 0)).wf = true ∧ encode (.add (fw 511 575 0 0 0)) = some x := ⟨_, by decide, rfl⟩
theorem witness_EncodeOfDecode : decode 0xD860000120000001 = .instr (.rti (xw 0 9 0 0 1)) ∧ decode 0x3FFFFFFFFFFFFF = .header := by decide

theorem got_of {f : Fetched} {n : Nat} (h : (match f with | .got v _ => v == n | _ => false) = true) : ∃ s, f = .got n s := by
  cases f <;> simp_all

theorem witness_StepRuns_kept :
    let s : State := { base with trains := [{ train with word := some 0x00400A0120300000 }] }
    s.inbox = [] ∧ s.cur = some thr ∧ thr.issued = false ∧ s.trains.find? (inTrain thr) = some { train with word := some 0x00400A0120300000 }
      ∧ s.launch thr.id.launch = some lch ∧ decode 0x00400A0120300000 = .instr (.add (fw 10 4 0x203 0 0)) := by decide
theorem witness_StepRuns_fetched :
    let s := State.reset.withFetchWord 64 0x00400A0120300000
    (∃ s1, s.fetchWord (placedLaunch cid 0) 0 1 = .got 0x00400A0120300000 s1) ∧ s.inbox = [] ∧ s.cur = some (placedThread cid 0)
      ∧ s.launch 0 = some (placedLaunch cid 0) := ⟨got_of (by decide), by decide, by rfl, by rfl⟩

theorem witness_StepTakesTheInbox : ({ base with inbox := [.powerControlStep] } : State).inbox = .powerControlStep :: []
    ∧ (withThread { thr with issued := true }).inbox = [] ∧ (withThread { thr with issued := true }).cur = some { thr with issued := true } := ⟨rfl, rfl, rfl⟩
theorem witness_NoStepStops : ∀ i ∈ State.reset.inbox.head?, i.code = .event := by simp [State.reset]
theorem witness_StepKeepsMemoryForm : Memory.wf base.mem = true ∧ ∃ s, step { base with inbox := [.setPowerLimit 600] } = .next s := ⟨by decide, _, rfl⟩

theorem witness_FalseGuard :
    let i := Instr.add { fw 10 4 5 0 0 with guard := { pred := 0, neg := true } }
    i.code ≠ .event ∧ guardTrue thr i.code = false ∧ thr.mid = true
      ∧ (withThread { thr with blkLen := 2 }).cur = some { thr with blkLen := 2 } ∧ guardTrue { thr with blkLen := 2 } i.code = false
      ∧ Thread.atEnd { thr with blkLen := 2 } = true ∧ guardTrue { thr with steps := true } i.code = false ∧ Thread.atEnd { thr with steps := true } = false := by decide
theorem witness_BadOperand :
    let i := Instr.add (fw 64 4 5 0 0)
    let s : State := { base with launches := [{ lch with handler := 2 }] }
    i.code ≠ .event ∧ s.cur = some thr ∧ guardTrue thr i.code = true ∧ operandsOk thr i.code = false ∧ s.upsets.lane = false ∧ s.faultEnds thr = false
      ∧ thr.steps = false := by decide
theorem witness_TakingAnException :
    ({ base with launches := [{ lch with handler := 2 }] } : State).faultEnds thr = false ∧ base.faultEnds thr = true ∧ base.cur = some thr := ⟨rfl, rfl, rfl⟩

/-- Words that are ready in a thread, each with its own operands. -/
theorem ready_of (i : Instr) (t : Thread) (h : (guardTrue t i.code && operandsOk t i.code && (blocked (withThread t) t i.code).isNone
    && !awaitsFlight (withThread t) t i.code && !(withThread t).upsets.lane && t.peerFault.isNone) = true) : Ready i (withThread t) t := ready rfl h

theorem witness_LaneArithmetic : Ready (.scadd (fw 62 63 575 0 31)) (withThread thr) thr ∧ thr.mid = true
    ∧ ∃ f, (Instr.scadd (fw 62 63 575 0 31), f) ∈ laneTable (fw 62 63 575 0 31) := ⟨ready_of _ _ (by decide), by decide, _, by simp [laneTable]; rfl⟩
theorem witness_ShiftsAndBitCounts :
    (Ready (.rol (fw 40 42 44 0 0x60)) (withThread (thrOf [(44, 64)] [])) (thrOf [(44, 64)] []) ∧ ∃ f, (Instr.rol (fw 40 42 44 0 0x60), f) ∈ shiftTable (fw 40 42 44 0 0x60))
    ∧ Ready (.clz (fw 3 4 0 0 0xC0)) (withThread thr) thr ∧ (∃ f, (Instr.clz (fw 3 4 0 0 0xC0), f) ∈ countTable (fw 3 4 0 0 0xC0)) ∧ thr.mid = true :=
  ⟨⟨ready_of _ _ (by decide), _, by simp [shiftTable]; rfl⟩, ready_of _ _ (by decide), ⟨_, by simp [countTable]; rfl⟩, by decide⟩
theorem witness_LogicMoveSelect :
    Ready (.andn (fw 40 42 44 0 0x40)) (withThread thr) thr ∧ (∃ f, (Instr.andn (fw 40 42 44 0 0x40), f) ∈ logicTable (fw 40 42 44 0 0x40))
    ∧ Ready (.mov (fw 40 0x23F 0 0 0x40)) (withThread thr) thr ∧ Ready (.sel (fw 3 4 5 0x1F 0)) (withThread thr) thr ∧ thr.mid = true :=
  ⟨ready_of _ _ (by decide), ⟨_, by simp [logicTable]; rfl⟩, ready_of _ _ (by decide), ready_of _ _ (by decide), by decide⟩
theorem witness_CarryChains :
    Ready (.addc (fw 3 4 5 0 0x1F)) (withThread thr) thr ∧ Ready (.subb (fw 40 42 44 0 0x50)) (withThread thr) thr ∧ thr.mid = true :=
  ⟨ready_of _ _ (by decide), ready_of _ _ (by decide), by decide⟩
theorem witness_WideProducts :
    Ready (.mulw (fw 40 4 5 0 0)) (withThread thr) thr ∧ Ready (.dot4 (fw 3 4 5 6 0xC1)) (withThread thr) thr ∧ thr.mid = true :=
  ⟨ready_of _ _ (by decide), ready_of _ _ (by decide), by decide⟩
theorem witness_FieldsPermutesProducts :
    (let t := thrOf [(5, 0xFF1F), (6, 0x0820)] []
    Ready (.bfx (fw 3 4 5 0 0)) (withThread t) t ∧ Ready (.bfi (fw 3 4 4 6 0x20)) (withThread t) t ∧ t.mid = true)
    ∧ Ready (.bperm (fw 3 4 5 6 0x20)) (withThread thr) thr ∧ Ready (.clmulhi (fw 40 42 44 0 0x60)) (withThread thr) thr :=
  ⟨⟨ready_of _ _ (by decide), ready_of _ _ (by decide), by decide⟩, ready_of _ _ (by decide), ready_of _ _ (by decide)⟩
theorem witness_PredicateWords :
    Ready (.cmp (fw 15 4 5 15 0x16)) (withThread thr) thr ∧ Ready (.cmpi (iw 0x1CF 4 0xFFFFFFFF)) (withThread thr) thr
    ∧ Ready (.pset (fw 15 15 0 0 0x0F)) (withThread thr) thr ∧ Ready (.p2g (fw 63 0 0 0 0)) (withThread thr) thr
    ∧ Ready (.g2p (fw 0 4 5 0 0)) (withThread thr) thr ∧ thr.mid = true :=
  ⟨ready_of _ _ (by decide), ready_of _ _ (by decide), ready_of _ _ (by decide), ready_of _ _ (by decide), ready_of _ _ (by decide), by decide⟩
theorem witness_ImmediateAndPairWords :
    Ready (.sari (iw 63 0 31)) (withThread thr) thr ∧ (∃ f, (Instr.sari (iw 63 0 31), f) ∈ immTable (iw 63 0 31)) ∧ thr.mid = true
    ∧ Ready (.sari (iw 63 0 31)) (withThread { thr with blkLen := 2 }) { thr with blkLen := 2 } ∧ Thread.atEnd { thr with blkLen := 2 } = true
    ∧ Ready (.pairWord (slot .add 8 13 0) { slot .addi 9 0 61 with guard := 1 }) (withThread thr) thr
    ∧ pairOk (slot .add 8 13 0) { slot .addi 9 0 61 with guard := 1 } = true :=
  ⟨ready_of _ _ (by decide), ⟨_, by simp [immTable]; rfl⟩, by decide, ready_of _ _ (by decide), by decide, ready_of _ _ (by decide), by decide⟩
theorem witness_FloatArithmetic :
    Ready (.fdiv (fw 40 42 44 0 0x20)) (withThread thr) thr ∧ (∃ f, (Instr.fdiv (fw 40 42 44 0 0x20), f) ∈ floatTable (fw 40 42 44 0 0x20))
    ∧ Ready (.hfma2 (fw 3 4 5 6 0x98)) (withThread thr) thr ∧ thr.mid = true :=
  ⟨ready_of _ _ (by decide), ⟨_, by simp [floatTable]; rfl⟩, ready_of _ _ (by decide), by decide⟩
theorem witness_FloatApproximations :
    Ready (.frcp (fw 3 4 0 0 0)) (withThread thr) thr ∧ Ready (.frsq (fw 40 42 0 0 0x20)) (withThread thr) thr
    ∧ Ready (.fex2 (fw 40 42 0 0 0x20)) (withThread thr) thr ∧ Ready (.flg2 (fw 3 4 0 0 0)) (withThread thr) thr
    ∧ Ready (.fsin (fw 3 4 0 0 0)) (withThread thr) thr ∧ Ready (.fcos (fw 40 42 0 0 0x20)) (withThread thr) thr ∧ thr.mid = true :=
  ⟨ready_of _ _ (by decide), ready_of _ _ (by decide), ready_of _ _ (by decide), ready_of _ _ (by decide), ready_of _ _ (by decide),
    ready_of _ _ (by decide), by decide⟩
theorem witness_FloatConversions :
    Ready (.fcvt (fw 3 4 0 0 0x00)) (withThread thr) thr ∧ Ready (.f2i (fw 40 6 3 0 8)) (withThread thr) thr ∧ Ready (.i2f (fw 3 40 2 0 0)) (withThread thr) thr
    ∧ Ready (.fscale (fw 3 4 5 0 0)) (withThread thr) thr ∧ thr.mid = true :=
  ⟨ready_of _ _ (by decide), ready_of _ _ (by decide), ready_of _ _ (by decide), ready_of _ _ (by decide), by decide⟩
theorem witness_FloatComparisons :
    Ready (.fcmp (fw 0x1EF 4 5 15 0)) (withThread thr) thr ∧ Ready (.fclass (fw 3 4 0 0 0)) (withThread thr) thr ∧ Ready (.fgexp (fw 3 40 0 0 0x20)) (withThread thr) thr
    ∧ thr.mid = true := ⟨ready_of _ _ (by decide), ready_of _ _ (by decide), ready_of _ _ (by decide), by decide⟩
theorem witness_FloatCompositions :
    Ready (.fdot2 (fw 3 4 5 6 0x80)) (withThread thr) thr ∧ Ready (.qdeq (fw 20 21 0x200 22 0xA0)) (withThread thr) thr
    ∧ Ready (.fmuli (iw 3 4 0x3FC00000)) (withThread thr) thr ∧ thr.mid = true :=
  ⟨ready_of _ _ (by decide), ready_of _ _ (by decide), ready_of _ _ (by decide), by decide⟩
theorem witness_RoundingIsNearest : Fmt.f32.read 0x3FC00000 = .fin false 12582912 (-23) ∧ 0x3FC00000 < 2 ^ Fmt.f32.width
    ∧ Fmt.f32.read (roundVal Fmt.f32 .rn false 3 (-1) false).bits = .fin false 12582912 (-23) := by decide

/-! Capabilities -/

def gl (cursor : Nat) : Cap := cap 0 cursor 0 65536

theorem witness_SetBoundsDecodes : (setBounds 0x4000010000 0x30000).isSome = true ∧ 0x4000010000 < 2 ^ 64 ∧ 0x4000010000 + 0x30000 ≤ 2 ^ 64 := by decide
theorem witness_NoAuthorityGained :
    let t := thrOf [] [(16, gl 0)]
    (withThread t).cur = some t ∧ guardTrue t (Instr.cmov (xw 20 16 0 0 0)).code = true ∧ ∃ t', exec (.cmov (xw 20 16 0 0 0)) (withThread t) = .next ((withThread t).goesOn t')
      ∧ (t'.quad 20).tag = true := by
  refine ⟨rfl, by decide, thrOf [] [(16, gl 0), (20, gl 0)], by rfl, by decide⟩
theorem witness_CapabilitiesDerived :
    (let t := thrOf [(40, 0x100)] [(16, gl 0x100)]
    Ready (.cbnd (xw 20 16 40 0 1)) (withThread t) t ∧ t.mid = true ∧ ∃ p y, (Instr.cbnd (xw 20 16 40 0 1), p, y) ∈ deriveTable (xw 20 16 40 0 1) t ∧ p)
    ∧ (let t := thrOf [] [(16, (gl 0).withTag false), (20, (gl 0).withField 3 0 5)]
      Ready (.cbnd (xw 24 16 40 0 0)) (withThread t) t ∧ (t.quad 16).tag = false ∧ Ready (.cperm (xw 24 20 40 0 0)) (withThread t) t ∧ (t.quad 20).tag = true
        ∧ (t.quad 20).otype ≠ 0 ∧ Ready (.cinc (xw 24 20 40 0 0)) (withThread t) t) := by
  refine ⟨⟨ready_of _ _ (by decide), by decide, _, _, by unfold deriveTable; exact .tail _ (.tail _ (.head _)), by decide⟩,
    ready_of _ _ (by decide), by decide, ready_of _ _ (by decide), by decide, by decide, ready_of _ _ (by decide)⟩
theorem witness_CapabilitiesRead :
    let t := thrOf [(40, 12288)] [(16, gl 0x100)]
    Ready (.cget (xw 42 16 0 0 4)) (withThread t) t ∧ Ready (.cspc (xw 42 16 0 0 0)) (withThread t) t ∧ Ready (.ceq (xw 15 16 20 0 1)) (withThread t) t
    ∧ Ready (.cdif (xw 42 16 20 0 1)) (withThread t) t ∧ Ready (.crep (xw 42 40 0 0 1)) (withThread t) t ∧ (t.pair 40).toNat ≤ 12287 * 2 ^ 50
    ∧ Ready (.cclr (xw 32 0 0 0 7)) (withThread t) t ∧ t.mid = true :=
  ⟨ready_of _ _ (by decide), ready_of _ _ (by decide), ready_of _ _ (by decide), ready_of _ _ (by decide), ready_of _ _ (by decide), by decide,
    ready_of _ _ (by decide), by decide⟩

/-! Control -/

theorem witness_Branches :
    (let t := thrOf [(5, 3), (6, 2)] []
    Ready (.callx (xw 9 5 6 0 0)) (withThread t) t ∧ t.steps = false ∧ (∃ l b, (Instr.callx (xw 9 5 6 0 0), l, b) ∈ branchTable (iw 0 0 0) (xw 9 5 6 0 0) t)
      ∧ (t.reg 5).toNat < (withThread t).blocks t ∧ (withThread t).blocks t ≤ 65536 ∧ (t.reg 6).toNat < (withThread t).blocks t)
    ∧ Ready (.bra (iw 0 0 4)) (withThread thr) thr ∧ (withThread thr).blocks thr ≤ 4 := by
  refine ⟨⟨ready_of _ _ (by decide), by decide, ⟨_, _, by simp [branchTable]; exact ⟨rfl, rfl⟩⟩, by decide, by decide, by decide⟩, ready_of _ _ (by decide), by decide⟩
theorem witness_NopBrkIdleElectTrap :
    Ready (.nop (xw 0 0 0 0 0)) (withThread thr) thr ∧ Ready (.brk (xw 0 0 0 0 0x7FF)) (withThread thr) thr ∧ thr.debug = false
    ∧ Ready (.brk (xw 0 0 0 0 5)) (withThread { thr with debug := true }) { thr with debug := true }
    ∧ Ready (.idle (xw 0 0 0 0 0)) (withThread thr) thr ∧ Ready (.elect (xw 0 0 0 0 0)) (withThread thr) thr ∧ thr.mid = true
    ∧ (let s : State := { base with launches := [{ lch with handler := 2 }] }
      Ready (.trap (iw 0 0 0xFFFF)) s thr ∧ s.faultEnds thr = false)
    ∧ (let t := { thr with w0 := 1 }
      Ready (.trap (iw 0 0 1)) (withThread t) t ∧ (withThread t).faultEnds t = true ∧ t.opsDone = false)
    ∧ (Ready (.trap (iw 0 0 1)) (withThread thr) thr ∧ (withThread thr).faultEnds thr = true ∧ thr.opsDone = true ∧ thr.logDone = true
      ∧ (withThread thr).peerWritesOut thr.id = false ∧ ∀ u ∈ (withThread thr).threads, u.id ≠ thr.id) :=
  ⟨ready_of _ _ (by decide), ready_of _ _ (by decide), by decide, ready_of _ _ (by decide), ready_of _ _ (by decide), ready_of _ _ (by decide), by decide,
    ⟨ready rfl (by decide), by decide⟩, ⟨ready_of _ _ (by decide), by decide, by decide⟩, ready_of _ _ (by decide), by decide, by decide, by decide, by decide, by decide⟩
theorem witness_ReturnFromHandler :
    let t := thrOf [(5, 3), (6, 0x70003)] []
    Ready (.rti (xw 0 5 0 0 0)) (withThread t) t ∧ t.inHandler = false
    ∧ Ready (.rti (xw 0 5 0 0 0)) (withThread { t with inHandler := true }) { t with inHandler := true } ∧ (t.reg 5).toNat < (withThread t).blocks t
    ∧ Ready (.rti (xw 0 6 0 0 1)) (withThread { t with inHandler := true }) { t with inHandler := true } ∧ (t.reg 6).toNat % 65536 < (withThread t).blocks t
    ∧ (t.reg 6).toNat < 2 ^ 26 ∧ (xw 0 6 0 0 1).bit 0 = true ∧ (xw 0 5 0 0 0).bit 0 = false ∧ t.steps = false :=
  ⟨ready_of _ _ (by decide), by decide, ready_of _ _ (by decide), by decide, ready_of _ _ (by decide), by decide, by decide, by decide, by decide, by decide⟩
theorem witness_ExitEndsTheThread :
    Ready (.exitI (iw 0 0 255)) (withThread thr) thr ∧ Ready (.exitX (xw 0 5 0 0 0)) (withThread thr) thr ∧ thr.opsDone = true ∧ thr.engFault = none
    ∧ (withThread thr).peerWritesOut thr.id = false ∧ ∀ u ∈ (withThread thr).threads, u.id ≠ thr.id :=
  ⟨ready_of _ _ (by decide), ready_of _ _ (by decide), by decide, by decide, by decide, by decide⟩
theorem witness_AddressesAndTheirCheck :
    (let t := thrOf [] [(16, gl 0xFFFC)]
    (withThread t).deref t (gl 0xFFFC) { need := permLD, ea := 0xFFFC, n := 4, al := 4, lacks := false, column := false } = none
    ∧ (withThread t).deref t (gl 0xFFFC) { need := permLD, ea := 0xFFFD, n := 4, al := 1, lacks := false, column := false } = some .bounds)
    ∧ 0x86 = 0x86 := ⟨by decide, rfl⟩
/-! Memory words -/

def scr (cursor : Nat) : Cap := cap 3 (0xFD00000000000000 + cursor) 0xFD00000000000000 65536

def tScr : Thread := thrOf [(4, 4), (5, 0), (10, 7)] [(16, scr 0xFFF0), (20, gl 0xFFF0), (24, scr 0)]

theorem calm_base : Calm base := by unfold Calm; decide

theorem issuing_of {s : State} {t : Thread} (h : t.run = .train none) (g : s.groups = [grp]) : Issuing s t :=
  ⟨⟨_, h⟩, fun x hx _ _ => by rw [show x = grp by simpa [g] using hx]; simp [grp]⟩

theorem issuing_with {t : Thread} (h : t.run = .train none) : Issuing (withThread t) t := issuing_of h rfl

theorem unwritten_of {s : State} {a n : Nat} (h : s.stores = []) : Unwritten s a n := fun p hp => by rw [h] at hp; cases hp

/-- Data SRAM of the small machine can be accessed. -/
theorem settled_scr {t : Thread} {off n : Nat} (h : t.run = .train none) (hn : off + n ≤ 2 ^ 20) : Settled (withThread t) t (.sram 0 off) n :=
  ⟨issuing_with h, by rfl, by rfl, by rfl, calm_base, by show 0 < base.cus.length; decide, hn, by show Memory.wf (base.cu 0).sram = true; decide,
    by show setSorted 0 (base.cu 0).sramTags = true; decide, unwritten_of rfl⟩

theorem lands {s : State} {t : Thread} {o : OpLog} {c : Cap} {l : Loc}
    (h1 : s.deref t o.cap (s.askOf t o c) = none) (h2 : s.logPage t o = false) (h3 : t.debug = false) (h4 : s.land t o.cap.space o.ea.1.toNat o.want = .ok l) :
    Lands s t o c l := ⟨h1, h2, fun _ _ => by simp [State.watched, h3], h4⟩

theorem witness_Loads_bytes :
    let o := accessOf 0x40 (xw 8 16 0 0 0x204) tScr 9 0 0
    Ready (.ld (xw 8 16 0 0 0x204)) (withThread tScr) tScr ∧ tScr.mid = true ∧ Lands (withThread tScr) tScr o Cap.null (.sram 0 0xFFF0)
    ∧ Settled (withThread tScr) tScr (.sram 0 0xFFF0) o.width ∧ (withThread tScr).memLate = false :=
  ⟨ready_of _ _ (by decide), by decide, lands (by decide) (by decide) rfl (by decide), settled_scr rfl (by decide), rfl⟩
/-- The small machine while its memory answers late. -/
def sLate : State := { withThread tScr with memLate := true }

theorem settled_late {n : Nat} (h : n = 4 ∨ n = 16) : Settled sLate tScr (.hbm 0x1FFF0 .rc true) n :=
  ⟨issuing_with rfl, by rfl, by rfl, by rfl, calm_base, by show 0x1FFF0 + n ≤ 2 ^ 47; omega, by decide, by decide, by decide, by decide,
    by obtain rfl | rfl := h <;> decide, fun h => by cases h⟩

theorem witness_Loads_late :
    (let o := accessOf 0x40 (xw 8 20 0 0 0x204) tScr 9 0 0
    Ready (.ld (xw 8 20 0 0 0x202)) sLate tScr ∧ Lands sLate tScr (accessOf 0x40 (xw 8 20 0 0 0x202) tScr 9 0 0) Cap.null (.hbm 0x1FFF0 .rc true)
    ∧ Settled sLate tScr (.hbm 0x1FFF0 .rc true) (accessOf 0x40 (xw 8 20 0 0 0x202) tScr 9 0 0).width ∧ sLate.memLate = true
    ∧ (Loc.hbm 0x1FFF0 .rc true).kind ≠ .so ∧ o.width = 16)
    ∧ Ready (.ldc (xw 8 20 0 0 0x200)) sLate tScr ∧ Lands sLate tScr (accessOf 0x41 (xw 8 20 0 0 0x200) tScr 9 0 0) Cap.null (.hbm 0x1FFF0 .rc true)
    ∧ Settled sLate tScr (.hbm 0x1FFF0 .rc true) 16 :=
  ⟨⟨ready rfl (by decide), lands (by decide) (by decide) rfl (by decide), settled_late (by decide), rfl, by decide, by decide⟩, ready rfl (by decide),
    lands (by decide) (by decide) rfl (by decide), settled_late (by decide)⟩
theorem witness_Loads_view :
    let t := thrOf [] [(16, ((scr 0).withField 15 13 1).withField 12 8 5)]
    let w := xw 9 16 5 6 0
    Ready (.ldv w) (withThread t) t ∧ t.mid = true ∧ (t.quad 16).esize ≤ 4 ∧ viewRegOk t 9 (t.quad 16).esize = true
    ∧ (viewRegs 9 (t.quad 16).esize).any t.pending.contains = false ∧ (withThread t).flightRegs t (viewRegs 9 (t.quad 16).esize) = false
    ∧ (let o : OpLog := { logOf 0x42 w t with idx := t.reg 5, col := t.reg 6 }
      Lands (withThread t) t o Cap.null (.sram 0 0) ∧ Settled (withThread t) t (.sram 0 0) o.width) :=
  ⟨ready_of _ _ (by decide), by decide, by decide, by decide, by decide, by decide, lands (by decide) (by decide) rfl (by decide), settled_scr rfl (by decide)⟩
theorem witness_Loads_quad :
    let o := accessOf 0x41 (xw 8 16 0 0 0x200) tScr 9 0 0
    Ready (.ldc (xw 8 16 0 0 0x200)) (withThread tScr) tScr ∧ Lands (withThread tScr) tScr o Cap.null (.sram 0 0xFFF0)
    ∧ Settled (withThread tScr) tScr (.sram 0 0xFFF0) 16 :=
  ⟨ready_of _ _ (by decide), lands (by decide) (by decide) rfl (by decide), settled_scr rfl (by decide)⟩
theorem witness_Loads_absent :
    let t := thrOf [] [(16, cap 0 0x20000 0 0x40000)]
    let o := accessOf 0x40 (xw 9 16 0 0 0x202) t 9 0 0
    Ready (.ld (xw 9 16 0 0 0x202)) (withThread t) t ∧ (withThread t).deref t o.cap ((withThread t).askOf t o Cap.null) = none ∧ t.log = none ∧ t.debug = false
    ∧ (withThread t).land t o.cap.space o.ea.1.toNat .read = .absent 0x20000 ∧ (withThread t).requestsFull t.ctx.part 2 = false
    ∧ t.ctx.part < (withThread t).vfs.length := ⟨ready_of _ _ (by decide), by decide, by decide, by decide, by decide, by decide, by decide⟩
theorem witness_Stores :
    let o := accessOf 0x80 (xw 0 16 0 8 0x204) tScr 9 (BitVec.ofNat 128 (tScr.data 4 8)) 0
    Ready (.st (xw 0 16 0 8 0x204)) (withThread tScr) tScr ∧ tScr.mid = true ∧ Lands (withThread tScr) tScr o Cap.null (.sram 0 0xFFF0)
    ∧ Settled (withThread tScr) tScr (.sram 0 0xFFF0) o.width ∧ (xw 0 16 0 8 0x204).bit 5 = false :=
  ⟨ready_of _ _ (by decide), by decide, lands (by decide) (by decide) rfl (by decide), settled_scr rfl (by decide), by decide⟩
theorem witness_Stores_view :
    let t := thrOf [] [(16, ((scr 0).withField 15 13 1).withField 12 8 5)]
    let w := xw 9 16 5 6 0
    let o : OpLog := { logOf 0x82 w t with idx := t.reg 5, col := t.reg 6, data := BitVec.ofNat 128 (t.data (viewRegCount (t.quad 16).esize) 9) }
    Ready (.stv w) (withThread t) t ∧ Lands (withThread t) t o Cap.null (.sram 0 0) ∧ (t.quad 16).esize ≤ 4 ∧ viewRegOk t 9 (t.quad 16).esize = true
    ∧ (viewRegs 9 (t.quad 16).esize).any t.pending.contains = false ∧ (withThread t).flightRegs t (viewRegs 9 (t.quad 16).esize) = false
    ∧ Settled (withThread t) t (.sram 0 0) o.width :=
  ⟨ready_of _ _ (by decide), lands (by decide) (by decide) rfl (by decide), by decide, by decide, by decide, by decide, settled_scr rfl (by decide)⟩
theorem witness_Stores_quad :
    let q := tScr.quad 20
    let o : OpLog := { accessOf 0x81 (xw 0 16 0 20 0x200) tScr 9 q.bits 0 with dataTag := q.tag }
    Ready (.stc (xw 0 16 0 20 0x200)) (withThread tScr) tScr ∧ Lands (withThread tScr) tScr o q (.sram 0 0xFFF0) ∧ q.tag = true
    ∧ Settled (withThread tScr) tScr (.sram 0 0xFFF0) 16 ∧ (Loc.sram 0 0xFFF0).tagged = true :=
  ⟨ready_of _ _ (by decide), lands (by decide) (by decide) rfl (by decide), by decide, settled_scr rfl (by decide), by decide⟩
theorem witness_Atomics :
    let w := xw 8 16 5 10 0x002
    let o := accessOf 0x83 w tScr 0 (atomData w tScr 10) 0
    Ready (.atom w) (withThread tScr) tScr ∧ Lands (withThread tScr) tScr o Cap.null (.sram 0 0xFFF0)
    ∧ Settled (withThread tScr) tScr (.sram 0 0xFFF0) (64 / 8) ∧ w.bits 7 6 / 2 ≠ 1
    ∧ (withThread tScr).writesHeld (Loc.sram 0 0xFFF0).key (64 / 8) (fun p => p.thread == tScr.id) = false ∧ w.bits 5 2 < 11 :=
  ⟨ready_of _ _ (by decide), lands (by decide) (by decide) rfl (by decide), settled_scr rfl (by decide), by decide, by decide, by decide⟩
theorem witness_Atomics_released :
    let w := xw 8 16 5 10 0x0EE
    Ready (.atom w) (withThread tScr) tScr ∧ Lands (withThread tScr) tScr (accessOf 0x83 w tScr 0 (atomData w tScr 10) 0) Cap.null (.sram 0 0xFFF0)
    ∧ w.bits 7 6 / 2 = 1 ∧ (withThread tScr).orderMet tScr (w.bits 10 8 + 1) false = true ∧ 11 ≤ w.bits 5 2 :=
  ⟨ready_of _ _ (by decide), lands (by decide) (by decide) rfl (by decide), by decide, by decide, by decide⟩
theorem witness_Atomics_compare :
    let w := xw 8 16 5 12 0x002
    let o := accessOf 0x84 w tScr 0 (atomData w tScr 12) (atomData w tScr 14)
    Ready (.acas w) (withThread tScr) tScr ∧ Lands (withThread tScr) tScr o Cap.null (.sram 0 0xFFF0) :=
  ⟨ready_of _ _ (by decide), lands (by decide) (by decide) rfl (by decide)⟩
theorem witness_Atomics_quad :
    let t := thrOf [] [(16, scr 0xFFF0), (24, scr 0), (28, scr 16)]
    let w := xw 8 16 5 24 0
    let o := accessOf 0x86 w t 0 (t.quad 24).bits (t.quad 28).bits
    Ready (.acasc w) (withThread t) t ∧ Lands (withThread t) t o (t.quad 28) (.sram 0 0xFFF0) ∧ t.pageFail = none
    ∧ Settled (withThread t) t (.sram 0 0xFFF0) 16 ∧ (withThread t).writesHeld (Loc.sram 0 0xFFF0).key 16 (fun p => p.thread == t.id) = false :=
  ⟨ready_of _ _ (by decide), lands (by decide) (by decide) rfl (by decide), by decide, settled_scr rfl (by decide), by decide⟩
theorem witness_Atomics_held :
    let w := xw 0 20 5 10 0
    let o := accessOf 0x85 w tScr 0 (atomData w tScr 10) 0
    let s : State := { withThread tScr with launches := [{ lch with flags := 1 }]
                                            slices := modAt base.slices 0 (fun c => { c with own := [{ launch := 0, priv := false, base := 0, len := 65536 }] }) }
    Ready (.red w) s tScr ∧ Lands s tScr o Cap.null (.hbm 0x1FFF0 .rc true) ∧ s.launchFlag tScr 0 = true ∧ w.bits 5 2 = 0
    ∧ s.sharedLine tScr o.cap.space o.ea.1.toNat = true ∧ s.gva tScr o.cap.space o.ea.1.toNat = some 0xFFF0 :=
  ⟨ready rfl (by decide), lands (by decide) (by decide) rfl (by decide), by decide, by decide, by decide, by decide⟩
theorem witness_Monitors_wadr :
    let w := xw 9 20 0 10 0x200
    let s := withThread tScr
    Ready (.wadr w) s tScr ∧ tScr.log = none ∧ tScr.debug = false ∧ tScr.pageFail = none
    ∧ s.deref tScr (tScr.quad 20) { need := permLD + permAT, ea := 0xFFF0, n := 4, al := 4, lacks := false, column := false } = none
    ∧ s.land tScr 0 0xFFF0 .read = .ok (.hbm 0x1FFF0 .rc true) ∧ granuleOf (.hbm 0x1FFF0 .rc true) = some (.hbm 0x1FFF)
    ∧ s.canArm 0 (.hbm 0x1FFF) = true ∧ Settled s tScr (.hbm 0x1FFF0 .rc true) 4 ∧ bytesNat (peek s tScr.sees (.hbm 0x1FFF0 .rc true) 4) ≠ 7
    ∧ bytesNat (peek s tScr.sees (.hbm 0x1FFF0 .rc true) 4) = 0 ∧ tScr.cu / 4 < s.monitors.length :=
  ⟨ready_of _ _ (by decide), by decide, by decide, by decide, by decide, by decide, by decide, by decide,
    ⟨issuing_with rfl, by rfl, by rfl, by rfl, calm_base, by decide, by decide, by decide, by decide, by decide, by decide, fun h => by cases h⟩,
    by decide, by decide, by decide⟩
theorem witness_Monitors_full :
    let w := xw 9 20 0 10 0x200
    let s : State := { withThread tScr with monitors := List.replicate 48 (List.replicate 128 { granule := .hbm 0, watchers := [] }) }
    Ready (.wadr w) s tScr ∧ s.land tScr 0 0xFFF0 .read = .ok (.hbm 0x1FFF0 .rc true) ∧ granuleOf (.hbm 0x1FFF0 .rc true) = some (.hbm 0x1FFF)
    ∧ s.canArm 0 (.hbm 0x1FFF) = false
    ∧ s.deref tScr (tScr.quad 20) { need := permLD + permAT, ea := 0xFFF0, n := 4, al := 4, lacks := false, column := false } = none :=
  ⟨ready rfl (by decide), by decide, by decide, by decide +kernel, by decide⟩
theorem witness_Monitors_wake :
    let w := xw 9 20 0 5 0x200
    Ready (.wake w) (withThread tScr) tScr
    ∧ (withThread tScr).deref tScr (tScr.quad 20) { need := permLD + permAT, ea := 0xFFF0, n := 1, al := 1, lacks := false, column := false } = none
    ∧ tScr.pageFail = none ∧ (withThread tScr).land tScr 0 0xFFF0 .read = .ok (.hbm 0x1FFF0 .rc true) ∧ Issuing (withThread tScr) tScr :=
  ⟨ready_of _ _ (by decide), by decide, by decide, by decide, issuing_with rfl⟩
theorem witness_Fences :
    Ready (.pf (xw 0 20 0 0 0x200)) (withThread tScr) tScr ∧ Ready (.fence (xw 0 0 0 0 0x104)) (withThread tScr) tScr ∧ (withThread tScr).orderMet tScr 5 true = true
    ∧ (withThread tScr).seenMet tScr 5 true = true ∧ Ready (.drain (xw 0 0 0 0 2)) (withThread tScr) tScr ∧ (withThread tScr).drained tScr 2 0 = true
    ∧ (let s : State := { withThread tScr with stores := [{ thread := tScr.id, ctx := cid, cu := 0, un := false, pa := 0x10000, bytes := [1], tag := none, req := 0, grp := true, hidden := [obsFab], readers := [], hb := [tScr.id], heads := [], done := false, lead := 5, shut := true, so := false, rmw := none }] }
      Ready (.fence (xw 0 0 0 0 0x104)) s tScr ∧ s.orderMet tScr 5 true = false ∧ s.orderMet tScr 3 true = true)
    ∧ (let t := { tScr with w1 := 1 }
      let e : EngineEntry := { thread := t.id, ctr := 1, blk := 0, off := 1, op := .cpyf (.mem (gl 0) 0) 0 16, begun := false, progress := 0, page := none
                               assist := false, serial := 0, prior := [], before := [], replay := false }
      let s : State := { withThread t with contexts := [{ placedContext cid with queues := [{ cu := 0, q := 0, entries := [e] }] }], nextSerial := 1 }
      Ready (.drain (xw 0 0 0 0 2)) s t ∧ s.drained t 2 (t.mark.getD s.nextSerial) = false ∧ t.engFault = none) :=
  ⟨ready_of _ _ (by decide), ready_of _ _ (by decide), by decide, by decide, ready_of _ _ (by decide), by decide, ⟨ready rfl (by decide), by decide, by decide⟩,
    ready rfl (by decide), by decide, by decide⟩

/-! Engine words -/

theorem witness_EngineWords :
    let t := thrOf [(10, 32), (11, 1)] [(16, scr 0), (20, scr 1024)]
    (Ready (.cpy (xw 20 16 10 0 0x010)) (withThread t) t ∧ t.mid = true ∧ (withThread t).rangeCheck t (t.quad 16) permLD 32 1 = none
      ∧ (withThread t).destCheck t (xw 20 16 10 0 0x010) 32 = none ∧ CanEnqueue (withThread t) t [0] 1)
    ∧ (Ready (.cpyf (xw 20 11 12 0 0)) (withThread t) t ∧ (t.reg 12).toNat = 0 ∧ (withThread t).destCheck t (xw 20 11 12 0 0) 0 = none
      ∧ (withThread t).orderMet t 3 false = true ∧ (withThread t).orderMet t 1 false = true ∧ (withThread t).acquireHolds t .rc = false)
    ∧ (Ready (.qfen (xw 0 11 0 0 0)) (withThread t) t ∧ CanEnqueue (withThread t) t [0] 0) :=
  ⟨⟨ready_of _ _ (by decide), by decide, by decide, by decide, by decide, by decide, by decide, by decide⟩,
    ⟨ready_of _ _ (by decide), by decide, by decide, by decide, by decide⟩, ready_of _ _ (by decide), by decide, by decide, by decide, by decide⟩

/-- An operation block for the matrix engine: result type f32, both operands of a slot and a reservation. -/
def blockBytes : List Byte := List.replicate 64 0

/-- A group with a live reservation of 4,096 bytes and an allotment of weight slots. -/
def sMat (t : Thread) : State :=
  { withThread t with
    groups := [{ grp with resvs := { live := true, releasing := false, size := 4096, fmt := 255, off := 0 } :: List.replicate 15 Resv.free }]
    contexts := [{ placedContext cid with allots := [{ cu := 0, first := 0, count := 4 }] }] }

theorem witness_EngineWords_obrel :
    let t := thr
    Ready (.obrel (xw 0 5 0 0 0)) (sMat t) t ∧ ((sMat t).resvs t).getD 0 Resv.free = { live := true, releasing := false, size := 4096, fmt := 255, off := 0 }
    ∧ CanEnqueue (sMat t) t [4] 0 := ⟨ready rfl (by decide), by decide, by decide, by decide, by decide, by decide⟩
theorem witness_EngineWords_role :
    let t := { thr with role := 2 }
    Ready (.cpyf (xw 20 11 12 0 0)) (withThread t) t ∧ t.role.toNat % 4 = 2 ∧ Ready (.mzro (xw 0 5 0 0 0)) (withThread { thr with role := 0 }) { thr with role := 0 }
    ∧ Thread.role { thr with role := 0 } = 0 := ⟨ready_of _ _ (by decide), by decide, ready_of _ _ (by decide), by decide⟩
theorem witness_Tiles :
    let s : State := { withThread thr with cus := modAt base.cus 0 (fun c => { c with tiles := List.replicate 16 { owner := some cid, flags := 3, data := [] } }) }
    Ready (.mget (xw 40 5 0 0 0x04E)) s thr ∧ s.matrixDone thr 0 = true ∧ (s.tile 0 14).owner = some cid ∧ (s.tile 0 15).owner = some cid
    ∧ thr.engFault = none := ⟨ready rfl (by decide), by decide, by decide, by decide, by decide⟩
theorem witness_Reservations :
    let t := thrOf [(5, 4096), (6, 255)] []
    let g := { grp with obSize := 8192, resvs := { live := true, releasing := false, size := 256, fmt := 255, off := 0 } :: List.replicate 15 Resv.free }
    let s : State := { withThread t with groups := [g] }
    Ready (.obres (xw 9 5 6 0 0)) s t ∧ s.group 0 0 = some g ∧ g.resvs.length = 16 ∧ (g.resvs.getD 1 Resv.free).live = false
    ∧ (∀ k, k < 1 → (g.resvs.getD k Resv.free).live = true) ∧ 256 + 4096 ≤ g.obSize ∧ resvFits g.resvs 256 4096 = true
    ∧ ∀ q, q % 256 = 0 → q < 256 → resvFits g.resvs q 4096 = false :=
  ⟨ready rfl (by decide), by rfl, by decide, by decide, by decide, by decide, by decide,
    fun q h h2 => by have : q = 0 := by omega
                     subst this; decide⟩
theorem witness_EngineWords_mmo :
    let t := thrOf [] [(16, scr 0)]
    let bs : List Byte := [0, 0, 2] ++ List.replicate 61 0
    let s : State := { sMat t with cus := modAt base.cus 0 (fun c => { c with sram := memWriteN [] 0 bs }) }
    Ready (.mmo (xw 0 16 0 0 0x200)) s t ∧ peek s t.sees (.sram 0 0) 64 = bs ∧ (t.quad 16).space = 3
    ∧ s.deref t (t.quad 16) { need := permLD, ea := bracketEa (xw 0 16 0 0 0x200) t, n := 64, al := 64, lacks := false, column := false } = none
    ∧ s.land t 3 (bracketEa (xw 0 16 0 0 0x200) t).toNat .read = .ok (.sram 0 0) ∧ blockOk bs (readBlock bs) (s.allot cid 0).2 = true
    ∧ s.blockRefs t (readBlock bs) = none ∧ CanEnqueue s t [4] 0 :=
  ⟨ready rfl (by decide), by decide, by decide, by decide, by decide, by decide, by decide, by decide, by decide, by decide, by decide⟩

/-! Rings, barriers, children -/

/-- A machine whose context has handle 0, a ring of two slots at the start of the region, and handle 1, a barrier of the team. -/
def sRing (t : Thread) (cells : Mem) : State :=
  { withThread t with
    contexts := [{ placedContext cid with handles := 0x201 :: 2 :: List.replicate 62 0 }]
    cus := modAt base.cus 0 (fun c => { c with sram := cells }) }

def ring0 : Ring := { cu := 0, base := 0, slots := 2 }

/-- What a ring word's statement asks of a state of the small machine. -/
structure RingReady (w : XWord) (t : Thread) (cells : Mem) (f : RingForm) : Prop where
  mem : f ∈ ringTable w (sRing t cells) t ring0
  ready : Ready f.word (sRing t cells) t
  has : (sRing t cells).teamOf 0 0 = some team
  ring : team.ring ((sRing t cells).handle cid (w.bits 5 0)) = some ring0
  wf : Memory.wf ((sRing t cells).cu 0).sram = true
  ok : (sRing t cells).ringOk ring0 = true
  plain : t.id = thr.id ∧ (sRing t cells).launchFlag t 3 = false
  order : (sRing t cells).orderMet t 2 false = true
  flight : (sRing t cells).ownFlight t = false
  apart : (sRing t cells).stores = []
  issuing : Issuing (sRing t cells) t

theorem ringReady {w : XWord} {t : Thread} {cells : Mem} {f : RingForm} (m : f ∈ ringTable w (sRing t cells) t ring0)
    (h : (guardTrue t f.word.code && operandsOk t f.word.code && (blocked (sRing t cells) t f.word.code).isNone
      && !awaitsFlight (sRing t cells) t f.word.code && !(sRing t cells).upsets.lane && t.peerFault.isNone) = true)
    (h2 : w.bits 5 0 = 0) (h3 : (Memory.wf cells && (sRing t cells).ringOk ring0) = true) (h4 : t.run = .train none) (h5 : t.id = thr.id) : RingReady w t cells f := by
  simp only [Bool.and_eq_true] at h3
  exact ⟨m, ready rfl h, by show (sRing thr []).teamOf 0 0 = some team; rfl, by rw [h2]; show team.ring ((sRing thr []).handle cid 0) = some ring0; decide, h3.1, h3.2, ⟨h5, by rw [State.launchFlag, h5]; rfl⟩, by rfl, by rfl, rfl,
    issuing_of h4 rfl⟩

theorem witness_RingWords_push :
    ∃ f, RingReady (xw 15 5 0 0 0x40) thr [] f ∧ f.goes ∧ f.nb = some 15 ∧ f.dest = none ∧ f.rel = true :=
  ⟨_, ringReady (.head _) (by decide) (by decide) (by decide) rfl rfl, by simp; decide, by decide, rfl, rfl⟩
theorem witness_RingWords_waits :
    (∃ f, RingReady (xw 9 0 0 15 0x40) thr [] f ∧ f.waits ∧ f.nb = some 15) ∧ (∃ f o, RingReady (xw 9 0 0 0 0) thr [] f ∧ f.waits ∧ f.nb = none ∧ f.parks = some o) :=
  ⟨⟨_, ringReady (.tail _ (.head _)) (by decide) (by decide) (by decide) rfl rfl, by simp; decide, by decide⟩,
    _, _, ringReady (.tail _ (.head _)) (by decide) (by decide) (by decide) rfl rfl, by simp; decide, by decide, rfl⟩
theorem witness_RingWords_pop :
    ∃ f, RingReady (xw 9 0 0 0 0) thr [(0, 1), (1, 1), (0x10, 7), (0x14, 1)] f ∧ f.goes ∧ f.dest = some 9 ∧ f.result = 7 :=
  ⟨_, ringReady (.tail _ (.head _)) (by decide) (by decide) (by decide) rfl rfl, by simp; decide, by decide, by decide⟩
theorem witness_RingWords_acquire :
    (∃ f, RingReady (xw 9 0 0 0 0) thr [] f ∧ f.word = .stacq (xw 9 0 0 0 0) ∧ f.goes)
    ∧ (∃ f, RingReady (xw 9 0 0 0 0x80) thr [(0, 1), (1, 1), (0x10, 7), (0x14, 1)] f ∧ f.word = .stacq (xw 9 0 0 0 0x80) ∧ f.goes) :=
  ⟨⟨_, ringReady (.tail _ (.tail _ (.head _))) (by decide) (by decide) (by decide) rfl rfl, rfl, by simp; decide⟩,
    _, ringReady (.tail _ (.tail _ (.head _))) (by decide) (by decide) (by decide) rfl rfl, rfl, by simp; decide⟩
theorem witness_RingWords_release :
    (∃ f, RingReady (xw 0 5 0 0 0) thr [(0, 1), (0x14, 16)] f ∧ f.word = .strel (xw 0 5 0 0 0) ∧ f.goes)
    ∧ (∃ f, RingReady (xw 0 5 0 0 0x80) thr [(0, 1), (1, 1), (2, 1), (0x14, 17)] f ∧ f.word = .strel (xw 0 5 0 0 0x80) ∧ f.goes)
    ∧ (∃ f, RingReady (xw 0 5 0 0 0) thr [] f ∧ f.word = .strel (xw 0 5 0 0 0) ∧ f.refused)
    ∧ ∃ f, RingReady (xw 15 5 0 0 0x40) thr [(0, 1), (0x14, 16)] f ∧ f.word = .qpush (xw 15 5 0 0 0x40) ∧ f.refused :=
  ⟨⟨_, ringReady (.tail _ (.tail _ (.tail _ (.head _)))) (by decide) (by decide) (by decide) rfl rfl, rfl, by simp; decide⟩,
    ⟨_, ringReady (.tail _ (.tail _ (.tail _ (.head _)))) (by decide) (by decide) (by decide) rfl rfl, rfl, by simp; decide⟩,
    ⟨_, ringReady (.tail _ (.tail _ (.tail _ (.head _)))) (by decide) (by decide) (by decide) rfl rfl, rfl, by simp; decide⟩,
    _, ringReady (.head _) (by decide) (by decide) (by decide) rfl rfl, rfl, by simp; decide⟩
theorem witness_Barriers :
    (let u : Thread := { thr with id := { launch := 0, group := 0, num := 1 } }
    let s : State := { withThread thr with threads := [u] }
    Ready (.bar (xw 0 0 0 0 0)) s thr ∧ s.orderMet thr 1 false = true ∧ s.group 0 0 = some grp ∧ u ∈ s.threads ∧ grp.arrived.getLsbD 1 = false)
    ∧ (Ready (.bar (xw 0 0 0 0 0)) (withThread thr) thr ∧ ∀ u ∈ (withThread thr).threads, ¬(u.id.launch = 0 ∧ u.id.group = 0))
    ∧ (let s := sRing thr []
      Ready (.hbar (xw 0 0 0 0 1)) s thr ∧ hKind (s.handle cid 1) = 2 ∧ s.launchFlag thr 3 = false ∧ s.teamOf 0 0 = some team
        ∧ (∀ u ∈ s.threads, u.id ≠ thr.id) ∧ Issuing s thr) ∧ thr.id.num < 1024 :=
  ⟨⟨ready rfl (by decide), by decide, by rfl, .head _, by simp [grp]⟩, ⟨ready_of _ _ (by decide), by decide⟩,
    ⟨ready rfl (by decide), by decide, by decide, by rfl, by decide, issuing_of rfl rfl⟩, by decide⟩
theorem witness_Children_launch :
    let w := xw 9 16 0 0 0
    let t := thrOf [] [(16, scr 0)]
    let s := withThread t
    Ready (.launch w) s t ∧ t.id.num = 0 ∧ t.id.group % s.teamSize 0 = 0 ∧ s.launch 0 = some lch ∧ lch.depth < 10 ∧ s.teamOf 0 0 = some team ∧ team.freeChildren ≠ []
    ∧ Lands s t (logOf 0x06 w t) Cap.null (.sram 0 0) ∧ Settled s t (.sram 0 0) 128 ∧ (Loc.sram 0 0).tagged = true ∧ s.orderMet t 3 false = true
    ∧ reservedSet (peek s t.sees (.sram 0 0) 128) = false
    ∧ (let s2 : State := { s with cus := modAt base.cus 0 (fun c => { c with sram := [(0x47, 8), (0x60, 1)] }) }
      reservedSet (peek s2 t.sees (.sram 0 0) 128) = true) :=
  ⟨ready_of _ _ (by decide), by decide, by decide, by rfl, by decide, by rfl, by decide, lands (by decide) (by decide) rfl (by decide), settled_scr rfl (by decide),
    by decide, by decide, by decide, by decide⟩
theorem witness_Children_join :
    let t := thrOf [(5, 0xFF1F)] []
    let m := fun (r : Option Byte) => { team with children := team.children.set 31 { used := true, seq := 255, launch := 7, result := r } }
    let s := fun (r : Option Byte) => { withThread t with teams := [m r] }
    Ready (.join (xw 9 5 0 0 0)) (s (some 0)) t ∧ (s (some 0)).teamOf 0 0 = some (m (some 0)) ∧ ((m (some 0)).child 31).used = true
    ∧ (t.reg 5).toNat = 31 + 256 * ((m (some 0)).child 31).seq.toNat ∧ ((m (some 0)).child 31).result = some 0
    ∧ Ready (.join (xw 9 5 0 0 0)) (s none) t ∧ ((m none).child 31).result = none ∧ 31 < (m none).children.length :=
  ⟨ready rfl (by decide), by rfl, by decide, by decide, by decide, ready rfl (by decide), by decide, by decide⟩

/-! Counters, special registers, firmware calls -/

theorem witness_Counters :
    (Ready (.wait (xw 0 0 0 0 0x400)) (withThread thr) thr ∧ (∀ k, k < 4 → (thr.cnt k).toNat ≤ 0) ∧ (withThread thr).orderMet thr 1 true = true
      ∧ (withThread thr).seenMet thr 1 true = true)
    ∧ (let t := { thr with w3 := 255 }
      Ready (.wait (xw 0 0 0 0 0x3FE)) (withThread t) t ∧ ¬(Thread.cnt t 3).toNat ≤ 254)
    ∧ Ready (.clk (xw 62 0 0 0 1)) (withThread thr) thr ∧ (withThread thr).launch 0 = some lch ∧ (withThread thr).context cid = some (placedContext cid)
    ∧ Ready (.rds (xw 62 0 0 0 0x0A)) (withThread thr) thr ∧ Ready (.rds (xw 62 0 0 0 0x0E)) (withThread thr) thr ∧ Ready (.rds (xw 63 0 0 0 0x12)) (withThread thr) thr
    ∧ Ready (.wrs (xw 0 5 0 0 0x0C)) (withThread thr) thr ∧ Ready (.wrs (xw 0 5 0 0 0x0D)) (withThread thr) thr
    ∧ Ready (.perfcRd (xw 62 0 0 0 7)) (withThread thr) thr
    ∧ (let t := thrOf [(5, 15), (6, 16)] []
      Ready (.perfcSel (xw 0 5 0 0 15)) (withThread t) t ∧ Ready (.perfcSel (xw 0 6 0 0 15)) (withThread t) t ∧ (t.reg 5).toNat % 256 < 16
        ∧ 16 ≤ (t.reg 6).toNat % 256 ∧ ((withThread t).context cid).isSome = true) :=
  ⟨⟨ready_of _ _ (by decide), by decide, by decide⟩, ⟨ready_of _ _ (by decide), by decide⟩, ready_of _ _ (by decide), by rfl, by rfl,
    ready_of _ _ (by decide), ready_of _ _ (by decide), ready_of _ _ (by decide), ready_of _ _ (by decide), ready_of _ _ (by decide),
    ready_of _ _ (by decide), ready_of _ _ (by decide), ready_of _ _ (by decide), by decide, by decide, by decide⟩
theorem witness_FirmwareCalls :
    let t := thrOf [(5, 65), (6, 1)] [(16, gl 0xFFE0), (20, gl 0), (24, scr 0)]
    let s := withThread t
    (Ready (.syscMap (xw 0 16 0 0 1)) s t ∧ (t.quad 16).space = 0 ∧ s.orderMet t 5 false = true ∧ s.acquireHolds t .rc = false ∧ t.log = none
      ∧ s.deref t (t.quad 16) { need := permLD + permST, ea := 0xFFE0, n := 32, al := 32, lacks := false, column := false } = none)
    ∧ (Ready (.syscAlloc (xw 8 20 0 0 2)) s t ∧ (t.quad 20).tag = true ∧ (t.quad 20).otype = 0 ∧ s.colourState 0 0 = 1 ∧ s.colourState 0 1 = 0 ∧ s.tenantOf 0 = some tnt)
    ∧ (let s2 : State := { s with tenants := [{ tnt with colours := List.replicate 16 { state := 1, epoch := 0, lo := 0, hi := 65536 } }] }
      Ready (.syscAlloc (xw 8 20 0 0 2)) s2 t ∧ (∀ k, k < 16 → s2.colourState 0 k ≠ 0)
      ∧ (let t3 := thrOf [] [(20, (gl 0).withField 7 4 15)]
        let s3 : State := { s2 with cur := some t3 }
        Ready (.syscRevoke (xw 9 20 0 0 3)) s3 t3 ∧ (t3.quad 20).colour ≠ 0 ∧ (s3.colour 0 15).state = 1
          ∧ (t3.quad 20).decode = ((s3.colour 0 15).lo, (s3.colour 0 15).hi)))
    ∧ (Ready (.syscRevoke (xw 9 20 0 0 3)) s t ∧ (t.quad 20).colour = 0)
    ∧ (Ready (.syscLown (xw 9 20 5 0 4)) s t ∧ 64 < (t.reg 5).toNat)
    ∧ (Ready (.syscLown (xw 9 24 6 0 4)) s t ∧ s.rangeCheck t (t.quad 24) permLD 16 16 = none ∧ s.land t 3 (t.quad 24).cursor .read = .ok (.sram 0 0)
      ∧ t.pageFail = none ∧ lownOk (bytesNat (peek s t.sees (.sram 0 0) 8)) (bytesNat (peek s t.sees (.sram 0 8) 8)) = false
      ∧ (let s2 : State := { s with cus := modAt base.cus 0 (fun c => { c with sram := memWriteN [] 0 (natBytes 8 0x80 ++ natBytes 8 0x80) }) }
        Ready (.syscLown (xw 9 24 6 0 4)) s2 t
          ∧ lownOk (bytesNat (peek s2 t.sees (.sram 0 0) 8)) (bytesNat (peek s2 t.sees (.sram 0 8) 8)) = true)) :=
  ⟨⟨ready rfl (by decide), by decide, by decide, by decide, by decide, by decide⟩, ⟨ready rfl (by decide), by decide, by decide, by decide, by decide, by rfl⟩,
    ⟨ready rfl (by decide), by decide, ready rfl (by decide), by decide, by decide, by decide⟩, ⟨ready rfl (by decide), by decide⟩, ⟨ready rfl (by decide), by decide⟩,
    ready rfl (by decide), by decide, by decide, by decide, by decide, ready rfl (by decide), by decide⟩

/-! ## States that meet the hypotheses of the statements about events -/

/-! The selector and memory -/

def atRest (t : Thread) : State := { base with cur := none, threads := [t], trains := [] }

theorem witness_Selector_choice :
    (match (atRest { thr with run := .eligible 0 0, off := 2 }).choice 0 with
      | some (.siding p) => p.off == 2
      | _ => false) = true
    ∧ (match ({ atRest { thr with run := .platform } with
        plats := [{ cu := 0, ctx := cid, launch := 0, group := 0, blk := 1, mask := 1, stamp := 0, cursor := 0, spilled := false, passed := 0 }] } : State).choice 0 with
      | some (.low x) => x.blk == 1
      | _ => false) = true := ⟨by decide, by decide⟩
theorem witness_Selector_threads :
    (let u := { thr with run := .train (some { since := 0, cond := .ops }) }
      let s : State := { atRest u with slices := modAt base.slices 0 (fun c => { c with tenths := 6000 }) }
      s.cur = none ∧ s.thread u.id = some u ∧ 0 + 512 < s.now u.cu)
    ∧ (let u := { thr with run := .parked (.idle 0) 0 }
      (atRest u).thread u.id = some u ∧ 0 ≤ (atRest u).now u.cu)
    ∧ (let u := { thr with run := .parked (.monitor 9 (some 0)) 0 }
      (atRest u).thread u.id = some u ∧ 0 ≤ (atRest u).now u.cu ∧ u.atEnd = false ∧ 9 < u.nregs) :=
  ⟨⟨rfl, by rfl, by decide⟩, ⟨by rfl, by decide⟩, by rfl, by decide, by decide, by decide⟩

def late (gen : BitVec 16) : Flight :=
  { req := 3, thread := thr.id, part := 0, gen := gen, kind := .load 9 true, loc := .hbm 0x10020 .rc true, n := 4, blk := 0, off := 1, packet := none, answer := none, replay := false, acq := none, unsent := none }

/-- A write that has reached the CUs of its partition but not its command processor nor other packages. -/
def pend : PStore :=
  { thread := thr.id, ctx := cid, cu := 0, un := false, pa := 0x10020, bytes := [1, 2, 3, 4], tag := none, req := 5, grp := true
    hidden := [obsCmd, obsFab], readers := [], hb := [thr.id], heads := [], done := false, lead := 5, shut := true, so := false, rmw := none }

def lateCap : Flight := { late 0 with kind := .loadCap 8 true, n := 16 }

theorem lateLoad {k : Nat} {f : Flight} (h : f.req = k) (g : f.gen = ((atRest thr).part f.part).gen) (t : f.thread = thr.id) (n : ∀ pkg off, f.loc ≠ .peer pkg off) :
    LateLoad { atRest thr with flights := [f] } k f thr :=
  ⟨(fun _ h => by cases h), by simp [h], g, by rw [t]; rfl, n, (fun _ h => by cases h)⟩

theorem witness_Memory_late : LateLoad { atRest thr with flights := [late 0] } 3 (late 0) thr ∧ (late 0).n ∈ [1, 2, 4, 8, 16] ∧ 9 + ((late 0).n + 3) / 4 ≤ thr.nregs
    ∧ LateLoad { atRest thr with flights := [lateCap] } 3 lateCap thr ∧ 8 + 4 ≤ thr.nregs
    ∧ (late 7).gen ≠ (({ atRest thr with flights := [late 7] } : State).part (late 7).part).gen
    ∧ ({ atRest thr with flights := [late 7] } : State).flights.find? (fun g => g.req == 3) = some (late 7) :=
  ⟨lateLoad rfl (by decide) rfl (by simp [late]), by decide, by decide, lateLoad rfl (by decide) rfl (by simp [late, lateCap]), by decide, by decide, by rfl⟩
theorem witness_Memory_stores :
    let s : State := { atRest thr with stores := [pend] }
    s.stores[0]? = some pend ∧ pend.done = false ∧ pend.pa < 2 ^ 60 ∧ s.storeWaits pend = false
      ∧ ({ s with flights := [late 0] } : State).storeWaits pend = true
      ∧ (∀ j q, j ≠ 0 → s.stores[j]? = some q → q.done = false → pend.touches q.pa q.bytes.length = false ∧ q.lead ≠ pend.lead) :=
  ⟨by rfl, by decide, by decide, by decide, by decide, fun j q h g => by cases j <;> simp_all⟩
theorem witness_Memory_place : HasPlace { atRest thr with stores := [pend] } pend ∧ HasPlace (atRest thr) { pend with pa := 2 ^ 60 + 16 } := by
  constructor
  · simp only [HasPlace]; rw [if_pos (by decide)]; exact ⟨by decide, by decide⟩
  · simp only [HasPlace]; rw [if_neg (by decide)]; exact ⟨by decide, by decide, by decide⟩

/-! Engines -/

def entry (op : EngineOp) (progress : Nat) : EngineEntry :=
  { thread := thr.id, ctr := 0, blk := 0, off := 1, op := op, begun := 0 < progress, progress := progress, page := none, assist := false, serial := 0, prior := [], before := [], replay := false }

/-- A machine whose one thread has an operation at the head of queue `q`. -/
def sQueue (q : Nat) (e : EngineEntry) : State :=
  { atRest { thr with run := .parked (.late .ops) 0, w0 := 1 } with
    groups := (sMat thr).groups
    slices := modAt base.slices 0 (fun c => { c with copy := { c.copy with engines := [some (cid, 0, q)] } })
    contexts := [{ placedContext cid with allots := [{ cu := 0, first := 0, count := 4 }], queues := [{ cu := 0, q := q, entries := [e] }] }] }

theorem atRest_queue (q : Nat) (e : EngineEntry) : AtRest (sQueue q e) := ⟨rfl, by simp [sQueue, atRest]⟩

def tOps : Thread := { thr with run := .parked (.late .ops) 0, w0 := 1 }

theorem heads_queue {q : Nat} {e : EngineEntry} (h : (sQueue q e).headOf cid 0 q = some (e, tOps)) (l : (sQueue q e).opRevoked cid e = none) (a : e.assist = false)
    (t : e.op.tiles = []) : Heads (sQueue q e) cid 0 q e tOps := ⟨atRest_queue q e, h, l, a, by simp [t]⟩

theorem served_queue {e : EngineEntry} (h : (sQueue 0 e).headOf cid 0 0 = some (e, tOps)) (l : (sQueue 0 e).opRevoked cid e = none) (a : e.assist = false)
    (t : e.op.tiles = []) : Served (sQueue 0 e) cid 0 0 e tOps := ⟨heads_queue h l a t, by decide, .head _⟩

theorem witness_Copy_finished :
    let e := entry (.cpyf (.mem (scr 0) 0xFD00000000000000) 7 32) 1
    Served (sQueue 0 e) cid 0 0 e tOps ∧ copySteps e.op = some 1 ∧ 1 ≤ e.progress := ⟨served_queue (by rfl) (by decide) rfl rfl, rfl, by decide⟩
theorem witness_Copy_fill :
    let e := entry (.cpyf (.mem (scr 0) 0xFD00000000000000) 7 32) 0
    let s := sQueue 0 e
    Served s cid 0 0 e tOps ∧ e.progress = 0 ∧ e.prior = [] ∧ 32 ≤ 256 ∧ 0xFD00000000000000 % 65536 + 32 ≤ 65536
      ∧ s.land tOps (scr 0).space 0xFD00000000000000 .write = .ok (.sram 0 0) ∧ 0 < s.cus.length ∧ Memory.wf (s.cu 0).sram = true :=
  ⟨served_queue (by rfl) (by decide) rfl rfl, rfl, rfl, by decide, by decide, by decide, by show 0 < base.cus.length; decide, by show Memory.wf (base.cu 0).sram = true; decide⟩
theorem witness_Copy_copy :
    let e := entry (.cpy (.mem (scr 0) 0xFD00000000000000) (.mem (scr 0) 0xFD00000000000400) 32 false) 0
    let s := sQueue 0 e
    Served s cid 0 0 e tOps ∧ 0xFD00000000000400 % 65536 + 32 ≤ 65536 ∧ s.land tOps (scr 0).space 0xFD00000000000400 .read = .ok (.sram 0 0x400)
      ∧ s.land tOps (scr 0).space 0xFD00000000000000 .write = .ok (.sram 0 0) := ⟨served_queue (by rfl) (by decide) rfl rfl, by decide, by decide, by decide⟩
theorem witness_Copy_join :
    let e := entry (.join 5 1) 0
    let s := sQueue 0 e
    AtRest s ∧ s.issues cid = true ∧ e.op = .join 5 1 ∧ [0] ≠ [] ∧ (∀ p ∈ [0], p < 5 ∧ (s.queue cid 0 p).head? = some e)
      ∧ (∀ p, p < 5 → p ∉ [0] → ∀ x ∈ s.queue cid 0 p, ∀ n, x.op ≠ .join 5 n) ∧ s.thread e.thread = some tOps := by
  refine ⟨atRest_queue _ _, by decide, rfl, by decide, fun p hp => ?_, fun p hp hn x hx => ?_, by rfl⟩
  · obtain rfl : p = 0 := by simpa using hp
    exact ⟨by decide, by rfl⟩
  rw [show (sQueue 0 (entry (.join 5 1) 0)).queue cid 0 p = [] by interval_cases p <;> first | exact absurd (.head _) hn | rfl] at hx
  cases hx

/-- Matrix operations at the head, on a CU whose slots are valid and whose tiles are the context's. -/
def sTiles (e : EngineEntry) : State :=
  let own := fun (c : Cu) => { c with wslots := List.replicate 32 { WSlot.reset with valid := true }, tiles := List.replicate 16 { Tile.reset with owner := some cid } }
  { sQueue 4 e with cus := modAt base.cus 0 own }

theorem heads_tiles {e : EngineEntry} (h : (sTiles e).headOf cid 0 4 = some (e, tOps)) (l : (sTiles e).opRevoked cid e = none) (a : e.assist = false)
    (t : ∀ i ∈ e.op.tiles, ((sTiles e).tile 0 i).owner = some cid) : Heads (sTiles e) cid 0 4 e tOps := ⟨⟨rfl, by simp [sTiles, sQueue, atRest]⟩, h, l, a, t⟩

/-- A block of signed bytes that starts from zero, into tile 2. -/
def mmoBytes : List Byte := [4, 4, 7, 1, 2, 0, 0, 0] ++ List.replicate 56 0

def mmoOp : EngineOp := .mmo (scr 0) 0xFD00000000000000 mmoBytes

theorem noUpset0 {s : State} (h : s.upsets = State.reset.upsets) : NoUpset s 0 := by unfold NoUpset; rw [h]; decide

theorem witness_Matrix_wfill :
    let e := entry (.wfill 1 (.mem (scr 0) 0xFD00000000000000) 256 false) 0
    let s := sTiles e
    Heads s cid 0 4 e tOps ∧ s.soHeld e = false ∧ (scr 0).space = 3 ∧ 0xFD00000000000000 % 2 ^ 32 + 256 ≤ 2 ^ 32 ∧ s.land tOps 3 0xFD00000000000000 .read = .ok (.sram 0 0)
      ∧ (match s.readImage tOps 0 (scr 0) (cut256 18 0xFD00000000000000 256) [] with
        | .ok bs s1 => bs.length == 256 && 0 < s1.cus.length && 1 < (s1.cu 0).wslots.length
            && s1.weightPage tOps 3 0xFD00000000000000 == s1.weightPage tOps 3 0xFD000000000000FF
        | _ => false) = true
      ∧ 0 < s.cus.length ∧ (s.allot cid 0).1 + 1 < (s.cu 0).wslots.length :=
  ⟨heads_tiles (by rfl) (by decide) rfl (by decide), by decide, by decide, by decide, by decide, by decide +kernel, by decide, by decide⟩
theorem witness_Matrix_mmo :
    let e := entry mmoOp 0
    let s := sTiles e
    let p := readBlock mmoBytes
    Heads s cid 0 4 e tOps ∧ p.a ∈ [4, 5] ∧ p.b ∈ [4, 5] ∧ p.c = 7 ∧ p.flags.testBit 1 = false ∧ p.flags.testBit 2 = false
      ∧ (∀ n, n < p.n → let w := s.slotOfStep cid 0 p n; w.valid = true ∧ w.sparse = false ∧ w.cipher = false)
      ∧ p.c ≠ 3 ∧ s.slotFault cid 0 p = none ∧ s.keyMissing cid 0 p = none ∧ NoUpset s 0 :=
  ⟨heads_tiles (by rfl) (by decide) rfl (by decide), by decide, by decide, by decide, by decide, by decide, by decide, by decide, by decide, by decide, noUpset0 rfl⟩
/-- No rounding of an integer product is tiny (R302). -/
theorem product_int_tiny (s : State) (t : Thread) (c : CtxId) (cu : Nat) (p : MmoBlock) (h : p.c = 7) :
    ∀ x ∈ (s.product t c cu p).flatten, x.tiny = [] := by
  suffices g : ∀ (l : List Nat) (rows : List (List Elem)), (∀ xs ∈ rows, ∀ x ∈ xs, x.tiny = []) → ∀ xs ∈ l.foldl (fun rows step =>
      rows.mapIdx (fun i xs => stepRow p step (rowElems p (s.rowBytes t cu p step i)) (s.stepColumns c cu p step)
        (if p.b = 6 then (List.range 32).map (s.scaleByte t cu p step) else []) (if p.b = 6 then (List.range 32).map (s.superOf t cu p) else []) xs)) rows,
      ∀ x ∈ xs, x.tiny = [] by
    intro x hx
    obtain ⟨xs, h1, h2⟩ := List.mem_flatten.mp hx
    obtain ⟨ys, hy, rfl⟩ := List.mem_map.mp h1
    obtain ⟨y, hyy, rfl⟩ := List.mem_map.mp h2
    refine g (List.range p.n) _ ?_ ys hy y hyy
    simp only [List.mem_map]
    rintro _ ⟨r, -, rfl⟩ x hx
    obtain ⟨k, -, rfl⟩ := List.mem_map.mp hx
    rfl
  intro l
  induction l with
  | nil => exact fun rows h => h
  | cons a l ih =>
    refine fun rows hr => ih _ fun xs hx x hxx => ?_
    obtain ⟨i, hi, rfl⟩ := List.mem_mapIdx.mp hx
    obtain ⟨j, hj, rfl⟩ := List.mem_mapIdx.mp hxx
    simp only [h, if_true]
    exact hr _ (List.getElem_mem hi) _ (List.getElem_mem hj)
theorem witness_Matrix_mmo_tiny (s : State) :
    ∀ x ∈ (s.product tOps cid 0 (readBlock mmoBytes)).flatten, ∀ n ∈ x.tiny, n < 0 := fun x hx n hn => by
  rw [product_int_tiny s tOps cid 0 _ (by decide) x hx] at hn
  cases hn
theorem witness_Matrix_assist :
    let e := { entry mmoOp 1 with assist := true }
    ((sTiles e).queue cid 0 4).head? = some e ∧ e.assist = true := ⟨by rfl, rfl⟩
theorem witness_Matrix_mst :
    let e := entry (.mst (.ob 0 0) 2 2 128)
    Heads (sTiles (e 1024)) cid 0 4 (e 1024) tOps ∧ Heads (sTiles (e 31)) cid 0 4 (e 31) tOps ∧ (e 31).begun = true ∧ 0 < (sTiles (e 31)).cus.length
      ∧ Memory.wf ((sTiles (e 31)).cu 0).ob = true ∧ ((sTiles (e 31)).group 0 0).isSome = true
      ∧ NoUpset (sTiles (e 31)) 0 :=
  ⟨heads_tiles (by rfl) (by decide) rfl (by decide), heads_tiles (by rfl) (by decide) rfl (by decide), by decide, by decide, by decide, by decide,
    noUpset0 rfl⟩
theorem witness_Matrix_rest :
    let z := entry (.mzro 0x8001) 0
    let b := entry (.obset 0 16 [1, 2, 3, 4]) 0
    let r := entry (.obrel 0) 0
    Heads (sTiles z) cid 0 4 z tOps
      ∧ (Heads (sTiles b) cid 0 4 b tOps ∧ 0 < (sTiles b).cus.length ∧ Memory.wf ((sTiles b).cu 0).ob = true)
      ∧ (Heads (sTiles r) cid 0 4 r tOps ∧ ∃ g, (sTiles r).group 0 0 = some g ∧ 0 < g.resvs.length ∧ ∀ q, q < 4 → ∀ k ∈ (sTiles r).queue cid 0 q, k.op.intoResv 0 = false) := by
  refine ⟨heads_tiles (by rfl) (by decide) rfl (by decide), ⟨heads_tiles (by rfl) (by decide) rfl (by decide), by decide, by decide⟩, heads_tiles (by rfl) (by decide) rfl (by decide),
    _, by rfl, by decide, fun q h k hk => ?_⟩
  rw [show (sTiles (entry (.obrel 0) 0)).queue cid 0 q = [] by interval_cases q <;> rfl] at hk
  cases hk
theorem witness_Matrix_firstUse :
    let o : CtxId := { part := 0, id := 1 }
    let e := entry mmoOp 0
    let s : State := { sTiles e with contexts := (sTiles e).contexts ++ [placedContext o]
                                     cus := modAt (sTiles e).cus 0 (fun c => { c with tiles := List.replicate 16 { Tile.reset with owner := some o } }) }
    s.issues cid = true ∧ (s.tile 0 2).owner = some o ∧ o ≠ cid ∧ (s.queue cid 0 4).head? = some e ∧ 2 ∈ e.op.tiles ∧ (∀ m, e.op ≠ .mzro m) ∧ s.queue o 0 4 = []
      ∧ s.context o = some (placedContext o) ∧ (∃ y, s.context cid = some y ∧ y.tileMap.getLsbD 2 = false) :=
  ⟨by decide, by decide, by decide, by rfl, by decide, by simp [entry, mmoOp], by rfl, by rfl, _, by rfl, by decide⟩
theorem witness_Matrix_keys :
    let s : State := { base with slices := modAt base.slices 0 (fun c => { c with
      cat := modAt c.cat 2 (fun e => { e with state := 1 }), keys := modAt c.keys 2 (fun k => { k with filled := true }) }) }
    0 < s.cus.length ∧ ((s.slice 0).cat.getD 2 CatEntry.reset).state = 1 ∧ ((s.slice 0).cat.getD 2 CatEntry.reset).part < 16 ∧ 0 ∈ (s.part 0).map ∧ (s.part ((s.slice 0).cat.getD 2 CatEntry.reset).part).state ≠ 0
      ∧ 0 / 12 ∈ (s.part 0).map ∧ ((s.slice 0).keys.getD 2 KeySlot.reset).filled = true := by decide

/-! Command queues -/

/-- A running queue 0, bound to context 0, with one entry at global address 0x400, which holds `bs`. -/
def sCmd (bs : List Byte) : State :=
  { base with
    launches := [], mem := memWriteN base.mem 0x10400 bs
    vfs := { Vf.reset with enabled := true, queues := { QueueRegs.reset with bound := some 0, qbase := 0x400, qtail := 1, run := true } :: List.replicate 63 QueueRegs.reset }
      :: List.replicate 15 Vf.reset }

theorem entryAt (bs cs : List Byte) (h1 : (sCmd bs).mayRead 0 0 = true) (h2 : (sCmd bs).xlate 0 0x400 .read = .ok 0x10400 0x800000000001000F 16)
    (h3 : cs = (sCmd bs).seenBytes (fetchSees 0) 0x10400 64) : EntryAt (sCmd bs) 0 0 cs :=
  ⟨h1, by show 0x400 + 64 * (0 % 2 ^ 4) + 64 ≤ 2 ^ 56; decide, 0x10400, _, _, h2, ⟨by rfl, by rfl, fun g _ => ⟨rfl, rfl⟩⟩, h3⟩

def launchEntry : List Byte := [1] ++ List.replicate 7 0 ++ [0, 1] ++ List.replicate 54 0

def handleCmd : List Byte := [2] ++ List.replicate 7 0 ++ [5, 2, 9] ++ List.replicate 53 0

theorem witness_QueueCommands :
    EntryAt (sCmd []) 0 0 (List.replicate 64 0)
    ∧ (EntryAt (sCmd launchEntry) 0 0 launchEntry ∧ commandOf launchEntry = .launch false 0x100)
    ∧ (EntryAt (sCmd handleCmd) 0 0 handleCmd ∧ commandOf handleCmd = .handle 5 (some 0x902) ∧ (sCmd handleCmd).context cid = some (placedContext cid)
      ∧ 5 < (placedContext cid).handles.length ∧ ∀ l ∈ (sCmd handleCmd).launches, l.ctx = cid → l.phase = .waiting) :=
  ⟨entryAt _ _ (by decide) (by decide) (by decide), ⟨entryAt _ _ (by decide) (by decide) (by decide), by decide⟩, entryAt _ _ (by decide) (by decide) (by decide), by decide,
    by rfl, by decide, by simp [sCmd]⟩
theorem witness_QueueCommands_bad :
    EntryAt (sCmd [3]) 0 0 ([3] ++ List.replicate 63 0) ∧ commandOf ([3] ++ List.replicate 63 0) = .bad :=
  ⟨entryAt _ _ (by decide) (by decide) (by decide), by decide⟩
theorem witness_QueueCommands_waits :
    (let s : State := { sCmd handleCmd with launches := [lch] }
    EntryAt s 0 0 handleCmd ∧ ∃ l ∈ s.launches, l.ctx = cid ∧ l.phase ≠ .waiting)
    ∧ (let v := fun (r : QueueRegs) => { Vf.reset with enabled := true, queues := { r with handle := some (5, 0x902) } :: List.replicate 63 QueueRegs.reset }
      let s : State := { sCmd handleCmd with vfs := v { QueueRegs.reset with bound := some 0, run := true } :: List.replicate 15 Vf.reset }
      (s.qregs 0 0).handle = some (5, 0x902) ∧ s.context cid = some (placedContext cid) ∧ ∀ l ∈ s.launches, l.ctx = cid → l.phase = .waiting) :=
  ⟨⟨⟨by decide, by decide, 0x10400, 0x800000000001000F, 16, by decide, ⟨by rfl, by rfl, fun g _ => ⟨rfl, rfl⟩⟩, by decide⟩, lch, .head _, rfl, by decide⟩,
    by rfl, by rfl, by simp [sCmd]⟩
theorem witness_RegisterWrites :
    TakesWrites base 0 ∧ (base.vf 0).reqs = [] ∧ (base.vf 0).prRun = false ∧ TakesWrites (sCmd []) 0 ∧ BoundQueue (sCmd []) 0 0 ∧ ((sCmd []).qregs 0 0).run = true
    ∧ (let s : State := { base with vfs := { Vf.reset with enabled := true, tdisp := .run, queues := { QueueRegs.reset with bound := some 0 } :: List.replicate 63 QueueRegs.reset } :: List.replicate 15 Vf.reset }
      TakesWrites s 0 ∧ BoundQueue s 0 0 ∧ (s.qregs 0 0).run = false ∧ s.frozen 0 = true)
    ∧ (let r := { QueueRegs.reset with bound := some 0, stopped := true, errCode := 9 }
      let s : State := { base with vfs := { Vf.reset with enabled := true, queues := r :: List.replicate 63 QueueRegs.reset } :: List.replicate 15 Vf.reset }
      TakesWrites s 0 ∧ BoundQueue s 0 0 ∧ (s.qregs 0 0).run = false ∧ (s.qregs 0 0).stopped = true ∧ s.frozen 0 = false) :=
  ⟨⟨by decide, by decide, by decide, by decide⟩, by decide, by decide, ⟨by decide, by decide, by decide, by decide⟩, ⟨by decide, by decide, by decide⟩, by decide,
    ⟨⟨by decide, by decide, by decide, by decide⟩, ⟨by decide, by decide, by decide⟩, by decide, by decide⟩,
    ⟨by decide, by decide, by decide, by decide⟩, ⟨by decide, by decide, by decide⟩, by decide, by decide, by decide⟩

/-! Page replies and launches -/

def pageLog (page : Nat) : OpLog := { logOf 0x40 (xw 9 16 0 0 0x202) thr with page := page }

/-- A request for page 2 is outstanding; a train waits for it, or a thread has a logged access to it. -/
def sPage (t : Thread) (va : Option Nat) : State :=
  { base with cur := none, threads := [t], trains := [{ train with page := va }]
              vfs := { Vf.reset with enabled := true, reqs := [{ page := 2, id := 7, ctx := 0, kinds := 1, written := true, beat := none, joined := false }] } :: List.replicate 15 Vf.reset }

theorem onlyTrainsWait (t : Thread) (va : Option Nat) (h : ∀ st, t.run ≠ .exiting st) : OnlyTrainsWait (sPage t va) 0 2 :=
  ⟨⟨rfl, by simpa [sPage] using h⟩, rfl, rfl, rfl, by simp [sPage, base, lch, placedLaunch, Launch.fresh], by
    simp [sPage, State.vf, Vf.reset, QueueRegs.reset]⟩

theorem witness_PageReplies :
    TakesWrites base 0 ∧ (∀ x ∈ (base.vf 0).reqs, x.id ≠ 7) ∧ (∀ x ∈ (base.vf 0).reqs, x.written = true)
    ∧ (let s := sPage thr (some 0x20000)
      TakesWrites s 0 ∧ (0 : BitVec 16) = (s.part 0).gen ∧ s.loggedOn 0 2 = []
        ∧ ∃ r, (s.vf 0).reqs.find? (fun x => x.id == 7) = some r ∧ OnlyTrainsWait s 0 r.page)
    ∧ (let t := { thr with log := some (pageLog 2) }
      let s := sPage t none
      TakesWrites s 0 ∧ (∀ x ∈ s.trains, x.page = none) ∧ t ∈ s.threads ∧ (∀ u ∈ s.threads, u.id = t.id → u = t) ∧ t.ctx.part = 0 ∧ (pageLog 2).failed = none
        ∧ t.run = .train none ∧ ∃ r, (s.vf 0).reqs.find? (fun x => x.id == 7) = some r ∧ OnlyTrainsWait s 0 r.page ∧ (pageLog 2).page = r.page) :=
  ⟨⟨by decide, by decide, by decide, by decide⟩, by decide, by decide,
    ⟨⟨by decide, by decide, by decide, by decide⟩, by decide, by decide, _, by rfl, onlyTrainsWait _ _ (fun _ h => by cases h)⟩,
    ⟨by decide, by decide, by decide, by decide⟩, by simp [sPage, train], .head _, by simp [sPage], rfl, rfl, rfl, _, by rfl,
    onlyTrainsWait _ _ (fun _ h => by cases h), rfl⟩

def capBytes (c : Cap) : List Byte := natBytes 16 c.bits.toNat

/-- A descriptor at 0x100 of one group of one thread, its code object at 0x200, constants at 0x800, record at 0x900, no arguments. -/
def descBytes : List Byte :=
  capBytes (cap spcCode 0x200 0x200 64) ++ capBytes (cap 0 0x800 0x800 256) ++ capBytes (cap 0 0x900 0x900 32) ++ capBytes (cap 0 0x900 0x900 0)
    ++ natBytes 4 1 ++ natBytes 2 1 ++ [1, 0] ++ natBytes 2 64 ++ natBytes 2 0 ++ natBytes 2 0 ++ natBytes 2 0xFFFF ++ natBytes 4 0 ++ [0, 0, 0, 0] ++ natBytes 8 99
    ++ List.replicate 32 0

def waitingLaunch (desc : Word64) : Launch := { lch with phase := .waiting, groups := 0, tpg := 0, descVa := desc }

/-- A launch waits; its context holds roots for global memory and code. -/
def sStart (desc : Word64) : State :=
  { base with
    cur := none, groups := [], teams := [], trains := [], launches := [waitingLaunch desc]
    contexts := [{ placedContext cid with roots := List.replicate 8 (cap 0 0 0 65536) |>.set spcCode (cap spcCode 0 0 65536) }]
    mem := memWriteN (memWriteN base.mem 0x10100 descBytes) 0x10200 (natBytes 4 1 ++ natBytes 4 0x18) }

/-- A child launch whose descriptor's 128 bytes and quads have been read. -/
def childLaunch : Launch :=
  { lch with phase := .waiting, origin := .child 9 0 0, groups := 0, tpg := 0, desc := descBytes
             quads := [cap spcCode 0x200 0x200 64, cap 0 0x800 0x800 256, cap 0 0x900 0x900 32, cap 0 0x900 0x900 0] }

def sChild : State := { sStart 0x100 with launches := [childLaunch] }

theorem child_page (a : Nat) (h : a < 65536) : sChild.xlate 0 a .read = .ok (0x10000 + a) 0x800000000001000F 16 := by
  have k : a / 2 ^ 39 = 0 ∧ a / 2 ^ 30 = 0 ∧ a / 2 ^ 21 = 0 ∧ a / 2 ^ 16 = 0 := by omega
  have w : sChild.walk 0 a = .leaf 0x800000000001000F 16 := by
    have z : sChild.walk 0 a = sChild.walk 0 0 := by
      simp only [State.walk, walkLevels, State.walkFrom, k, Nat.zero_div]
    rw [z]; decide +kernel
  have e : entryAddr 0x800000000001000F = 0x10000 := by decide
  have f : (65536 + a) / 65536 = 1 := by omega
  have o : sChild.ownsFrame 0 1 = true := by decide
  simp only [State.xlate, State.xlateBy, State.reach, w, e, Nat.mod_eq_of_lt (show a < 2 ^ 16 from h), f, o]
  rfl

theorem child_reads (a n : Nat) (h : a + n ≤ 65536) : CmdReads sChild 0 a n (fun i => 0x10000 + a + i) :=
  ⟨by omega, fun i hi => ⟨⟨_, _, by rw [child_page (a + i) (by omega), Nat.add_assoc]⟩, by
    have f : (0x10000 + a + i) / 65536 = 1 := by omega
    have g : sliceOfPa (0x10000 + a + i) = sliceOfPa 0x10000 := by unfold sliceOfPa; omega
    exact ⟨by rw [f]; decide, by rw [g]; decide, fun g _ => ⟨rfl, rfl⟩⟩⟩⟩

theorem reads_of {a n b m : Nat} {pc : Nat → Nat} (h : CmdReads sChild 0 b m pc) (ha : a = b) (hn : n = m) : CmdReads sChild 0 a n pc := by rw [ha, hn]; exact h

theorem witness_LaunchEvents_child :
    Startable sChild childLaunch (fun i => 0x10000 + 0x200 + i) (fun i => 0x10000 + 0x804 + i) (fun i => 0x10000 + 0x900 + i) where
  child := ⟨9, 0, 0, rfl⟩
  free := by decide +kernel
  others := by decide +kernel
  caps := by unfold Usable; decide +kernel
  code := ⟨reads_of (child_reads 0x200 20 (by decide)) (by decide +kernel) (by decide +kernel), by decide +kernel⟩
  consts := ⟨by decide +kernel, by decide +kernel, reads_of (child_reads 0x804 252 (by decide)) (by decide +kernel) rfl⟩
  record := by decide +kernel
  args := ⟨by decide +kernel, by decide +kernel, reads_of (child_reads 0x900 0 (by decide)) (by decide +kernel) (by decide +kernel)⟩
  fields := by decide +kernel
theorem witness_LaunchEvents_childListed : sChild.launch childLaunch.uid = some childLaunch := by rfl

theorem witness_LaunchEvents_start :
    (sStart 0x100).launch 0 = some (waitingLaunch 0x100) ∧ (sStart 0x100).mayStart (waitingLaunch 0x100) = true
    ∧ (match (sStart 0x100).readLaunch (waitingLaunch 0x100) with
      | .go x s1 => x.uid == 0 && (s1.launch 0).isSome && x.flags == 0 && x.groups == 1 && x.ltag == 99
      | _ => false) = true := ⟨by rfl, by decide, by decide +kernel⟩
theorem witness_LaunchEvents_refused :
    (sStart 0x3000).launch 0 = some (waitingLaunch 0x3000) ∧ (sStart 0x3000).mayStart (waitingLaunch 0x3000) = true
    ∧ (match (sStart 0x3000).readLaunch (waitingLaunch 0x3000) with
      | .refuse code s1 => code == 0x03 && 0 < s1.vfs.length && 0 < (s1.vf 0).queues.length
      | _ => false) = true := ⟨by rfl, by decide, by decide +kernel⟩
theorem witness_LaunchEvents_team :
    let k := { lch with teams := 0 }
    let s : State := { base with cur := none, launches := [k], groups := [], teams := [], trains := [] }
    s.launch 0 = some k ∧ k.phase = .running ∧ s.issues k.ctx = true ∧ (s.part k.ctx.part).state = 1 ∧ k.teams * k.teamSize < k.groups ∧ s.placeOk k [0] = true
      ∧ ∀ p ∈ s.stores, p.done = true ∨ HasPlace s p := ⟨by rfl, by decide, by decide, by decide, by decide, by decide, (fun _ h => by cases h)⟩
theorem witness_LaunchEvents_record :
    let k := { lch with count := 1, record := cap 0 0x900 0x900 32 }
    let s : State := { base with cur := none, launches := [k] }
    s.launch 0 = some k ∧ k.uid = 0 ∧ k.phase = .running ∧ k.page = none ∧ s.allDone k = true ∧ k.reds = [] ∧ s.stores = [] ∧ k.record.tag = true
      ∧ s.colourState k.ctx.part k.record.colour = 1 ∧ k.record.space = 0 ∧ k.record.cursor % 32 = 0
      ∧ s.xlate k.ctx.part k.record.cursor .write = .ok 0x10900 0x800000000001000F 16 ∧ Sound s (0x10900 / 64 * 64) 64
      ∧ Memory.wf s.mem = true ∧ (∀ c ∈ s.slices, c.retire = []) :=
  ⟨by rfl, rfl, by decide, by decide, by decide, by decide, rfl, by decide, by decide, by decide, by decide, by decide, ⟨by rfl, by rfl, fun _ _ => ⟨rfl, rfl⟩⟩, by decide, by decide⟩

/-! Firmware -/

/-- A host's mailbox call on the record at 0x500, which holds `bs`. -/
def hostCall : Call := { caller := none, addr := 0x500, status := none, kept := [], manifest := [] }

def sFirm (bs : List Byte) (cat : CatEntry) : State :=
  { base with
    cur := none, threads := [], mem := memWriteN base.mem 0x10500 bs
    slices := modAt base.slices 0 (fun c => { c with cat := modAt c.cat 2 (fun _ => cat) })
    vfs := { Vf.reset with enabled := true, mapCalls := [hostCall], catCalls := [hostCall] } :: List.replicate 15 Vf.reset }

theorem recordOf (bs cs : List Byte) (cat : CatEntry) (h0 : Memory.wf (sFirm bs cat).mem = true)
    (h1 : (sFirm bs cat).xlate 0 0x500 .write = .ok 0x10500 0x800000000001000F 16) (h2 : cs = memReadN (sFirm bs cat).mem 0x10500 32) :
    RecordOf (sFirm bs cat) 0 hostCall 0x10500 cs :=
  ⟨⟨rfl, rfl, rfl, h0⟩, rfl, rfl, by decide, ⟨_, _, h1⟩, ⟨by rfl, by rfl, fun g _ => ⟨rfl, rfl⟩⟩, h2⟩

def catBytes (fn : Byte) : List Byte := [fn, 0, 0, 2] ++ List.replicate 28 0

theorem witness_Firmware_map :
    (∀ fn : Byte, fn ∈ [1, 2, 3] → RecordOf (sFirm ([fn] ++ List.replicate 31 0) CatEntry.reset) 0 hostCall 0x10500 ([fn] ++ List.replicate 31 0))
    ∧ (sFirm [] CatEntry.reset).mapCall 0 = some hostCall ∧ (mapRecord ([2] ++ List.replicate 31 0)).fn = 2 := by
  refine ⟨fun fn h => ?_, by rfl, by decide⟩
  simp only [List.mem_cons, List.not_mem_nil, or_false] at h
  obtain rfl | rfl | rfl := h <;> exact recordOf _ _ _ (by decide) (by decide) (by decide)
theorem witness_Firmware_cat :
    let e := { CatEntry.reset with state := 1 }
    (sFirm [] e).catCall 0 = some hostCall ∧ RecordOf (sFirm (catBytes 2) e) 0 hostCall 0x10500 (catBytes 2) ∧ RecordOf (sFirm (catBytes 3) e) 0 hostCall 0x10500 (catBytes 3)
      ∧ RecordOf (sFirm (catBytes 4) e) 0 hostCall 0x10500 (catBytes 4) ∧ (catRecord (catBytes 2)).ok 1 = true ∧ (catRecord (catBytes 4)).ok 1 = true
      ∧ ((sFirm (catBytes 4) e).part 0).n = 1 ∧ (catRecord (catBytes 4)).entry = 2
      ∧ ((sFirm (catBytes 4) e).slice (((sFirm (catBytes 4) e).part 0).map.getD 0 0)).cat.getD 2 CatEntry.reset = e ∧ e.part = 0 :=
  ⟨by rfl, recordOf _ _ _ (by decide) (by decide) (by decide), recordOf _ _ _ (by decide) (by decide) (by decide), recordOf _ _ _ (by decide) (by decide) (by decide),
    by decide, by decide, by decide, by decide, by decide, by decide⟩
/-- A mapping record for the page at 0x20000: of the first frame granted, readable and writable. -/
def mapBytes (fn : Byte) : List Byte := [fn, 0, 12, 0] ++ natBytes 4 0 ++ natBytes 8 0x20000 ++ natBytes 8 0x10000 ++ natBytes 8 0

/-- The same machine, whose partition has been granted frame 1; the page at 0x20000 is mapped to it or not. -/
def sMap (fn : Byte) (leaf : Nat) : State :=
  { sFirm (mapBytes fn) CatEntry.reset with
    parts := { Partition.reset with state := 1, map := [0], grants := [1] } :: List.replicate 15 Partition.reset
    mem := memWriteN (memWriteN base.mem 0x10500 (mapBytes fn)) 0x3010 (natBytes 8 leaf) }

theorem witness_Firmware_page :
    OnePage (mapRecord (mapBytes 1))
    ∧ (let s := sMap 1 0
      RecordOf s 0 hostCall 0x10500 (mapBytes 1) ∧ TablesApart s 0 0x20000 0x10500 (2 ^ 40) ∧ (s.part 0).grants[(mapRecord (mapBytes 1)).lfn]? = some 1
        ∧ (s.frame 1).state = 1 ∧ (s.frame 1).part = 0 ∧ 1 ∉ (s.part 0).staging ∧ s.walk 0 0x20000 = .absent ∧ (s.path 0 0x20000).length = 4)
    ∧ (let s := sMap 2 0x1000F
      RecordOf s 0 hostCall 0x10500 (mapBytes 2) ∧ TablesApart s 0 0x20000 0x10500 (2 ^ 40) ∧ s.walk 0 0x20000 = .leaf 0x1000F 16)
    ∧ (let s := sMap 3 0x1008F
      RecordOf s 0 hostCall 0x10500 (mapBytes 3) ∧ TablesApart s 0 0x20000 0x10500 (2 ^ 40) ∧ s.walk 0 0x20000 = .leaf 0x1008F 16 ∧ entryE 0x1008F = true) := by
  have record : ∀ (fn : Byte) (leaf : Nat), Memory.wf (sMap fn leaf).mem = true → (sMap fn leaf).xlate 0 0x500 .write = .ok 0x10500 0x800000000001000F 16 →
      mapBytes fn = memReadN (sMap fn leaf).mem 0x10500 32 → RecordOf (sMap fn leaf) 0 hostCall 0x10500 (mapBytes fn) :=
    fun fn leaf h0 h1 h2 => ⟨⟨rfl, rfl, rfl, h0⟩, rfl, rfl, by decide, ⟨_, _, h1⟩, ⟨by rfl, by rfl, fun g _ => ⟨rfl, rfl⟩⟩, h2⟩
  exact ⟨⟨by decide, by decide⟩, ⟨record _ _ (by decide) (by decide) (by decide), ⟨by decide, by decide, by decide⟩, by decide, by decide, by decide, by decide, by decide, by decide⟩,
    ⟨record _ _ (by decide) (by decide) (by decide), ⟨by decide, by decide, by decide⟩, by decide⟩,
    record _ _ (by decide) (by decide) (by decide), ⟨by decide, by decide, by decide⟩, by decide, by decide⟩

/-- A LOAD's record, and its slice's catalogue. Whether its manifest's signature verifies and its digests match is `Config`'s, of which nothing
concrete is provable. -/
theorem witness_Firmware_load :
    let e := CatEntry.reset
    let bs := [1] ++ List.replicate 31 0
    let c := (sFirm bs e).slice 0
    (sFirm bs e).catCall 0 = some hostCall ∧ RecordOf (sFirm bs e) 0 hostCall 0x10500 bs ∧ (catRecord bs).ok 1 = true ∧ (catRecord bs).fn = 1
    ∧ (sFirm bs e).tenantOf 0 = some tnt ∧ 0 < (sFirm bs e).slices.length ∧ 0 < c.cat.length ∧ 0 < c.keys.length ∧ (∀ x ∈ c.cat, x.state ≠ 2)
    ∧ (c.cat.getD 0 CatEntry.reset).state = 0 ∧ (sFirm bs e).walk 0 0x40000 = .absent :=
  ⟨by rfl, recordOf _ _ _ (by decide) (by decide) (by decide), by decide, by decide, by rfl, by decide, by decide, by decide, by decide, by decide, by decide⟩

def sNoFrames : State := { base with cur := none, threads := [], frames := [] }

theorem witness_Firmware_frames :
    ((sNoFrames.part 0).state ≠ 0 ∧ (sNoFrames.slice 0).retire = [] ∧ ∀ g, g / 2 ^ 21 = 0 → g % 2 ^ 21 < 1300480 → (sNoFrames.frame g).state = 0)
    ∧ (let s : State := { base with cur := none, threads := [] }
      (s.frame 1).state = 1 ∧ Settled0 s (s.frame 1).part ∧ ∀ g, g / 4096 = 1 → setHas s.poison g = false ∧ s.eccAt g = none)
    ∧ (let s : State := { base with cur := none, frames := [(1, { state := 1, scrub := true, lent := false, part := 0, seq := 0 })] }
      (s.part 0).state ≠ 0 ∧ (s.frame 1).scrub = true
        ∧ ∀ f, 1 ≤ f → f < 1 + 1 → (s.frame f).state = 1 ∧ (s.frame f).part = 0 ∧ ∀ c ∈ s.ecc, c.1 / 4096 = f → c.2 ≠ .uncorrectable) :=
  ⟨⟨by decide, by decide, fun g _ _ => by simp [sNoFrames, State.frame, base, State.reset, kvGet, Frame.fresh]⟩, ⟨by decide, ⟨rfl, rfl, rfl, by decide⟩, fun _ _ => ⟨rfl, rfl⟩⟩, by decide, by decide,
    fun f h1 h2 => by obtain rfl : f = 1 := by omega
                      exact ⟨by decide, by decide, fun _ h => by cases h⟩⟩

/-! Accesses from outside -/

theorem onePiece {s : State} {part : Nat} {w : Want} {va n pa : Nat} {e : BitVec 64} {k : Nat} (h : s.xlate part va w = .ok pa e k) (b : 0 < n ∧ va % 256 + n ≤ 256)
    (h1 : (s.frame (pa / 65536)).scrub = false) (h2 : s.poison = []) (h3 : s.ecc = []) (h4 : (s.slice (sliceOfPa pa)).held = false) : OnePiece s part w va n pa :=
  ⟨b, ⟨e, k, h⟩, h1, h4, fun g _ => by simp [setHas, State.eccAt, kvGet, h2, h3]⟩

/-- Function 5 of the virtual function may translate, and holds page 0. -/
def sAgent : State :=
  { base with vfs := { Vf.reset with enabled := true, ats := [{ fn := 5, enabled := true, cached := [0], waiting := none }] } :: List.replicate 15 Vf.reset }

/-- An access at address 0x40 over a link, of the host or as a function has translated it. -/
def hostAt (link : Nat) (fn : Option Nat) : HostAddr := { link := link, fn := fn, va := 0x40 }

theorem witness_OutsideAccesses_host :
    TakesAccess base 0 (hostAt 0 none) ∧ TakesAccess sAgent 0 (hostAt 0 (some 5)) ∧ OnePiece base 0 .read 0x40 8 0x10040 ∧ OnePiece base 0 .write 0x40 2 0x10040
    ∧ OnePiece sAgent 0 .write 0x40 8 0x10040 ∧ base.stores = [] ∧ Memory.wf base.mem = true
    ∧ (base.linkSecure (hostAt 0 none).link = true ∧ (base.vf 3).enabled = false ∧ (base.vf 3).gen = (base.part 3).gen ∧ FirstAccess base 3 (hostAt 0 none))
    ∧ base.linkSecure (hostAt 1 none).link = false :=
  ⟨⟨by decide, by decide, by decide, by decide, by decide, (fun _ h => by cases h), fun _ h => by cases h⟩,
    ⟨by decide, by decide, by decide, by decide, by decide, (fun _ h => by cases h), fun f h => by
      obtain rfl : 5 = f := by simpa [hostAt] using h
      decide⟩,
    onePiece (e := 0x800000000001000F) (k := 16) (by decide) (by decide) (by decide) rfl rfl (by decide),
    onePiece (e := 0x800000000001000F) (k := 16) (by decide) (by decide) (by decide) rfl rfl (by decide),
    onePiece (e := 0x800000000001000F) (k := 16) (by decide) (by decide) (by decide) rfl rfl (by decide), rfl, by decide,
    ⟨by decide, by decide, by decide, fun _ h => by cases h⟩, by decide⟩
theorem witness_OutsideAccesses_ats :
    let a : Ats := { fn := 5, enabled := true, cached := [], waiting := some 0 }
    let s : State := { base with vfs := { Vf.reset with enabled := true, ats := [a] } :: List.replicate 15 Vf.reset, time := 1000000 }
    0 < s.vfs.length ∧ (s.vf 0).enabled = true ∧ (s.vf 0).tdisp ≠ .error ∧ ((s.vf 0).atsOf 5).enabled = true ∧ s.xlate 0 0x40 .read = .ok 0x10040 0x800000000001000F 16
      ∧ (s.vf 0).ats.find? (·.fn == 5) = some a ∧ a.waiting = some 0 ∧ 0 + 1000000 ≤ s.time := by decide

def packet : PeerPacket := { src := 3, srcPart := 0, cu := 1, fabric := 0, part := 0, gen := 0, seq := 0, home := none, off := 0x40, op := .read 8 false, port := 0 }

def sPeer : State :=
  { base with ports := List.replicate 12 (some 5)
              parts := { Partition.reset with state := 1, map := [0], reach := [(3, 0xFFFFFFFF#32)] } :: List.replicate 15 Partition.reset }

theorem witness_OutsideAccesses_peer :
    let p := { packet with op := .write [1, 2, 3, 4] none false }
    sPeer.portOpen packet.port = true ∧ sPeer.stalePeer packet.src packet.srcPart packet.gen = false ∧ packet.seq = (sPeer.inFlow packet).next
      ∧ (sPeer.inFlow packet).early = [] ∧ sPeer.peerAccepts packet = true ∧ OnePiece sPeer packet.part .read packet.off 8 0x10040
      ∧ sPeer.peerAccepts p = true ∧ OnePiece sPeer p.part .write p.off 4 0x10040 ∧ sPeer.stores = [] ∧ Memory.wf sPeer.mem = true :=
  ⟨by decide, by decide, by decide, by decide, by decide,
    onePiece (e := 0x800000000001000F) (k := 16) (by decide) (by decide) (by decide) rfl rfl (by decide), by decide,
    onePiece (e := 0x800000000001000F) (k := 16) (by decide) (by decide) (by decide) rfl rfl (by decide), rfl, by decide⟩
/-- The answer of four bytes to the packet. -/
def reply0 : PeerReply := { pkg := 3, part := 0, cu := 1, seq := 0, home := none, gen := 0, port := 0, result := .data [1, 2, 3, 4] [] }

/-- A thread waits for a peer access, or has a late load of another package's memory in flight. -/
def sReply (k : FlightKind) : State :=
  { sPeer with cur := none, threads := [thr], flights := [{ late 0 with kind := k, loc := .peer 3 0x40, packet := some packet }] }

theorem witness_OutsideAccesses_reply :
    let f : FlightKind → Flight := fun k => { late 0 with kind := k, loc := .peer 3 0x40, packet := some packet }
    (∀ k, (sReply k).portOpen reply0.port = true ∧ reply0.gen = ((sReply k).part reply0.part).gen ∧ f k ∈ (sReply k).flights ∧ (f k).part = reply0.part ∧ (f k).answer = none
        ∧ (f k).packet = some packet ∧ packet.cu = reply0.cu ∧ packet.seq = reply0.seq ∧ packet.home = reply0.home ∧ (f k).loc = .peer reply0.pkg 0x40
        ∧ ∀ u ∈ (sReply k).threads, ∀ st, u.run ≠ .exiting st)
      ∧ ((f .peer).loose = false ∧ ∀ g ∈ (sReply .peer).flights, g.loose = false)
      ∧ (let k := FlightKind.load 9 true
        (sReply k).thread (f k).thread = some thr ∧ (f k).loose = true ∧ (∀ g ∈ (sReply k).flights, g ≠ f k → g.packet ≠ some packet)
        ∧ (∀ g ∈ (sReply k).flights, ∀ x, g.packet = some x → x.cu = packet.cu → x.seq = packet.seq → x.home = packet.home → x = packet)
        ∧ (f k).share reply0.result = .data [1, 2, 3, 4] [])
      ∧ ({ reply0 with gen := 1 } : PeerReply).gen ≠ (sPeer.part 0).gen ∧ base.portOpen 0 = false := by
  refine ⟨fun k => ⟨(by decide : sPeer.portOpen reply0.port = true), (by decide : reply0.gen = (sPeer.part 0).gen), .head _, rfl, rfl, rfl, rfl, rfl, rfl, rfl, ?_⟩, ⟨by decide, by decide⟩, ⟨by rfl, by decide, ?_, ?_, by decide⟩, by decide, by decide⟩
  · intro u hu st
    obtain rfl : u = thr := by simpa [sReply] using hu
    exact fun h => by cases h
  · intro g hg hn
    exact absurd (by simpa [sReply] using hg) hn
  · intro g hg x hx _ _ _
    obtain rfl := List.mem_singleton.mp hg
    exact (Option.some.inj hx).symm

/-! Revocation and slices -/

def sRev (st : Nat) (v : List Revocation) : State :=
  { base with trains := [], tenants := [{ tnt with colours := tnt.colours.set 3 { state := st, epoch := 0, lo := 0, hi := 0 }, revs := v }] }

def revAt (p : RevPhase) : State := sRev 2 [{ colour := 3, phase := p, caller := none }]

theorem witness_RevocationEvents :
    (∃ n, (sRev 1 []).tenant 0 = some n ∧ 0 < 3 ∧ 3 < n.colours.length ∧ (sRev 1 []).revOf 0 3 = none ∧ (sRev 1 []).trains = [])
    ∧ (∃ v, (revAt (.marking [7] false)).revOf 0 3 = some v ∧ v.phase = .marking [7] false)
    ∧ (∃ v n, (revAt (.marking [] true)).revOf 0 3 = some v ∧ v.phase = .marking [] true ∧ (revAt (.marking [] true)).tenant 0 = some n)
    ∧ (∃ v, (revAt (.sweeping [7] false)).revOf 0 3 = some v ∧ v.phase = .sweeping [7] false ∧ [7] ≠ [] ∧ (revAt (.sweeping [7] false)).trains = []
      ∧ ∀ c ∈ (revAt (.sweeping [7] false)).contexts, ∀ q ∈ c.queues, q.entries = [])
    ∧ (sRev 2 []).stores = []
    ∧ (∃ v n, (revAt (.sweeping [7] true)).revOf 0 3 = some v ∧ v.phase = .sweeping [7] true ∧ v.caller = none
      ∧ (revAt (.sweeping [7] true)).tenant 0 = some n ∧ 3 < n.colours.length) :=
  ⟨⟨_, by rfl, by decide, by decide, by rfl, rfl⟩, ⟨_, by rfl, rfl⟩, ⟨_, _, by rfl, rfl, by rfl⟩, ⟨_, by rfl, rfl, by decide, rfl, by decide⟩, rfl,
    _, _, by rfl, rfl, rfl, by rfl, by decide⟩
theorem witness_SliceEvents :
    base.slices.length = 16 ∧ (base.slice 0).powered = true ∧ (base.slice 0).held = false
    ∧ (let s : State := { base with time := 4000 }
      (kvGet (s.slice 0).windows 5).getD 0 + 4000 ≤ s.time)
    ∧ 100 + ((((base.slice 0).arb.filter (fun a => !(a.chan == 3 && a.part == 0))).filter (·.chan == 3)).map (·.floor)).sum ≤ 10800
    ∧ 0 < (base.slice 0).ways.length ∧ 5 < base.cus.length ∧ base.groupsOn 5 = []
    ∧ ((base.part 0).state ≠ 0 ∧ 0 ∈ (base.part 0).map ∧ ∀ q, q < 0 → (base.part q).state = 0 ∨ 0 ∉ (base.part q).map)
    ∧ ((300 : BitVec 16) ∈ (List.range 3).map (fun j => base.sensors.die.getD (3 * 0 + j) 0) ∧ (∀ j, j < 3 → (base.sensors.die.getD (3 * 0 + j) 0).toInt ≤ (300 : BitVec 16).toInt)
      ∧ (300 : BitVec 16).toInt ≤ 840 ∧ (base.slice 0).sampled.getD 0 + 100000 ≤ ({ base with time := 100000 } : State).time)
    ∧ (let s : State := { base with time := 100000, sensors := { base.sensors with die := 900 :: List.replicate 47 300 } }
      (900 : BitVec 16) ∈ (List.range 3).map (fun j => s.sensors.die.getD (3 * 0 + j) 0) ∧ (∀ j, j < 3 → (s.sensors.die.getD (3 * 0 + j) 0).toInt ≤ (900 : BitVec 16).toInt)
        ∧ 840 < (900 : BitVec 16).toInt)
    ∧ (let s : State := { base with time := 1000000, sensors := { base.sensors with power := 2500 } }
      s.curator.stepped + 1000000 ≤ s.time ∧ (s.slice 0).decayed + 1000000000 ≤ ({ s with time := 1000000000 } : State).time ∧ s.curator.powerLimit < s.sensors.power ∧ base.sensors.power * 100 ≤ base.curator.powerLimit * 95)
    ∧ ({ base.slice 0 with monitor := { (base.slice 0).monitor with status := 2 } } : Slice).monitor.status.getLsbD 1 = true :=
  ⟨by decide, by decide, by decide, by decide, by decide, by decide, by decide, by rfl, ⟨by decide, by decide, fun q h => absurd h (Nat.not_lt_zero q)⟩, by decide, by decide, by decide, by decide⟩

/-! Firmware's work on partitions and contexts -/

def spec1 : PartSpec :=
  { part := 1, tenant := 0, slices := [1], fabric := 0, pkg := 0, pool := (List.range 16).map (16 + ·), bootVa := 0x10000, bootFrames := [40], logFrames := 4096 }

theorem frame_free (f : Nat) (h : 2 ≤ f) : (base.frame f).state = 0 := by
  have h0 : (0 == f) = false := by simp; omega
  have h1 : (1 == f) = false := by simp; omega
  simp [State.frame, base, State.reset, kvGet, List.find?, h0, h1, Frame.fresh]

theorem witness_Partition_create : Creatable base spec1 ∧ (∀ n ∈ spec1.slices, (base.maxGens.getD n 0).toNat ≤ 0) ∧ ∃ n ∈ spec1.slices, (base.maxGens.getD n 0).toNat = 0 :=
  ⟨⟨by decide, by decide, by decide, by decide, by decide, by decide, by decide⟩, by decide, by decide⟩
theorem witness_Partition_remove :
    let s : State := { base with cur := none, threads := [], launches := [] }
    (s.part 0).state ≠ 0 ∧ s.frozen 0 = false ∧ (∀ l ∈ s.launches, l.ctx.part ≠ 0) ∧ Settled0 s 0 :=
  ⟨by decide, by decide, (fun _ h => by cases h), rfl, rfl, rfl, by decide⟩
theorem witness_Partition_tenants : base.tenant 4 = none ∧ ∀ p ∈ base.parts, p.tenant = 4 → p.state = 0 := by decide
theorem witness_Partition_power :
    (base.part 0).state ≠ 0 ∧ base.frozen 0 = false ∧ (base.vf 0).enabled = true
    ∧ ({ base with vfs := [{ Vf.reset with enabled := true, tdisp := .locked }] } : State).frozen 0 = true
    ∧ (let s := fun (st : Nat) => { base with parts := { Partition.reset with state := st, map := [0] } :: List.replicate 15 Partition.reset }
      ((s 2).part 0).state = 2 ∧ (∀ n ∈ ((s 2).part 0).map, n < (s 2).slices.length) ∧ ((s 3).part 0).state = 3 ∧ ∀ n ∈ ((s 3).part 0).map, n < (s 3).slices.length) := by decide
theorem witness_Partition_merge :
    let p := fun (n : List Nat) => { Partition.reset with state := 1, map := n }
    let s : State := { base with contexts := [], parts := p [0] :: p [1] :: List.replicate 14 Partition.reset }
    0 ≠ 1 ∧ (s.part 0).state ≠ 0 ∧ (s.part 1).state ≠ 0 ∧ (s.part 0).tenant = (s.part 1).tenant ∧ s.allSaved 0 = true ∧ s.allSaved 1 = true
      ∧ (∀ c ∈ s.contexts, c.id.part = 1 → s.context { part := 0, id := c.id.id } = none) ∧ s.frozen 0 = false ∧ s.frozen 1 = false :=
  ⟨by decide, by decide, by decide, by decide, by decide, by decide, (fun _ (h : _ ∈ []) => absurd h List.not_mem_nil), by decide, by decide⟩
theorem witness_Partition_split :
    let s : State := { base with contexts := [], parts := { Partition.reset with state := 1, map := [0, 1] } :: List.replicate 15 Partition.reset }
    s.parts.length = 16 ∧ s.vfs.length = 16 ∧ (s.part 0).state ≠ 0 ∧ (s.part 1).state = 0 ∧ s.allSaved 0 = true ∧ [1].Nodup ∧ (∀ n ∈ [1], n < 16 ∧ n ∈ (s.part 0).map)
      ∧ (∃ n ∈ (s.part 0).map, n ∉ [1]) ∧ s.frozen 0 = false ∧ (s.freeRoot (((List.range 16).filter [1].contains).headD 0)).isSome = true
      ∧ (∀ n ∈ [1], (s.slice n).held = false) :=
  ⟨by decide, by decide, by decide, by decide, by decide, by decide, by decide, ⟨0, by decide, by decide⟩, by decide, by decide, by decide⟩
theorem witness_Partition_reach :
    5 < 1024 ∧ 5 ≠ (base.part 0).pkg.toNat ∧ (∀ i, i < 15 → (0xFFF80000#32).getLsbD i = false) ∧ base.frozen 0 = false
    ∧ base.ports.all Option.isNone = true
    ∧ ({ base with vfs := [{ Vf.reset with enabled := true, tdisp := .run }] } : State).frozen 0 = true := by decide

def spec2 : CtxSpec := { ctx := { part := 0, id := 9 }, slabSize := 65536, privBase := 2 ^ 41, slabRuns := [(256, 24576)], prio := 1, roots := [] }

/-- No page of a range above the one mapped page is mapped. -/
theorem walk_absent (va : Nat) (h : 2 ^ 41 ≤ va) (h2 : va < 2 ^ 42) : base.walk 0 va = .absent := by
  have hk : va / 2 ^ 39 = 4 ∨ va / 2 ^ 39 = 5 ∨ va / 2 ^ 39 = 6 ∨ va / 2 ^ 39 = 7 := by omega
  simp only [State.walk, walkLevels, State.walkFrom]
  obtain k | k | k | k := hk <;> simp only [k] <;> rw [if_neg (by decide), if_pos (by decide)]

theorem witness_Context_create :
    (base.part spec2.ctx.part).state = 1 ∧ (base.part 0).closing = false ∧ base.context spec2.ctx = none ∧ spec2.ctx.id < 2 ^ 16 ∧ spec2.slabSize % 65536 = 0
      ∧ spec2.slabSize ≤ 2 ^ 24 ∧ spec2.privBase % 65536 = 0 ∧ spec2.slabSize / 65536 * (12 * (base.part 0).map.length * 2048) = 24576
      ∧ spec2.privBase + 24576 * 65536 ≤ 2 ^ 56 ∧ (∀ i, i < 24576 → base.walk 0 (spec2.privBase + i * 65536) = .absent) ∧ (spec2.slabRuns.map (·.2)).sum = 24576
      ∧ spec2.slabRuns.Pairwise (fun r q => q.1 + q.2 ≤ r.1 ∨ r.1 + r.2 ≤ q.1) ∧ (∀ r ∈ spec2.slabRuns, 0 < r.2 ∧ base.freeSpan r.1 r.2 = true)
      ∧ ∀ r ∈ spec2.roots.zipIdx, base.rootOk 0 r.2 r.1 = true :=
  ⟨by decide, by decide, by decide, by decide, by decide, by decide, by decide, by decide, by decide,
    fun i h => walk_absent _ (by show 2 ^ 41 ≤ 2 ^ 41 + _; omega) (by show 2 ^ 41 + _ < 2 ^ 42; omega), by decide, by simp [spec2], by decide, fun _ h => by cases h⟩

def sLife (l : Life) (i : Option Image) : State :=
  { base with cur := none, groups := [], teams := [], trains := [], contexts := [{ placedContext cid with life := l, image := i }]
              tenants := [{ tnt with exports := [(cid, 3)] }] }

def image0 : Image :=
  { gen := 0, time := 0, epochs := List.replicate 16 0, trs := [], threads := [], groups := [], teams := [], plats := [], sram := [], ob := [], wslots := [], homes := [] }

theorem witness_Context_life :
    (∃ x, base.context cid = some x) ∧ 5 < 64 ∧ cid.part < base.vfs.length ∧ (base.vf cid.part).queues.length = 64 ∧ base.issues cid = true ∧ base.frozen 0 = false
    ∧ ((sLife .quiet none).settles cid = true ∧ (sLife .quiet none).unsettled cid = false)
    ∧ (let s : State := { sLife .quiet none with vfs := { Vf.reset with enabled := true, mapCalls := [{ hostCall with caller := some thr.id }] } :: List.replicate 15 Vf.reset }
      s.settles cid = true ∧ s.unsettled cid = true) := ⟨⟨_, by rfl⟩, by decide, by decide, by decide, by decide, by decide, by decide, by decide⟩
theorem witness_Context_end :
    let s : State := { base with cur := none, threads := [], launches := [] }
    s.context cid = some (placedContext cid) ∧ (placedContext cid).life ≠ .ending ∧ (∀ l ∈ s.launches, l.ctx = cid → l.phase = .waiting) ∧ Settled0 s 0 :=
  ⟨by rfl, by decide, (fun _ h => by cases h), rfl, rfl, rfl, by decide⟩
theorem witness_Context_plain :
    let s := { sLife .quiet none with launches := [] }
    s.settles cid = true ∧ s.stores = [] ∧ s.flights.length ≤ 4096 ∧ (s.vf cid.part).mapCalls = [] ∧ (∀ x ∈ s.contexts, ∀ q ∈ x.queues, q.entries = [])
      ∧ ∀ l ∈ s.launches, l.ctx = cid → l.phase ≠ .waiting :=
  ⟨by decide, rfl, by decide, rfl, by decide, fun _ h => by cases h⟩
theorem witness_Context_saved :
    (∃ x, (sLife .saved (some image0)).context cid = some x ∧ x.life = .saved ∧ x.image = some image0 ∧ image0.full = some []
      ∧ image0.slices ≤ ((sLife .saved (some image0)).part 0).n ∧ (sLife .saved (some image0)).restoreOk cid image0 [] = true
      ∧ ((sLife .saved (some image0)).part 0).state = 1 ∧ (∀ t ∈ ([] : List Thread), t.log = none) ∧ ∀ t ∈ (sLife .saved (some image0)).threads, t.ctx ≠ cid)
    ∧ (let i := { image0 with homes := (List.range 24).map (fun n => (n, n)) }
      ∃ x, (sLife .saved (some i)).context cid = some x ∧ x.image = some i ∧ ((sLife .saved (some i)).part 0).n < i.slices)
    ∧ (let s : State := { sLife .saved (some image0) with curator := { base.curator with peers := [(3, 5)] } }
      ∃ x n, s.context cid = some x ∧ x.life = .saved ∧ x.image = some image0 ∧ s.tenantOf cid.part = some n ∧ (cid, 3) ∈ n.exports ∧ kvGet s.curator.peers 3 = some 5)
    ∧ (let s := sLife (.exported 3) (some image0)
      ∃ x, s.context cid = some x ∧ x.life = .exported 3 ∧ Settled0 s 0 ∧ (∀ y ∈ s.contexts, y.id.part = 0 → y.id ≠ cid → ∀ p, y.life ≠ .exported p)
        ∧ ∀ e ∈ s.staged, e.stage ≠ some 0) :=
  ⟨⟨_, by rfl, rfl, rfl, by rfl, by decide, by decide, by decide, (fun _ h => by cases h), fun _ h => by cases h⟩, ⟨_, by rfl, rfl, by decide⟩,
    ⟨_, _, by rfl, rfl, rfl, by rfl, by decide, by decide⟩, _, by rfl, rfl, ⟨rfl, rfl, rfl, by decide⟩, by
      intro y hy _ hn
      obtain rfl := List.mem_singleton.mp hy
      exact absurd rfl hn, fun _ h => by cases h⟩

/-- An export image from package 9, without a frame, at the start of its import or staged. -/
def export0 (stage : Option Nat) : Export :=
  { header := imageHeader 8 image0 [(0x10, 0xFFFF, 32)], src := 9, key := [], stage := stage
    context := { placedContext { part := 5, id := 8 } with life := .saved, image := some image0 }, launches := [], teams := []
    desc := ({ slices := 1, cus := 0, threads := 0, groups := 0, allot := 0, trs := 0, spKiB := 0, obKiB := 0, plats := 0, replays := 0, slab := 0 } : Compat).bytes
    maps := [], granules := [], colours := [], clock := 0, signature := [] }

def imageAt (s : State) : Image := ({ uid := (s.nextLaunch + ·), ctx := { part := 0, id := 8 } } : Rename).image image0

/-- An import from a package with whose Curator there is no session is refused; one that meets every condition but the signature's and the
unwrapping's, which are `Config`'s. -/
theorem witness_Context_import :
    let s := fun (k : Option Nat) => { base with staged := [export0 k] }
    (s none).staged[0]? = some (export0 none) ∧ (s none).context { part := 0, id := 8 } = none ∧ ((s none).part 0).state = 1 ∧ (export0 none).stage = none
      ∧ (s none).importCode (export0 none) 0 { part := 0, id := 8 } (some (imageAt (s none))) [] = 1
      ∧ (export0 (some 0)).stage = some 0 ∧ (s (some 0)).atsBusy 0 = false ∧ (export0 (some 0)).context.image = some image0 ∧ (export0 (some 0)).formOk = true
      ∧ (compatFrom (export0 (some 0)).desc).slices ≤ ((s (some 0)).part 0).n ∧ (compatFrom (export0 (some 0)).desc).fits ((s (some 0)).part 0).n = true
      ∧ (s (some 0)).restoreOk { part := 0, id := 8 } (imageAt (s (some 0))) [] = true ∧ (s (some 0)).framesThere 0 (export0 (some 0)) = true
      ∧ (imageAt (s (some 0))).full = some [] ∧ ∀ t ∈ (s (some 0)).threads, t.ctx ≠ { part := 0, id := 8 } := by
  have key : ∀ k, (({ base with staged := [export0 k] } : State).transferKey (export0 none)) = none := fun k => by
    simp [State.transferKey, base, State.reset, Curator.reset, kvGet]
  refine ⟨rfl, by rfl, by decide, rfl, ?_, rfl, by decide, rfl, by decide, by decide, by decide, by decide, by decide, by rfl, by decide⟩
  simp [State.importCode, key]

/-! The Curator -/

theorem witness_Boot :
    base.curator.minimal = false
    ∧ (let b : BootResult := { goodStart 0 true with firmwareOk := false }
      b.romOk = true ∧ b.firmwareOk = false)
    ∧ ({ goodStart 0 true with linksOk := false } : BootResult).railsOk = true ∧ (3#16 : BitVec 16) ≠ 0xFFFF#16
    ∧ (let s : State := { base with curator := { base.curator with minimal := true }, time := 1000000000 }
      s.curator.minimal = true ∧ s.curator.reported + 1000000000 ≤ s.time)
    ∧ (let s : State := { base with curator := { base.curator with starting := true }, time := 60000000000 }
      s.curator.starting = true ∧ 60000000000 ≤ s.time) := by decide

def sSpdm : State := { base with curator := { base.curator with spdm := [{ vf := 0, version := true, caps := true, algs := true, waiting := some (none, 9, 5) }] } }

def session1 (ready : Bool) : Session := { id := 1, vf := 0, secure := true, ready := ready, live := true, linkKeys := [], keyGen := 0, beat := 0, reading := none }

def sSession (ready : Bool) : State := { sSpdm with curator := { sSpdm.curator with sessions := [session1 ready] } }

theorem witness_Evidence :
    Negotiated sSpdm 0 ∧ (sSpdm.part 0).state = 1 ∧ (measured (sSpdm.evidenceBlocks 0) 0).isSome = true ∧ (sSpdm.spdmOf 0).version = true ∧ (sSpdm.spdmOf 0).caps = true
    ∧ (sSpdm.spdmOf 0).waiting = some (none, 9, 5)
    ∧ (sSpdm.curator.sessions.length < 64 ∧ (sSpdm.curator.sessions.filter (·.vf == 0)).length < 4 ∧ sSpdm.session sSpdm.curator.nextSession = none)
    ∧ (let s : State := { sSession true with parts := { Partition.reset with state := 2, map := [0] } :: List.replicate 15 Partition.reset }
      Negotiated s 0 ∧ s.session 1 = some (session1 true) ∧ (session1 true).vf = 0 ∧ (session1 true).live = true ∧ (s.part 0).state ≠ 1)
    ∧ ((sSession false).session 1 = some (session1 false) ∧ (session1 false).ready = false ∧ (Config.finishOk 1 [] = true ∨ Config.finishOk 1 [] = false)) :=
  ⟨⟨.inr (by decide), by decide⟩, by decide, by decide, by decide, by decide, by decide, by decide, ⟨⟨.inr (by decide), by decide⟩, by rfl, rfl, rfl, by decide⟩, by rfl, rfl,
    by cases Config.finishOk 1 [] <;> simp⟩
theorem secure1 : Secure (sSession true) 1 (session1 true) := ⟨by rfl, rfl, rfl, by decide⟩
theorem witness_Interface :
    Secure (sSession true) 1 (session1 true) ∧ (sSession true).tenantOf (session1 true).vf = some tnt ∧ (List.replicate 96 (0 : Byte)).length = 96
    ∧ (∃ x, (sSession true).context { part := (session1 true).vf, id := 0 } = some x) ∧ (∃ l, (sSession true).links[0]? = some l)
    ∧ (let k := { session1 true with vf := 16, secure := false }
      let s : State := { sSpdm with curator := { sSpdm.curator with sessions := [k] } }
      s.session 1 = some k ∧ k.ready = true ∧ k.vf = 16 ∧ ∃ l, s.links[0]? = some l)
    ∧ ((base.vf 0).tdisp = .unlocked ∧ (∀ n ∈ (base.vf 0).links, base.linkSecure n = true) ∧ (∀ w ∈ (base.vf 0).switches, base.trusts w = true) ∧ (base.vf 0).enabled = true)
    ∧ (let s : State := { base with vfs := [{ Vf.reset with enabled := true, links := [0, 1], switches := [{ chain := none, keyed := false }] }] }
      (∃ n ∈ (s.vf 0).links, s.linkSecure n = false) ∧ ∃ w ∈ (s.vf 0).switches, s.trusts w = false)
    ∧ (({ base with vfs := [{ Vf.reset with enabled := true, tdisp := .locked }] } : State).vf 0).tdisp = .locked
    ∧ 0 < base.links.length ∧ 0 < base.ports.length ∧ (∀ c ∈ (sLife .saved none).contexts, c.id.part = 0 → c.life = .saved) :=
  ⟨secure1, by rfl, by decide, ⟨_, by rfl⟩, ⟨_, by rfl⟩, ⟨by rfl, rfl, rfl, _, by rfl⟩, by decide,
    ⟨⟨1, by decide, by decide⟩, ⟨{ chain := none, keyed := false }, by decide, by decide⟩⟩, by decide, by decide, by decide, by decide⟩

def tDebug : Thread := { thrOf [] [(16, scr 0)] with run := .parked (.debug .breakpoint 0) 0, debug := true }

/-- A context with a thread parked for debug, attached to session 1 or not. -/
def sDebug (session : Option Nat) : State :=
  { sSession true with cur := none, threads := [tDebug], trains := [], contexts := [{ placedContext cid with session := session }] }

theorem attached1 : ∃ x, Attached (sDebug (some 1)) 1 0 (session1 true) x := ⟨_, ⟨by rfl, rfl, rfl, by decide⟩, by rfl, rfl⟩

theorem witness_Debug :
    (∃ x, Secure (sDebug none) 1 (session1 true) ∧ (sDebug none).context { part := 0, id := 0 } = some x ∧ x.session ≠ some 1 ∧ x.session = none)
    ∧ (∃ x, (sDebug (some 2)).context { part := 0, id := 0 } = some x ∧ x.session ≠ some 1 ∧ x.session.isSome = true)
    ∧ (∃ x, Attached (sDebug (some 1)) 1 0 (session1 true) x) ∧ (sDebug (some 1)).cur = none ∧ ((sDebug (some 1)).threads.map (·.id)).Nodup
    ∧ (sDebug (some 1)).debugThread cid tDebug.id = some (tDebug, .breakpoint, 0) ∧ 3 < tDebug.nregs
    ∧ (let s := sDebug (some 1)
      let q := tDebug.quad 16
      let ask := fun (ea : Int) => ({ need := permLD, ea := ea, n := 1, al := 1, lacks := false, column := false } : Ask)
      (∀ i : Nat, i < 1 → s.deref tDebug q (ask ((q.cursor : Int) + (0#64 : Word64).toInt + (i : Int))) = none
        ∧ ∃ cu o, s.land tDebug q.space ((q.cursor : Int) + (0#64 : Word64).toInt + (i : Int)).toNat .read = .ok (.sram cu o) ∧ peek s tDebug.sees (.sram cu o) 1 = [([0] : List Byte).getD i 0])
      ∧ s.deref tDebug q (ask ((q.cursor : Int) + (65536#64 : Word64).toInt)) ≠ none)
    ∧ (let t : Thread := { thrOf [] [(20, gl 0xFFF0)] with run := .parked (.debug .breakpoint 0) 0, debug := true }
      let s : State := { sDebug (some 1) with threads := [t] }
      s.debugThread cid t.id = some (t, .breakpoint, 0) ∧ s.deref t (t.quad 20) { need := permLD, ea := 0xFFF0, n := 1, al := 1, lacks := false, column := false } = none
        ∧ s.land t 0 0xFFF0 .read = .ok (.hbm 0x1FFF0 .rc true) ∧ Sound s 0x1FFF0 1)
    ∧ (sDebug (some 1)).debugThread cid { launch := 0, group := 0, num := 7 } = none
    ∧ ((sDebug (some 1)).parkedAt cid 0 0 (fun t => t.blk.toNat == 0 && t.off.toNat == 1)).head? = some tDebug
    ∧ ((sDebug (some 1)).trains.filter (fun r => r.cu == tDebug.cu)).length < trainSlots
    ∧ (let s : State := { sDebug (some 1) with trains := List.replicate 32 { train with lanes := [9] } }
      (s.parkedAt cid 0 0 (fun t => t.blk.toNat == 0 && t.off.toNat == 1)).head? = some tDebug ∧ trainSlots ≤ (s.trains.filter (fun r => r.cu == tDebug.cu)).length)
    ∧ (sDebug (some 1)).parkedAt cid 0 0 (fun t => (some 0).isNone || some 0 == some t.id.num) = [tDebug] :=
  ⟨⟨_, ⟨by rfl, rfl, rfl, by decide⟩, by rfl, by decide, rfl⟩, ⟨_, by rfl, by decide, rfl⟩, attached1, rfl, by decide, by rfl, by decide,
    ⟨fun i h => by obtain rfl : i = 0 := by omega
                   exact ⟨by decide, 0, 0, by decide, by decide⟩, by decide⟩, ⟨by rfl, by decide, by decide, by rfl, by rfl, fun _ _ => ⟨rfl, rfl⟩⟩, by rfl, by rfl, by decide, ⟨by rfl, by decide⟩, by rfl⟩

end Sys2Proof.Tests
end

section
/-!
Integer words (04), first part: the rules of a thread's registers, and the step of a word that is ready in its thread.
-/

namespace Sys2Proof.Machine

/-! ## Registers: what a write gives and what it leaves (R87, R91, R92) -/

@[simp] theorem Thread.setReg_regs_length (t : Thread) (n : Nat) (v : Word) :
    (t.setReg n v).regs.length = t.regs.length := by simp [Thread.setReg]

theorem Thread.reg_setReg_same {t : Thread} {n : Nat} (v : Word) (h : n < t.nregs) : (t.setReg n v).reg n = v := by
  rw [Thread.nregs] at h
  simp [Thread.reg, Thread.setReg, h]

theorem Thread.reg_setReg_of_ne {m n : Nat} (t : Thread) (v : Word) (h : m ≠ n) : (t.setReg n v).reg m = t.reg m := by
  simp [Thread.reg, Thread.setReg, List.getElem?_set_ne (Ne.symm h)]

theorem Thread.tag_setReg (t : Thread) (n : Nat) (v : Word) (q : Nat) :
    (t.setReg n v).tags.getD q false = (t.tags.getD q false && !(n / 4 == q)) := by
  by_cases hq : n / 4 = q
  · subst hq
    by_cases hlen : n / 4 < t.tags.length <;> simp [Thread.setReg, hlen]
  · simp [Thread.setReg, List.getElem?_set_ne hq, hq]

/-- A write of a pair is read back whole. -/
theorem Thread.pair_setPair_same {t : Thread} {n : Nat} (v : Word64) (h : n + 1 < t.nregs) : (t.setPair n v).pair n = v := by
  have hlow : (t.setPair n v).reg n = v.setWidth 32 := by
    rw [Thread.setPair, Thread.reg_setReg_of_ne _ _ (by omega), Thread.reg_setReg_same _ (by omega)]
  have hhigh : (t.setPair n v).reg (n + 1) = v.extractLsb' 32 32 := by
    rw [Thread.setPair, Thread.reg_setReg_same _ (by simpa [Thread.nregs] using h)]
  rw [Thread.pair, hlow, hhigh, BitVec.setWidth_eq_extractLsb' (by decide),
    BitVec.extractLsb'_append_extractLsb'_eq_extractLsb' (by rfl)]
  exact BitVec.extractLsb'_eq_self

/-! ## What a word wrote -/

theorem wrote_setReg (t : Thread) (n : Nat) (v : Word) : Wrote t (t.setReg n v) [n] where
  rest := rfl
  count := t.setReg_regs_length n v
  others m hm := t.reg_setReg_of_ne v (by simpa using hm)
  tags q := by rw [Thread.tag_setReg, List.any_cons, List.any_nil, Bool.or_false]

/-- Two writes, one after the other, write the registers of both. -/
theorem Wrote.trans {t t1 t2 : Thread} {r1 r2 : List Nat} (h1 : Wrote t t1 r1) (h2 : Wrote t1 t2 r2) :
    Wrote t t2 (r1 ++ r2) where
  rest := by rw [h2.rest, h1.rest]
  count := h2.count.trans h1.count
  others n hn := by
    rw [List.mem_append, not_or] at hn
    rw [h2.others n hn.2, h1.others n hn.1]
  tags q := by rw [h2.tags, h1.tags, List.any_append, Bool.not_or, Bool.and_assoc]

theorem wrote_setPair (t : Thread) (n : Nat) (v : Word64) : Wrote t (t.setPair n v) [n, n + 1] :=
  (wrote_setReg t n _).trans (wrote_setReg _ (n + 1) _)

theorem wrote_setVal (t : Thread) (wide : Bool) (n v : Nat) : Wrote t (t.setVal wide n v) (valRegs wide n) := by
  cases wide
  · exact wrote_setReg t n _
  · exact wrote_setPair t n _

/-- The bits of a result of one register or of a pair (R91). -/
def valBits (wide : Bool) : Nat := if wide then 64 else 32

/-- A result is read back modulo 2 to its width. -/
theorem Thread.val_setVal {t : Thread} {wide : Bool} {n : Nat} (v : Nat) (h : ∀ k ∈ valRegs wide n, k < t.nregs) :
    (t.setVal wide n v).val wide n = v % 2 ^ valBits wide := by
  cases wide
  · simp [Thread.setVal, Thread.val, valBits, Thread.reg_setReg_same _ (h n (by simp [valRegs]))]
  · simp [Thread.setVal, Thread.val, valBits, Thread.pair_setPair_same _ (h (n + 1) (by simp [valRegs]))]

/-! ## The step of a word that is ready -/

/-- The registers that an operand of a ready word names are the thread's own (R31). -/
theorem Ready.reg_lt_nregs {i : Instr} {s : State} {t : Thread} {op : Nat} {w : FWord} {o : Operand} {n : Nat}
    (h : Ready i s t) (hi : i.code = .f op w) (ho : o ∈ (fShape op w).operands) (hn : n ∈ o.regList) : n < t.nregs := by
  have hall : (fShape op w).allocated t.nregs = true := by
    have := h.operands
    rw [hi, operandsOk, Bool.and_eq_true] at this
    exact this.2
  simpa using List.all_eq_true.mp hall n (List.mem_flatMap.mpr ⟨o, ho, hn⟩)

/-- A ready F word takes its own effect (R73). -/
theorem wordAct_of_ready {i : Instr} {s : State} {t : Thread} {op : Nat} {w : FWord} (h : Ready i s t) (hi : i.code = .f op w)
    (body : State → Thread → Act) : wordAct (.f op w) s t body = body s t := by
  have hg := h.guard
  have ho := h.operands
  have hf := h.free
  have ha := h.flight
  rw [hi] at hg ho hf ha
  simp [wordAct, hg, ho, hf, ha, h.peer]

/-- A thread in the middle of its block goes on to the next word (R72). -/
theorem State.advance_of_mid (s : State) {t : Thread} (h : t.mid = true) : s.advance t = s.putThread t.stepped := by
  obtain ⟨hend, hsteps⟩ : t.atEnd = false ∧ t.steps = false := by simpa [Thread.mid] using h
  have hend' : ({ t with watchSkip := false, mark := none } : Thread).atEnd = false := hend
  simp only [State.advance, hend', Bool.false_eq_true, if_false]
  exact if_neg (by simp [hsteps])

/-- A write of registers leaves the thread in the middle of its block. -/
theorem Wrote.mid {t t' : Thread} {regs : List Nat} (hw : Wrote t t' regs) (h : t.mid = true) : t'.mid = true := by
  rw [hw.rest]
  exact h

/-- A word in the middle of its block that lets its thread go on as `t'` changes nothing but that thread. -/
theorem conclude_go {s : State} {t t' : Thread} (hcur : s.cur = some t) (hid : t.id = t'.id) (hmid : t.mid = true)
    (hmid' : t'.mid = true) : conclude s t (.go s t') = s.goesOn t' := by
  have hsteps : t.steps = false := by
    rw [Thread.mid, Bool.and_eq_true, Bool.not_eq_true', Bool.not_eq_true'] at hmid
    exact hmid.2
  have hput : s.putThread t'.stepped = s.goesOn t' := State.putThread_cur s t _ hcur hid
  simp only [conclude, concludeWord, State.advance_of_mid s hmid', hput, State.reportStep, hsteps, Bool.not_false, if_true]

/-- The step of a ready F word whose effect is a write of registers: its thread goes on, with them written. -/
theorem issue_of_wrote {i : Instr} {s : State} {t t' : Thread} {op : Nat} {w : FWord} {regs : List Nat}
    {body : State → Thread → Act} (h : Ready i s t) (hmid : t.mid = true) (hi : i.code = .f op w) (hb : body s t = .go s t')
    (hw : Wrote t t' regs) : issue (.f op w) s body = .next (s.goesOn t') := by
  have hid : t.id = t'.id := by rw [hw.rest]
  simp only [issue, h.cur, runWord, h.sound, Bool.false_and, Bool.false_eq_true, if_false, wordAct_of_ready h hi, hb,
    conclude_go h.cur hid hmid (hw.mid hmid)]

/-- The destination of an F word of an integer type, one register or a pair by the type (R96). -/
def intDest (w : FWord) : Operand := .regs (if intWide w.ty then 2 else 1) w.d.toNat

theorem regList_intDest (w : FWord) : (intDest w).regList = valRegs (intWide w.ty) w.d.toNat := by
  unfold intDest valRegs
  cases intWide w.ty <;> rfl

/-- `i` is the F word `w` of opcode `op`, and its destination is of its integer type. -/
structure IntWord (i : Instr) (op : Nat) (w : FWord) : Prop where
  code : i.code = .f op w
  dest : intDest w ∈ (fShape op w).operands

section Ready

variable {i : Instr} {s : State} {t : Thread} {op : Nat} {w : FWord} (h : Ready i s t)

include h

/-- The step of a ready word whose effect is a result of its integer type. -/
theorem issue_setVal {body : State → Thread → Act} {v : Nat} (hmid : t.mid = true) (hi : i.code = .f op w)
    (hb : body s t = .go s (t.setVal (intWide w.ty) w.d.toNat v)) :
    issue (.f op w) s body = .next (s.goesOn (t.setVal (intWide w.ty) w.d.toNat v)) :=
  issue_of_wrote h hmid hi hb (wrote_setVal _ _ _ _)

/-- What a ready word's destination of its integer type holds after a result. -/
theorem Ready.val_setVal (hi : IntWord i op w) (v : Nat) :
    (t.setVal (intWide w.ty) w.d.toNat v).val (intWide w.ty) w.d.toNat = v % 2 ^ valBits (intWide w.ty) :=
  Thread.val_setVal v fun _ hk => h.reg_lt_nregs hi.code hi.dest (by rwa [regList_intDest])

/-- The modifier of a ready F word is defined (R74). -/
theorem Ready.modOk (hi : i.code = .f op w) : (fShape op w).modOk = true := by
  have hok := h.operands
  rw [hi, operandsOk, Shape.ok, Bool.and_eq_true, Bool.and_eq_true] at hok
  exact hok.1.1

/-- What a ready word's destination of its integer type holds after a result of one register. -/
theorem Ready.reg_setReg (hi : IntWord i op w) (v : Word) : (t.setReg w.d.toNat v).reg w.d.toNat = v := by
  refine Thread.reg_setReg_same v (h.reg_lt_nregs hi.code hi.dest ?_)
  rw [regList_intDest]
  cases intWide w.ty <;> exact .head _

/-- What a ready word's destination holds after a result of a pair. -/
theorem Ready.pair_setPair {o : Operand} (hi : i.code = .f op w) (ho : o ∈ (fShape op w).operands)
    (hn : w.d.toNat + 1 ∈ o.regList) (v : Word64) : (t.setPair w.d.toNat v).pair w.d.toNat = v :=
  Thread.pair_setPair_same v (h.reg_lt_nregs hi ho hn)

/-- A ready word of the 64-bit types alone has a pair for its destination. -/
theorem Ready.pair_setPair_of_ty64 (hi : IntWord i op w) (hty : (fShape op w).modOk = (ty64 w.ty && w.lo == 0))
    (v : Word64) : (t.setPair w.d.toNat v).pair w.d.toNat = v := by
  have hwide : intWide w.ty = true := by
    have hok := h.modOk hi.code
    rw [hty, Bool.and_eq_true] at hok
    exact hok.1
  refine h.pair_setPair hi.code hi.dest ?_ v
  rw [regList_intDest, hwide]
  exact .tail _ (.head _)

end Ready

end Sys2Proof.Machine
end

section
/-!
Integer words (04), second part: what the model's helpers on unbounded integers compute, bit by bit, and the lanes of a
result.
-/

namespace Sys2Proof.Machine

/-! ## Wrapping and sign extension are those of bit vectors -/

theorem wrapNat_eq_toNat_ofInt (x : Int) (n : Nat) : wrapNat x n = (BitVec.ofInt n x).toNat := (BitVec.toNat_ofInt x).symm

theorem sextNat_eq_toInt_ofNat (x n : Nat) : sextNat x n = (BitVec.ofNat n x).toInt := by
  rw [BitVec.toInt_eq_toNat_cond, BitVec.toNat_ofNat]
  rfl

theorem wrapNat_lt (x : Int) (n : Nat) : wrapNat x n < 2 ^ n := by
  rw [wrapNat_eq_toNat_ofInt]
  exact BitVec.isLt _

theorem wrapNat_natCast (x n : Nat) : wrapNat (x : Int) n = x % 2 ^ n := by
  rw [wrapNat, ← Int.natCast_mod, Int.toNat_natCast]

theorem natCast_wrapNat (x : Int) (n : Nat) : (wrapNat x n : Int) = x % 2 ^ n := by
  have hpos : (0 : Int) < 2 ^ n := by positivity
  rw [wrapNat, Nat.cast_pow, Nat.cast_ofNat, Int.toNat_of_nonneg (Int.emod_nonneg x hpos.ne')]

theorem getLsbD_ofNat_of_lt {n j : Nat} (hj : j < n) (x : Nat) : (BitVec.ofNat n x).getLsbD j = x.testBit j := by
  rw [BitVec.getLsbD_ofNat, decide_eq_true hj, Bool.true_and]

/-- A field of `m` bits, sign-extended and wrapped to `n` bits, bit by bit. -/
theorem testBit_wrapNat_sextNat (x m n j : Nat) :
    (wrapNat (sextNat x m) n).testBit j = (decide (j < n) && decide (0 < m) && x.testBit (if j < m then j else m - 1)) := by
  rw [sextNat_eq_toInt_ofNat, wrapNat_eq_toNat_ofInt, BitVec.testBit_toNat]
  change ((BitVec.ofNat m x).signExtend n).getLsbD j = _
  rw [BitVec.getLsbD_signExtend, BitVec.msb_eq_getLsbD_last, BitVec.getLsbD_ofNat, BitVec.getLsbD_ofNat, Bool.and_assoc]
  by_cases hj : j < m
  · simp [hj, Nat.zero_lt_of_lt hj]
  · simp [hj]

/-! ## Digits: the lanes that a result is put together from (R97) -/

section Digits

variable {w : Nat} {g : Nat → Nat} (hg : ∀ l, g l < 2 ^ w)

include hg

theorem foldl_digits_lt (n : Nat) : (List.range n).foldl (fun acc l => acc + g l * 2 ^ (l * w)) 0 < 2 ^ (n * w) := by
  induction n with
  | zero => simp
  | succ n ih =>
    rw [List.range_succ, List.foldl_append, List.foldl_cons, List.foldl_nil]
    calc _ < 2 ^ (n * w) + g n * 2 ^ (n * w) := Nat.add_lt_add_right ih _
      _ = (g n + 1) * 2 ^ (n * w) := by ring
      _ ≤ 2 ^ w * 2 ^ (n * w) := Nat.mul_le_mul_right _ (hg n)
      _ = 2 ^ ((n + 1) * w) := by rw [← pow_add]; congr 1; ring

theorem foldl_digits_digit {n k : Nat} (hk : k < n) :
    (List.range n).foldl (fun acc l => acc + g l * 2 ^ (l * w)) 0 / 2 ^ (k * w) % 2 ^ w = g k := by
  induction n with
  | zero => omega
  | succ n ih =>
    rw [List.range_succ, List.foldl_append, List.foldl_cons, List.foldl_nil]
    rcases Nat.lt_succ_iff_lt_or_eq.mp hk with hlt | rfl
    · obtain ⟨m, rfl⟩ := Nat.exists_eq_add_of_lt hlt
      have hsplit : g (k + m + 1) * 2 ^ ((k + m + 1) * w) = 2 ^ (k * w) * (g (k + m + 1) * 2 ^ (m * w) * 2 ^ w) := by ring
      rw [hsplit, Nat.add_mul_div_left _ _ (by positivity), Nat.add_mul_mod_self_right, ih hlt]
    · rw [Nat.add_mul_div_right _ _ (by positivity), Nat.div_eq_of_lt (foldl_digits_lt hg k), Nat.zero_add,
        Nat.mod_eq_of_lt (hg k)]

end Digits

theorem laneCount_mul_laneWidth (ty : Nat) : laneCount ty * laneWidth ty = valBits (intWide ty) := by
  rcases ty with _ | _ | _ | _ | _ | _ | ty <;> rfl

theorem laneWidth_pos (ty : Nat) : 0 < laneWidth ty := by
  rcases ty with _ | _ | _ | _ | _ | _ | ty <;> exact Nat.succ_pos _

theorem laneCount_pos (ty : Nat) : 0 < laneCount ty := by
  rcases ty with _ | _ | _ | _ | _ | _ | ty <;> exact Nat.succ_pos _

theorem laneWidth_le_valBits (ty : Nat) : laneWidth ty ≤ valBits (intWide ty) := by
  rw [← laneCount_mul_laneWidth]
  exact Nat.le_mul_of_pos_left _ (laneCount_pos ty)

theorem valBits_le (wide : Bool) : valBits wide ≤ 64 := by cases wide <;> decide

theorem laneWidth_of_intWide {ty : Nat} (h : intWide ty = true) : laneWidth ty = 64 := by
  obtain rfl | rfl : ty = 2 ∨ ty = 3 := by simpa [intWide] using h
  all_goals rfl

theorem lanes_lt (ty : Nat) (f : Nat → Int) : lanes ty f < 2 ^ valBits (intWide ty) := by
  rw [← laneCount_mul_laneWidth]
  exact foldl_digits_lt (fun l => wrapNat_lt (f l) _) _

theorem laneBits_lanes {ty l : Nat} (f : Nat → Int) (hl : l < laneCount ty) :
    laneBits ty (lanes ty f) l = wrapNat (f l) (laneWidth ty) :=
  foldl_digits_digit (g := fun l => wrapNat (f l) (laneWidth ty)) (fun l => wrapNat_lt (f l) _) hl

theorem laneBits_lt (ty v l : Nat) : laneBits ty v l < 2 ^ laneWidth ty := Nat.mod_lt _ (by positivity)

/-! ## Sources fit the type's width -/

theorem src32_lt (s : State) (t : Thread) (v : BitVec 10) : src32 s t v < 2 ^ 32 := by
  simp only [src32]
  split_ifs
  · exact BitVec.isLt _
  · exact Nat.two_pow_pos 32
  · exact BitVec.isLt _

theorem src64_lt (s : State) (t : Thread) (signed : Bool) (v : BitVec 10) : src64 s t signed v < 2 ^ 64 := by
  simp only [src64]
  split_ifs
  · exact BitVec.isLt _
  · exact Nat.two_pow_pos 64
  · exact wrapNat_lt _ 64
  · exact (BitVec.isLt _).trans (by decide)

theorem srcInt_lt (s : State) (t : Thread) (ty : Nat) (v : BitVec 10) : srcInt s t ty v < 2 ^ valBits (intWide ty) := by
  unfold srcInt valBits
  split_ifs
  · exact src64_lt _ _ _ _
  · exact src32_lt _ _ _

/-! ## Shifts and rotations (R107) -/

/-- A rotation puts the bits that leave at the top in the free places below. -/
theorem rotated_or_eq_add {n k x : Nat} (hk : k ≤ n) (hx : x < 2 ^ n) :
    x <<< k % 2 ^ n ||| x >>> (n - k) = x * 2 ^ k % 2 ^ n + x / 2 ^ (n - k) := by
  obtain ⟨m, rfl⟩ := Nat.exists_eq_add_of_le hk
  have hlow : x / 2 ^ m < 2 ^ k := Nat.div_lt_of_lt_mul (by rwa [← pow_add, Nat.add_comm])
  have hhigh : x * 2 ^ k % 2 ^ (k + m) = 2 ^ k * (x % 2 ^ m) := by rw [pow_add, Nat.mul_comm x, Nat.mul_mod_mul_left]
  rw [Nat.shiftLeft_eq, Nat.shiftRight_eq_div_pow, Nat.add_sub_cancel_left, hhigh, Nat.two_pow_add_eq_or_of_lt hlow]

section Shifts

variable {n k x : Nat} (hk : k < n) (hx : x < 2 ^ n)

include hx in
theorem toNat_ofNat_ushiftRight : (BitVec.ofNat n x >>> k).toNat = x / 2 ^ k % 2 ^ n := by
  rw [BitVec.toNat_ushiftRight, BitVec.toNat_ofNat, Nat.mod_eq_of_lt hx, Nat.shiftRight_eq_div_pow,
    Nat.mod_eq_of_lt ((Nat.div_le_self _ _).trans_lt hx)]

theorem toNat_ofNat_sshiftRight :
    ((BitVec.ofNat n x).sshiftRight k).toNat = wrapNat (sextNat x n / ((2 ^ k : Nat) : Int)) n % 2 ^ n := by
  rw [Nat.mod_eq_of_lt (wrapNat_lt _ _), wrapNat_eq_toNat_ofInt, sextNat_eq_toInt_ofNat, BitVec.sshiftRight_eq,
    Int.shiftRight_eq_div_pow]

include hk hx

theorem toNat_ofNat_rotateLeft :
    ((BitVec.ofNat n x).rotateLeft k).toNat = (x * 2 ^ k % 2 ^ n + x / 2 ^ (n - k)) % 2 ^ n := by
  have hrot : ((BitVec.ofNat n x).rotateLeft k).toNat = x * 2 ^ k % 2 ^ n + x / 2 ^ (n - k) := by
    rw [BitVec.toNat_rotateLeft, BitVec.toNat_ofNat, Nat.mod_eq_of_lt hx, Nat.mod_eq_of_lt hk, rotated_or_eq_add hk.le hx]
  rw [← hrot, Nat.mod_eq_of_lt (BitVec.isLt _)]

theorem toNat_ofNat_rotateRight :
    ((BitVec.ofNat n x).rotateRight k).toNat = (x / 2 ^ k + x * 2 ^ (n - k) % 2 ^ n) % 2 ^ n := by
  have hrot : ((BitVec.ofNat n x).rotateRight k).toNat = x / 2 ^ k + x * 2 ^ (n - k) % 2 ^ n := by
    have hor := rotated_or_eq_add (Nat.sub_le n k) hx
    rw [Nat.sub_sub_self hk.le] at hor
    rw [BitVec.toNat_rotateRight, BitVec.toNat_ofNat, Nat.mod_eq_of_lt hx, Nat.mod_eq_of_lt hk, Nat.lor_comm, hor, Nat.add_comm]
  rw [← hrot, Nat.mod_eq_of_lt (BitVec.isLt _)]

end Shifts

/-! ## Counts and reversal (R108) -/

theorem popNat_eq_length_filter (n x : Nat) : popNat n x = ((List.range n).filter (fun j => x.testBit j)).length := by
  have hfold : ∀ (l : List Nat) (acc : Nat),
      l.foldl (fun acc i => if x.testBit i then acc + 1 else acc) acc = acc + (l.filter (fun j => x.testBit j)).length := by
    intro l
    induction l with
    | nil => simp
    | cons i l ih =>
      intro acc
      rw [List.foldl_cons, ih, List.filter_cons]
      split <;> simp [Nat.add_comm, Nat.add_left_comm]
  rw [popNat, hfold, Nat.zero_add]

theorem popNat_le (n x : Nat) : popNat n x ≤ n := by
  rw [popNat_eq_length_filter]
  exact (List.length_filter_le _ _).trans_eq List.length_range

theorem lt_two_pow_bitLen (x : Nat) : x < 2 ^ bitLen x := by
  unfold bitLen
  split_ifs with hx
  · simp [hx]
  · exact Nat.lt_log2_self

theorem bitLen_le {x n : Nat} (hx : x < 2 ^ n) : bitLen x ≤ n := by
  unfold bitLen
  split_ifs with h0
  · exact Nat.zero_le n
  · exact (Nat.pow_lt_pow_iff_right (by decide)).mp ((Nat.log2_self_le h0).trans_lt hx)

theorem testBit_bitLen_pred {x : Nat} (hx : 0 < bitLen x) : x.testBit (bitLen x - 1) = true := by
  unfold bitLen at hx ⊢
  split_ifs at hx ⊢ with h0
  · exact absurd hx (lt_irrefl 0)
  · exact Nat.testBit_log2 h0

/-- The leading zeros of `n` bits: those above are 0, the next is 1. -/
theorem clzNat_spec {n x : Nat} (hx : x < 2 ^ n) :
    clzNat n x ≤ n ∧ (∀ j, n - clzNat n x ≤ j → j < n → x.testBit j = false)
      ∧ (clzNat n x < n → x.testBit (n - 1 - clzNat n x) = true) := by
  have hlen := bitLen_le hx
  rw [clzNat, Nat.mod_eq_of_lt hx]
  refine ⟨Nat.sub_le _ _, fun j hj _ => ?_, fun hlt => ?_⟩
  · have hle : bitLen x ≤ j := by omega
    exact Nat.testBit_lt_two_pow ((lt_two_pow_bitLen x).trans_le (Nat.pow_le_pow_right (by decide) hle))
  · have hplace : n - 1 - (n - bitLen x) = bitLen x - 1 := by omega
    rw [hplace]
    exact testBit_bitLen_pred (by omega)

/-- The trailing zeros of `n` bits: those below are 0, the next is 1. -/
theorem ctzNat_spec (n x : Nat) :
    ctzNat n x ≤ n ∧ (∀ j, j < ctzNat n x → x.testBit j = false) ∧ (ctzNat n x < n → x.testBit (ctzNat n x) = true) := by
  unfold ctzNat
  cases hfind : (List.range n).find? (fun i => x.testBit i) with
  | none =>
    rw [List.find?_range_eq_none] at hfind
    exact ⟨le_rfl, fun j hj => by simpa using hfind j hj, fun h => absurd h (lt_irrefl n)⟩
  | some r =>
    obtain ⟨hbit, hmem, hbelow⟩ := List.find?_range_eq_some.mp hfind
    exact ⟨(List.mem_range.mp hmem).le, fun j hj => by simpa using hbelow j hj, fun _ => hbit⟩

/-- The reversal of one bit more: the new bit comes in at the bottom. -/
theorem revNat_succ (n x : Nat) : revNat (n + 1) x = Nat.bit (x.testBit n) (revNat n x) := by
  have hdouble : ∀ (l : List Nat), (∀ i ∈ l, i < n) → ∀ acc,
      l.foldl (fun acc i => if x.testBit i then acc + 2 ^ (n + 1 - 1 - i) else acc) (2 * acc)
        = 2 * l.foldl (fun acc i => if x.testBit i then acc + 2 ^ (n - 1 - i) else acc) acc := by
    intro l
    induction l with
    | nil => simp
    | cons i l ih =>
      intro hl acc
      obtain ⟨hi, hl⟩ := List.forall_mem_cons.mp hl
      have hpow : 2 ^ (n + 1 - 1 - i) = 2 * 2 ^ (n - 1 - i) := by
        rw [← pow_succ', show n + 1 - 1 - i = n - 1 - i + 1 by omega]
      rw [List.foldl_cons, List.foldl_cons, ← ih hl, hpow]
      split <;> simp [Nat.mul_add]
  have hbelow := hdouble (List.range n) (fun i => List.mem_range.mp) 0
  rw [Nat.mul_zero] at hbelow
  rw [revNat, List.range_succ, List.foldl_append, List.foldl_cons, List.foldl_nil, hbelow, Nat.bit_val, revNat]
  cases x.testBit n <;> simp

theorem revNat_lt (n x : Nat) : revNat n x < 2 ^ n := by
  induction n with
  | zero => exact Nat.one_pos
  | succ n ih =>
    rw [revNat_succ, Nat.bit_val, pow_succ]
    have := Bool.toNat_le (x.testBit n)
    omega

theorem testBit_revNat {n x j : Nat} (hj : j < n) : (revNat n x).testBit j = x.testBit (n - 1 - j) := by
  induction n generalizing j with
  | zero => omega
  | succ n ih =>
    rw [revNat_succ]
    cases j with
    | zero => rw [Nat.testBit_bit_zero]; rfl
    | succ j => rw [Nat.testBit_bit_succ, ih (by omega), show n + 1 - 1 - (j + 1) = n - 1 - j by omega]

/-! ## Carry-less products (R111) -/

/-- Whether an odd number of the elements of a list pass a test. -/
theorem odd_length_filter_cons (p : Nat → Bool) (i : Nat) (l : List Nat) :
    decide (((i :: l).filter p).length % 2 = 1) = xor (p i) (decide ((l.filter p).length % 2 = 1)) := by
  rw [List.filter_cons]
  cases p i
  · simp
  · rcases Nat.mod_two_eq_zero_or_one (l.filter p).length with h | h <;> simp [h, Nat.succ_mod_two_eq_one_iff]

/-- Bit j of the carry-less product is the parity of the pairs of bits whose places sum to j. -/
theorem testBit_clmulNat (a b j : Nat) :
    (clmulNat a b).testBit j
      = decide (((List.range 64).filter (fun k => b.testBit k && decide (k ≤ j) && a.testBit (j - k))).length % 2 = 1) := by
  have hfold : ∀ (l : List Nat) (acc : Nat),
      (l.foldl (fun acc i => if b.testBit i then acc ^^^ (a <<< i) else acc) acc).testBit j
        = xor (acc.testBit j)
            (decide ((l.filter (fun k => b.testBit k && decide (k ≤ j) && a.testBit (j - k))).length % 2 = 1)) := by
    intro l
    induction l with
    | nil => simp
    | cons i l ih =>
      intro acc
      rw [List.foldl_cons, ih, odd_length_filter_cons, ← Bool.xor_assoc]
      congr 1
      cases b.testBit i <;> simp [Nat.testBit_shiftLeft]
  rw [clmulNat, hfold, Nat.zero_testBit, Bool.false_xor]

end Sys2Proof.Machine
end

section
/-!
Integer words (04), third part: the lane-by-lane words, the logical words, and the words with a shape of their own, each as
its obligation states it.
-/

namespace Sys2Proof.Machine

/-! ## Lane-by-lane words (R97) -/

section Ready

variable {i : Instr} {s : State} {t : Thread} {op : Nat} {w : FWord} (h : Ready i s t) (hi : IntWord i op w)

include h hi

/-- The lanes of a ready word's destination after lane results have been put together. -/
theorem Ready.laneBits_setVal_lanes (g : Nat → Int) {l : Nat} (hl : l < laneCount w.ty) :
    laneBits w.ty ((t.setVal (intWide w.ty) w.d.toNat (lanes w.ty g)).val (intWide w.ty) w.d.toNat) l
      = wrapNat (g l) (laneWidth w.ty) := by
  rw [h.val_setVal hi, Nat.mod_eq_of_lt (lanes_lt _ _), laneBits_lanes _ hl]

/-- The bits of a ready word's destination after a result. -/
theorem Ready.testBit_val_setVal (v : Nat) {j : Nat} (hj : j < valBits (intWide w.ty)) :
    ((t.setVal (intWide w.ty) w.d.toNat v).val (intWide w.ty) w.d.toNat).testBit j = v.testBit j := by
  rw [h.val_setVal hi, Nat.testBit_mod_two_pow, decide_eq_true hj, Bool.true_and]

variable (hmid : t.mid = true)

include hmid

theorem intLanes_next (f : Int → Int → Int → Int) :
    ∃ t', intLanes op w s f = .next (s.goesOn t') ∧ Wrote t t' (valRegs (intWide w.ty) w.d.toNat)
      ∧ ∀ l, l < laneCount w.ty → laneBits w.ty (t'.val (intWide w.ty) w.d.toNat) l
        = wrapNat (f (laneVal w.ty (srcInt s t w.ty w.a) l) (laneVal w.ty (srcInt s t w.ty w.b) l)
            (laneVal w.ty (srcInt s t w.ty w.c) l)) (laneWidth w.ty) :=
  ⟨_, issue_setVal h hmid hi.code rfl, wrote_setVal _ _ _ _, fun _ hl => h.laneBits_setVal_lanes hi _ hl⟩

theorem intShift_next (f : Nat → Nat → Nat → Nat) :
    ∃ t', intShift op w s f = .next (s.goesOn t') ∧ Wrote t t' (valRegs (intWide w.ty) w.d.toNat)
      ∧ ∀ l, l < laneCount w.ty → laneBits w.ty (t'.val (intWide w.ty) w.d.toNat) l
        = f (laneWidth w.ty) (laneBits w.ty (srcInt s t w.ty w.a) l)
            (if intWide w.ty then src32 s t w.b % 64 else laneBits w.ty (src32 s t w.b) l % laneWidth w.ty)
          % 2 ^ laneWidth w.ty :=
  ⟨_, issue_setVal h hmid hi.code rfl, wrote_setVal _ _ _ _,
    fun _ hl => (h.laneBits_setVal_lanes hi _ hl).trans (wrapNat_natCast _ _)⟩

theorem intBits_next (f : Nat → Nat → Nat) :
    ∃ t', intBits op w s f = .next (s.goesOn t') ∧ Wrote t t' (valRegs (intWide w.ty) w.d.toNat)
      ∧ ∀ l, l < laneCount w.ty → laneBits w.ty (t'.val (intWide w.ty) w.d.toNat) l
        = f (laneWidth w.ty) (laneBits w.ty (srcInt s t w.ty w.a) l) % 2 ^ laneWidth w.ty :=
  ⟨_, issue_setVal h hmid hi.code rfl, wrote_setVal _ _ _ _,
    fun _ hl => (h.laneBits_setVal_lanes hi _ hl).trans (wrapNat_natCast _ _)⟩

theorem intLogic_next (f : Word64 → Word64 → Word64) :
    ∃ t', intLogic op w s f = .next (s.goesOn t') ∧ Wrote t t' (valRegs (intWide w.ty) w.d.toNat)
      ∧ ∀ j, j < valBits (intWide w.ty) → (t'.val (intWide w.ty) w.d.toNat).testBit j
        = (f (BitVec.ofNat 64 (srcInt s t w.ty w.a)) (BitVec.ofNat 64 (srcInt s t w.ty w.b))).getLsbD j :=
  ⟨_, issue_setVal h hmid hi.code rfl, wrote_setVal _ _ _ _,
    fun _ hj => (h.testBit_val_setVal hi _ hj).trans (BitVec.testBit_toNat _)⟩

end Ready

/-! ## Arithmetic (R101, R104) -/

theorem eq_intLanes_of_forall_eq {op : Nat} {w : FWord} {s : State} {o : Host.Outcome State Fault Refusal}
    {f g : Int → Int → Int → Int} (ho : o = intLanes op w s g) (hfg : ∀ x y z, g x y z = f x y z) : o = intLanes op w s f := by
  rw [ho, show g = f from funext₃ hfg]

/-- Each word of the table is the lane-by-lane word of its function. -/
theorem exec_of_mem_laneTable {w : FWord} {i : Instr} {f : Int → Int → Int → Int} (hmem : (i, f) ∈ laneTable w) :
    ∃ op, IntWord i op w ∧ ∀ s, exec i s = intLanes op w s f := by
  simp only [laneTable, List.mem_cons, Prod.mk.injEq, List.not_mem_nil, or_false] at hmem
  obtain ⟨rfl, rfl⟩ | ⟨rfl, rfl⟩ | ⟨rfl, rfl⟩ | ⟨rfl, rfl⟩ | ⟨rfl, rfl⟩ | ⟨rfl, rfl⟩ | ⟨rfl, rfl⟩ | ⟨rfl, rfl⟩ | ⟨rfl, rfl⟩
    | ⟨rfl, rfl⟩ | ⟨rfl, rfl⟩ | ⟨rfl, rfl⟩ | ⟨rfl, rfl⟩ | ⟨rfl, rfl⟩ := hmem
  · exact ⟨0x01, ⟨rfl, .head _⟩, fun _ => rfl⟩
  · exact ⟨0x02, ⟨rfl, .head _⟩, fun _ => rfl⟩
  · exact ⟨0x05, ⟨rfl, .head _⟩, fun _ => rfl⟩
  · exact ⟨0x06, ⟨rfl, .head _⟩, fun s => eq_intLanes_of_forall_eq (show _ = execMulhi w s from rfl) fun _ _ _ => by
      rw [Nat.cast_pow, Nat.cast_ofNat]⟩
  · exact ⟨0x08, ⟨rfl, .head _⟩, fun _ => rfl⟩
  · exact ⟨0x09, ⟨rfl, .head _⟩, fun s => eq_intLanes_of_forall_eq (show _ = execMadhi w s from rfl) fun _ _ _ => by
      rw [Nat.cast_pow, Nat.cast_ofNat]⟩
  · exact ⟨0x0A, ⟨rfl, .head _⟩, fun _ => rfl⟩
  · refine ⟨0x0B, ⟨rfl, .head _⟩, fun s => eq_intLanes_of_forall_eq (show _ = execMax w s from rfl) fun x y _ => ?_⟩
    split_ifs <;> omega
  · refine ⟨0x0C, ⟨rfl, .head _⟩, fun s => eq_intLanes_of_forall_eq (show _ = execAbs w s from rfl) fun x _ _ => ?_⟩
    have habs : (x.natAbs : Int) = if x < 0 then -x else x := by split_ifs <;> omega
    rw [habs]
  · exact ⟨0x0D, ⟨rfl, .head _⟩, fun _ => rfl⟩
  · exact ⟨0x0E, ⟨rfl, .head _⟩, fun _ => rfl⟩
  · exact ⟨0x0F, ⟨rfl, .head _⟩, fun _ => rfl⟩
  · refine ⟨0x27, ⟨rfl, .head _⟩, fun s => eq_intLanes_of_forall_eq (show _ = execAdiff w s from rfl) fun x y _ => ?_⟩
    split_ifs <;> omega
  · exact ⟨0x2C, ⟨rfl, .head _⟩, fun s => eq_intLanes_of_forall_eq (show _ = execScadd w s from rfl) fun _ _ _ => by
      rw [Nat.cast_pow, Nat.cast_ofNat]⟩

/-- Settles O12: each word of the table puts its lanes together from the table's function. -/
theorem laneArithmetic : Obligations.LaneArithmetic := by
  intro w s t i f hmem h hmid
  obtain ⟨op, hi, hexec⟩ := exec_of_mem_laneTable hmem
  obtain ⟨t', hnext, hwrote, hlane⟩ := intLanes_next h hi hmid f
  refine ⟨t', (hexec s).trans hnext, hwrote, fun l hl => ?_⟩
  rw [hlane l hl, natCast_wrapNat]

/-! ## Shifts, rotations and bit counts (R107, R108) -/

/-- Each word of the table is the lane-by-lane shift that computes its function, for an amount below the lane width. -/
theorem exec_of_mem_shiftTable {w : FWord} {i : Instr} {f : (n : Nat) → BitVec n → Nat → BitVec n} (hmem : (i, f) ∈ shiftTable w) :
    ∃ op g, IntWord i op w ∧ (∀ s, exec i s = intShift op w s g)
      ∧ ∀ n x k, k < n → x < 2 ^ n → g n x k % 2 ^ n = (f n (BitVec.ofNat n x) k).toNat := by
  simp only [shiftTable, List.mem_cons, Prod.mk.injEq, List.not_mem_nil, or_false] at hmem
  obtain ⟨rfl, rfl⟩ | ⟨rfl, rfl⟩ | ⟨rfl, rfl⟩ | ⟨rfl, rfl⟩ | ⟨rfl, rfl⟩ := hmem
  · refine ⟨0x16, fun _ x n => x * 2 ^ n, ⟨rfl, .head _⟩, fun _ => rfl, fun n x k _ hx => ?_⟩
    rw [BitVec.toNat_shiftLeft, BitVec.toNat_ofNat, Nat.mod_eq_of_lt hx, Nat.shiftLeft_eq]
  · exact ⟨0x17, fun _ x n => x / 2 ^ n, ⟨rfl, .head _⟩, fun _ => rfl, fun n x k _ hx => (toNat_ofNat_ushiftRight hx).symm⟩
  · exact ⟨0x18, fun wd x n => wrapNat (sextNat x wd / ((2 ^ n : Nat) : Int)) wd, ⟨rfl, .head _⟩, fun _ => rfl,
      fun n x k _ _ => toNat_ofNat_sshiftRight.symm⟩
  · exact ⟨0x19, fun wd x n => x * 2 ^ n % 2 ^ wd + x / 2 ^ (wd - n), ⟨rfl, .head _⟩, fun _ => rfl,
      fun n x k hk hx => (toNat_ofNat_rotateLeft hk hx).symm⟩
  · exact ⟨0x1A, fun wd x n => x / 2 ^ n + x * 2 ^ (wd - n) % 2 ^ wd, ⟨rfl, .head _⟩, fun _ => rfl,
      fun n x k hk hx => (toNat_ofNat_rotateRight hk hx).symm⟩

/-- Each word of the table is the lane-by-lane word of a count, below 2 to the lane width, with the table's property. -/
theorem exec_of_mem_countTable {w : FWord} {i : Instr} {f : Nat → Nat → Nat → Prop} (hmem : (i, f) ∈ countTable w) :
    ∃ op g, IntWord i op w ∧ (∀ s, exec i s = intBits op w s g) ∧ ∀ n x, x < 2 ^ n → g n x < 2 ^ n ∧ f n x (g n x) := by
  simp only [countTable, List.mem_cons, Prod.mk.injEq, List.not_mem_nil, or_false] at hmem
  obtain ⟨rfl, rfl⟩ | ⟨rfl, rfl⟩ | ⟨rfl, rfl⟩ | ⟨rfl, rfl⟩ := hmem
  · exact ⟨0x1D, popNat, ⟨rfl, .head _⟩, fun _ => rfl, fun n x _ =>
      ⟨(popNat_le n x).trans_lt Nat.lt_two_pow_self, popNat_eq_length_filter n x⟩⟩
  · exact ⟨0x1E, clzNat, ⟨rfl, .head _⟩, fun _ => rfl, fun n x hx =>
      ⟨(clzNat_spec hx).1.trans_lt Nat.lt_two_pow_self, clzNat_spec hx⟩⟩
  · exact ⟨0x1F, ctzNat, ⟨rfl, .head _⟩, fun _ => rfl, fun n x _ =>
      ⟨(ctzNat_spec n x).1.trans_lt Nat.lt_two_pow_self, ctzNat_spec n x⟩⟩
  · exact ⟨0x20, revNat, ⟨rfl, .head _⟩, fun _ => rfl, fun n x _ => ⟨revNat_lt n x, revNat_lt n x, fun _ => testBit_revNat⟩⟩

/-- The amount that a lane is shifted by is below the lane width. -/
theorem shiftAmount_lt (ty b l : Nat) : (if intWide ty then b % 64 else laneBits ty b l % laneWidth ty) < laneWidth ty := by
  split_ifs with hwide
  · rw [laneWidth_of_intWide hwide]
    exact Nat.mod_lt _ (by decide)
  · exact Nat.mod_lt _ (laneWidth_pos ty)

/-- Settles O13: each word of the tables puts its lanes together from a function that computes the table's. -/
theorem shiftsAndBitCounts : Obligations.ShiftsAndBitCounts := by
  refine ⟨?shift, ?count⟩
  case shift =>
    intro w s t i f hmem h hmid
    obtain ⟨op, g, hi, hexec, hg⟩ := exec_of_mem_shiftTable hmem
    obtain ⟨t', hnext, hwrote, hlane⟩ := intShift_next h hi hmid g
    refine ⟨t', (hexec s).trans hnext, hwrote, fun l hl => ?_⟩
    rw [hlane l hl, hg _ _ _ (shiftAmount_lt _ _ _) (laneBits_lt _ _ _)]
  case count =>
    intro w s t i f hmem h hmid
    obtain ⟨op, g, hi, hexec, hg⟩ := exec_of_mem_countTable hmem
    obtain ⟨t', hnext, hwrote, hlane⟩ := intBits_next h hi hmid g
    refine ⟨t', (hexec s).trans hnext, hwrote, fun l hl => ?_⟩
    obtain ⟨hlt, hf⟩ := hg _ _ (laneBits_lt w.ty (srcInt s t w.ty w.a) l)
    rwa [hlane l hl, Nat.mod_eq_of_lt hlt]

/-! ## Logical words, `mov`, `sel` (R106, R112) -/

/-- Each word of the table is a logical word of an operation that is the table's on each of the 64 bits. -/
theorem exec_of_mem_logicTable {w : FWord} {i : Instr} {f : Bool → Bool → Bool} (hmem : (i, f) ∈ logicTable w) :
    ∃ op g, IntWord i op w ∧ (∀ s, exec i s = intLogic op w s g)
      ∧ ∀ (x y : Word64) j, j < 64 → (g x y).getLsbD j = f (x.getLsbD j) (y.getLsbD j) := by
  simp only [logicTable, List.mem_cons, Prod.mk.injEq, List.not_mem_nil, or_false] at hmem
  obtain ⟨rfl, rfl⟩ | ⟨rfl, rfl⟩ | ⟨rfl, rfl⟩ | ⟨rfl, rfl⟩ | ⟨rfl, rfl⟩ | ⟨rfl, rfl⟩ := hmem
  · exact ⟨0x10, fun x y => x &&& y, ⟨rfl, .head _⟩, fun _ => rfl, fun x y j _ => BitVec.getLsbD_and⟩
  · exact ⟨0x11, fun x y => x ||| y, ⟨rfl, .head _⟩, fun _ => rfl, fun x y j _ => BitVec.getLsbD_or⟩
  · exact ⟨0x12, fun x y => x ^^^ y, ⟨rfl, .head _⟩, fun _ => rfl, fun x y j _ => BitVec.getLsbD_xor⟩
  · exact ⟨0x13, fun x y => x &&& ~~~y, ⟨rfl, .head _⟩, fun _ => rfl, fun x y j hj => by simp [hj]⟩
  · exact ⟨0x14, fun x y => x ||| ~~~y, ⟨rfl, .head _⟩, fun _ => rfl, fun x y j hj => by simp [hj]⟩
  · exact ⟨0x15, fun x _ => ~~~x, ⟨rfl, .head _⟩, fun _ => rfl, fun x y j hj => by simp [hj]⟩

/-- Settles O14: the logical words are bitwise, and `mov` and `sel` write a source, which fits the destination. -/
theorem logicMoveSelect : Obligations.LogicMoveSelect := by
  refine ⟨?logic, ?mov, ?sel⟩
  case logic =>
    intro w s t i f hmem h hmid
    obtain ⟨op, g, hi, hexec, hg⟩ := exec_of_mem_logicTable hmem
    obtain ⟨t', hnext, hwrote, hbit⟩ := intLogic_next h hi hmid g
    refine ⟨t', (hexec s).trans hnext, hwrote, fun j hj => ?_⟩
    have hj64 : j < 64 := hj.trans_le (valBits_le _)
    rw [hbit j hj, hg _ _ _ hj64, getLsbD_ofNat_of_lt hj64, getLsbD_ofNat_of_lt hj64]
  case mov =>
    intro w s t h hmid
    exact ⟨_, issue_setVal h hmid rfl rfl, wrote_setVal _ _ _ _,
      (h.val_setVal ⟨rfl, .head _⟩ _).trans (Nat.mod_eq_of_lt (srcInt_lt _ _ _ _))⟩
  case sel =>
    intro w s t h hmid
    refine ⟨_, issue_setVal h hmid rfl rfl, wrote_setVal _ _ _ _, (h.val_setVal ⟨rfl, .head _⟩ _).trans ?_⟩
    cases t.pred (w.c.toNat % 16) <;> cases w.c.getLsbD 4 <;> exact Nat.mod_eq_of_lt (srcInt_lt _ _ _ _)

end Sys2Proof.Machine
end

section
/-!
Integer words (04), fourth part: wide products, bit fields, byte permutes and carry-less products.
-/

namespace Sys2Proof.Machine

/-! ## Wide products (R102, R103) -/

/-- Settles O16: the pair that `mulw` writes is the product modulo 2^64; `dot4` writes the sum of its products. -/
theorem wideProducts : Obligations.WideProducts := by
  refine ⟨?mulw, ?dot4⟩
  case mulw =>
    intro w s t h hmid
    refine ⟨_, issue_of_wrote h hmid rfl rfl (wrote_setPair _ _ _), wrote_setPair _ _ _, ?_⟩
    have hpow : (2 ^ 64 : Int) = ((2 ^ 64 : Nat) : Int) := by norm_num
    rw [h.pair_setPair rfl (.head _) (.tail _ (.head _)), BitVec.toInt_ofInt, hpow, Int.bmod_emod]
  case dot4 =>
    intro w s t h hmid
    refine ⟨_, issue_of_wrote h hmid rfl rfl (wrote_setReg _ _ _), wrote_setReg _ _ _, ?_⟩
    rw [h.reg_setReg ⟨rfl, .head _⟩, sextNat_eq_toInt_ofNat]
    rfl

/-! ## Bit fields (R109) -/

/-- A field has no bits exactly where the control starts it past the width or gives it none. -/
theorem emptyField_iff {n pos len : Nat} : (decide (n ≤ pos) || decide (len = 0)) = true ↔ min len (n - pos) = 0 := by
  simp only [Bool.or_eq_true, decide_eq_true_eq]
  omega

/-- The field that `bfx` takes out of `a`, at `pos`, of `len` bits but within `n`, extended by its top bit or by 0. -/
def fieldOf (signed : Bool) (n a pos len : Nat) : Nat :=
  if n ≤ pos || len = 0 then 0
  else
    let len := min len (n - pos)
    let f := a / 2 ^ pos % 2 ^ len
    if signed then wrapNat (sextNat f len) n else f

theorem execBfx_eq (w : FWord) (s : State) :
    execBfx w s = issue (.f 0x1B w) s fun s t => .go s (t.setVal (intWide w.ty) w.d.toNat
      (fieldOf (laneSigned w.ty) (laneWidth w.ty) (srcInt s t w.ty w.a) (src32 s t w.b % 256) (src32 s t w.b / 256 % 256))) := rfl

theorem testBit_fieldOf (signed : Bool) {n a pos len j : Nat} (hj : j < n) :
    (fieldOf signed n a pos len).testBit j
      = let len := min len (n - pos)
        if len = 0 then false else if j < len then a.testBit (pos + j) else signed && a.testBit (pos + len - 1) := by
  have hfield : ∀ m k, (a / 2 ^ pos % 2 ^ m).testBit k = (decide (k < m) && a.testBit (pos + k)) := fun m k => by
    rw [Nat.testBit_mod_two_pow, Nat.testBit_div_two_pow, Nat.add_comm k]
  simp only [fieldOf]
  by_cases hempty : min len (n - pos) = 0
  · rw [if_pos (emptyField_iff.mpr hempty), if_pos hempty, Nat.zero_testBit]
  · rw [if_neg (mt emptyField_iff.mp hempty), if_neg hempty]
    generalize min len (n - pos) = m at *
    have hm : 0 < m := Nat.pos_of_ne_zero hempty
    cases signed
    · by_cases hjm : j < m <;> simp [hfield, hjm]
    · by_cases hjm : j < m <;> simp [hfield, testBit_wrapNat_sextNat, hj, hm, hjm, Nat.add_sub_assoc (Nat.succ_le_of_lt hm)]

/-- What `bfi` puts into `b`: `a`'s low bits at `pos`, `len` of them but within `n`. -/
def insertField (n : Nat) (a b : Word64) (pos len : Nat) : Word64 :=
  if n ≤ pos || len = 0 then b
  else
    let len := min len (n - pos)
    let mask := BitVec.ofNat 64 ((2 ^ len - 1) * 2 ^ pos)
    (b &&& ~~~mask) ||| ((a <<< pos) &&& mask)

theorem execBfi_eq (w : FWord) (s : State) :
    execBfi w s = issue (.f 0x1C w) s fun s t => .go s (t.setVal (intWide w.ty) w.d.toNat
      (insertField (laneWidth w.ty) (BitVec.ofNat 64 (srcInt s t w.ty w.a)) (BitVec.ofNat 64 (srcInt s t w.ty w.b))
        (src32 s t w.c % 256) (src32 s t w.c / 256 % 256)).toNat) := rfl

theorem getLsbD_insertField {n : Nat} (a b : Word64) {pos len j : Nat} (hj : j < 64) :
    (insertField n a b pos len).getLsbD j
      = if pos ≤ j ∧ j < pos + min len (n - pos) then a.getLsbD (j - pos) else b.getLsbD j := by
  simp only [insertField]
  by_cases hempty : min len (n - pos) = 0
  · rw [if_pos (emptyField_iff.mpr hempty), if_neg (by omega)]
  · have hmask : (BitVec.ofNat 64 ((2 ^ min len (n - pos) - 1) * 2 ^ pos)).getLsbD j
        = decide (pos ≤ j ∧ j < pos + min len (n - pos)) := by
      rw [getLsbD_ofNat_of_lt hj, Nat.testBit_mul_two_pow, Nat.testBit_two_pow_sub_one, ← Bool.decide_and, decide_eq_decide]
      omega
    rw [if_neg (mt emptyField_iff.mp hempty), BitVec.getLsbD_or, BitVec.getLsbD_and, BitVec.getLsbD_and, BitVec.getLsbD_not,
      BitVec.getLsbD_shiftLeft, hmask]
    split_ifs with hin <;> simp [hin, hj]

/-! ## Byte permutes (R110) -/

/-- Byte `k` of the eight bytes of b:a. -/
theorem byte_of_pool {a : Nat} (ha : a < 2 ^ 32) (b k : Nat) :
    (a + b * 2 ^ 32) / 256 ^ k % 256 = if k < 4 then a / 256 ^ k % 256 else b / 256 ^ (k - 4) % 256 := by
  split_ifs with hk
  · interval_cases k <;> omega
  · have hsplit : 256 ^ k = 2 ^ 32 * 256 ^ (k - 4) := by
      rw [show (2 : Nat) ^ 32 = 256 ^ 4 by norm_num, ← pow_add]
      congr 1
      omega
    rw [hsplit, ← Nat.div_div_eq_div_mul, Nat.add_mul_div_right _ _ (by decide), Nat.div_eq_of_lt ha, Nat.zero_add]

/-- Byte `k` of four bytes put together. -/
theorem byte_of_four {f : Nat → Nat} (hf : ∀ k, f k < 256) {k : Nat} (hk : k < 4) :
    (BitVec.ofNat 32 (f 0 + f 1 * 256 + f 2 * 65536 + f 3 * 16777216)).toNat / 256 ^ k % 256 = f k := by
  have h0 := hf 0
  have h1 := hf 1
  have h2 := hf 2
  have h3 := hf 3
  rw [BitVec.toNat_ofNat]
  interval_cases k <;> omega

/-- The byte that `bperm` selects by the control's digit `k`: one of the eight of b:a, or its sign. -/
def permByte (a b ctl k : Nat) : Nat :=
  let sel := ctl / 16 ^ k % 16
  let v := (a + b * 2 ^ 32) / 256 ^ (sel % 8) % 256
  if 8 ≤ sel then (if 128 ≤ v then 255 else 0) else v

theorem execBperm_eq (w : FWord) (s : State) :
    execBperm w s = issue (.f 0x21 w) s fun s t => .go s (t.setReg w.d.toNat
      (let byte := permByte (src32 s t w.a) (src32 s t w.b) (src32 s t w.c)
       BitVec.ofNat 32 (byte 0 + byte 1 * 256 + byte 2 * 65536 + byte 3 * 16777216))) := rfl

theorem permByte_lt (a b ctl k : Nat) : permByte a b ctl k < 256 := by
  simp only [permByte]
  split_ifs <;> omega

theorem permByte_eq {a : Nat} (ha : a < 2 ^ 32) (b ctl k : Nat) :
    permByte a b ctl k
      = let byte := fun (j : Nat) => if j < 4 then a / 256 ^ j % 256 else b / 256 ^ (j - 4) % 256
        let sel := ctl / 16 ^ k % 16
        if sel < 8 then byte sel else if 128 ≤ byte (sel - 8) then 255 else 0 := by
  simp only [permByte, ← byte_of_pool ha]
  have hsel : ctl / 16 ^ k % 16 < 16 := Nat.mod_lt _ (by decide)
  generalize ctl / 16 ^ k % 16 = sel at *
  by_cases hlow : sel < 8
  · rw [if_neg (by omega), if_pos hlow, Nat.mod_eq_of_lt hlow]
  · rw [if_pos (by omega), if_neg hlow, show sel % 8 = sel - 8 by omega]

/-! ## The words -/

/-- Settles O17: each word writes the helper's value, whose bits or bytes the lemmas above give. -/
theorem fieldsPermutesProducts : Obligations.FieldsPermutesProducts := by
  refine ⟨⟨?bfx, ?bfi⟩, ?bperm, ?clmul⟩
  case bfx =>
    intro w s t h hmid
    refine ⟨_, (execBfx_eq w s).trans (issue_setVal h hmid rfl rfl), wrote_setVal _ _ _ _, fun j hj => ?_⟩
    rw [h.testBit_val_setVal ⟨rfl, .head _⟩ _ (hj.trans_le (laneWidth_le_valBits _)), testBit_fieldOf _ hj]
  case bfi =>
    intro w s t h hmid
    refine ⟨_, (execBfi_eq w s).trans (issue_setVal h hmid rfl rfl), wrote_setVal _ _ _ _, fun j hj => ?_⟩
    have hjval : j < valBits (intWide w.ty) := hj.trans_le (laneWidth_le_valBits _)
    have hj64 : j < 64 := hjval.trans_le (valBits_le _)
    rw [h.testBit_val_setVal ⟨rfl, .head _⟩ _ hjval, BitVec.testBit_toNat, getLsbD_insertField _ _ hj64,
      getLsbD_ofNat_of_lt hj64, getLsbD_ofNat_of_lt ((Nat.sub_le _ _).trans_lt hj64)]
  case bperm =>
    intro w s t h hmid
    refine ⟨_, (execBperm_eq w s).trans (issue_of_wrote h hmid rfl rfl (wrote_setReg _ _ _)), wrote_setReg _ _ _,
      fun k hk => ?_⟩
    rw [h.reg_setReg ⟨rfl, .head _⟩, byte_of_four (permByte_lt _ _ _) hk, permByte_eq (src32_lt _ _ _)]
  case clmul =>
    intro w s t i base hmem h hmid
    simp only [List.mem_cons, Prod.mk.injEq, List.not_mem_nil, or_false] at hmem
    obtain ⟨rfl, rfl⟩ | ⟨rfl, rfl⟩ := hmem
    · refine ⟨_, issue_of_wrote h hmid rfl rfl (wrote_setPair _ _ _), wrote_setPair _ _ _, fun j hj => ?_⟩
      rw [h.pair_setPair_of_ty64 ⟨rfl, .head _⟩ rfl, getLsbD_ofNat_of_lt hj, testBit_clmulNat, Nat.zero_add]
    · refine ⟨_, issue_of_wrote h hmid rfl rfl (wrote_setPair _ _ _), wrote_setPair _ _ _, fun j hj => ?_⟩
      rw [h.pair_setPair_of_ty64 ⟨rfl, .head _⟩ rfl, getLsbD_ofNat_of_lt hj, Nat.testBit_div_two_pow, Nat.add_comm j,
        testBit_clmulNat]

end Sys2Proof.Machine
end
